-- ==== Sys2Proof/Word.lean ====
section
/-!
DEFINITION. The word types of the Calug E9 and the one shape of a sparse table. Bits are numbered from 0, the
least significant (R6); multi-byte values are little-endian.
-/
namespace Sys2Proof

/-- A 64-bit word: scalar and address registers, CSRs, syllables. -/
abbrev Word := BitVec 64

/-- A byte of any address space. -/
abbrev Byte := BitVec 8

/-- A vector register, a queue entry, a random word (R25, R26, R116). -/
abbrev VReg := BitVec 2048

/-- A mask register m0–m15 (R133). -/
abbrev Mask := BitVec 256

/-- A sparse table: keys strictly rising, no entry equal to the table's default (`Tab.wf` in Machine/Tab.lean).
Equal tables are therefore equal lists. -/
abbrev Tab (α : Type) := List (Nat × α)

end Sys2Proof
end

