-- ==== Sys2Proof/Syntax.lean ====
section
/-!
DEFINITION. The instructions: one constructor for every row of spec/opcode_table.json. Syllables keep the fields of
R52 as the word holds them, because illegal values are architectural (they trap, R8, R53); micro-ops have their typed
fields (R77); the events of the device's units name the unit that acts and what reaches it.
-/
namespace Sys2Proof

/-- The fields of a syllable between its OPC and its end (R52). STOP and SLOT belong to the bundle, OPC to the constructor. -/
structure Syl where
  guard : BitVec 4
  dst : BitVec 8
  srca : BitVec 8
  srcb : BitVec 8
  imm : BitVec 24
  deriving DecidableEq, Repr

/-- The fields of a pair syllable (R68). -/
structure PairSyl where
  guard : BitVec 4
  xop : BitVec 6
  xdst : BitVec 6
  xa : BitVec 7
  xb : BitVec 8
  vop : BitVec 6
  vdst : BitVec 6
  va : BitVec 7
  vb : BitVec 8
  deriving DecidableEq, Repr

/-- Where an uncorrectable error strikes (R413). -/
inductive EccUnit where
  /-- operand-store slot of a cluster, met by a reader on core `core` and bank -/
  | slot (cluster slot core : Nat) (bank : Bool)
  /-- a latch, a result in flight or in a snapshot register, a queue entry, a plane or a ring tile of a bank's group -/
  | core (core : Nat) (bank : Bool)
  /-- segment-entry state (R412) of a bank's group: a register file, its saved copy or image, a segment entry record -/
  | entry (core : Nat) (bank : Bool)
  /-- the gang save image or the park image of a share (R412) -/
  | image (share : Nat)
  /-- a line of device memory -/
  | line (line : Nat)
  /-- a resident line of an LLC -/
  | llc (line : Nat)
  /-- a word of a cluster's microprogram store -/
  | word (cluster : Nat) (word : Nat)
  deriving DecidableEq, Repr

/-- What the host's access asks (R428, R429): a read of `n` bytes, or a write. -/
inductive HostAcc where
  | read (n : Nat)
  | write (data : List Byte)
  deriving DecidableEq, Repr

/-- What a request from another device asks at this device's memory (R199, R246). -/
inductive RemoteOp where
  | load
  | store
  | storeNt
  | loadRc (n : Nat)
  | amo (op : Nat) (w8 : Bool)
  | cas (w8 : Bool) (expect : Word)
  | bank (op : Nat) (ty : BitVec 4)
  | rres
  | rpub (idx : Word)
  | ringvoid (idx : Word)
  | arrival (n : Nat) (poison : Bool)
  deriving DecidableEq, Repr

/-- A request that another device's cluster sends: one unit of an access (R199, R204, R433). -/
structure RemoteReq where
  dev : Nat
  cluster : Nat
  ctx : Nat
  /-- intermediate offset on this device -/
  off : Nat
  len : Nat
  /-- bytes that enabled elements name -/
  en : Nat
  op : RemoteOp
  scope : Nat := 0
  acq : Bool := false
  rel : Bool := false
  /-- one access writes all 64 bytes of the line (R413) -/
  whole : Bool := false
  /-- no other unit of its access lies in the line (R215) -/
  last : Bool := true
  data : BitVec 2048
  /-- lineage of the requester's task, if it has one: ROOT, PATH, D; its effective priority and class (R320, R322, R331) -/
  lineage : Option (Word × List (BitVec 32) × Nat) := none
  ordinal : Nat := 0
  prio : Nat := 0
  cls : Nat := 7
  deriving DecidableEq, Repr

/-- A member's final status, with the device time of its failure (R439). -/
structure FinalStatus where
  status : Byte
  time : Nat
  deriving DecidableEq, Repr

/-- An arriving flit of a Norulo link (R431). -/
structure Flit where
  seq : Nat
  /-- the CRC of the flit checks -/
  good : Bool
  /-- a NAK naming this sequence number -/
  nak : Option Nat
  /-- the request it carries to this device, none when it goes on to another device or is not a request -/
  req : Option RemoteReq := none
  deriving DecidableEq, Repr

/-- One constructor per row of the opcode table. -/
inductive Instr where
  /-- ADD: X-slot scalar add modulo 2^64 (R85) -/
  | add (y : Syl)
  /-- SUB: X-slot scalar subtract modulo 2^64 (R85) -/
  | sub (y : Syl)
  /-- MUL: Scalar multiply, low 64 bits, latency 3 (R85) -/
  | mul (y : Syl)
  /-- MULHI: Signed high 64 bits of the 128-bit product (R85) -/
  | mulhi (y : Syl)
  /-- MULHN: Unsigned high 64 bits of the 128-bit product (R85) -/
  | mulhn (y : Syl)
  /-- DIV: Signed division truncated toward zero; holds the execute stream for 18 cycles and never traps (R86) -/
  | div (y : Syl)
  /-- DIVN: Unsigned division with blocking hold (R86) -/
  | divn (y : Syl)
  /-- REM: Signed remainder with the sign of a (R86) -/
  | rem (y : Syl)
  /-- REMN: Unsigned remainder (R86) -/
  | remn (y : Syl)
  /-- AND: Scalar bitwise and (R85) -/
  | and (y : Syl)
  /-- OR: Scalar bitwise or (R85) -/
  | or (y : Syl)
  /-- XOR: Scalar bitwise xor (R85) -/
  | xor (y : Syl)
  /-- ANDN: Scalar a and not b (R85) -/
  | andn (y : Syl)
  /-- SHL: Scalar shift left by b[5:0] (R85) -/
  | shl (y : Syl)
  /-- SHR: Scalar logical shift right by b[5:0] (R85) -/
  | shr (y : Syl)
  /-- SRA: Scalar arithmetic shift right by b[5:0] (R85) -/
  | sra (y : Syl)
  /-- ROT: Scalar rotate left by b[5:0] (R85) -/
  | rot (y : Syl)
  /-- MIN: Signed scalar minimum (R85) -/
  | min (y : Syl)
  /-- MAX: Signed scalar maximum (R85) -/
  | max (y : Syl)
  /-- MINN: Unsigned scalar minimum (R85) -/
  | minn (y : Syl)
  /-- MAXN: Unsigned scalar maximum (R85) -/
  | maxn (y : Syl)
  /-- CLZ: Count of leading zero bits (R85) -/
  | clz (y : Syl)
  /-- CTZ: Count of trailing zero bits (R85) -/
  | ctz (y : Syl)
  /-- POPC: Count of one bits (R85) -/
  | popc (y : Syl)
  /-- EXTR: Extracts a bit field, zero- or sign-extended (R87) -/
  | extr (y : Syl)
  /-- INS: Inserts a bit field of a into b (R87) -/
  | ins (y : Syl)
  /-- SEL: Selects a or b by bit 0 of a mask register (R89) -/
  | sel (y : Syl)
  /-- CMP_CC: Compares scalars and writes all ones or zero to a mask register (R89) -/
  | cmpCc (y : Syl)
  /-- ADDI: Adds a sign-extended 24-bit immediate (R90) -/
  | addi (y : Syl)
  /-- LI: Loads a sign-extended 24-bit immediate (R90) -/
  | li (y : Syl)
  /-- LIM: Replaces bits 47:24 with the immediate (R90) -/
  | lim (y : Syl)
  /-- LIT: Replaces bits 63:48 with a 16-bit immediate (R90) -/
  | lit (y : Syl)
  /-- ANDI: Ands with a sign-extended immediate (R90) -/
  | andi (y : Syl)
  /-- ORI: Ors with a sign-extended immediate (R90) -/
  | ori (y : Syl)
  /-- XORI: Xors with a sign-extended immediate (R90) -/
  | xori (y : Syl)
  /-- BR: Guard-conditional relative branch resolved by the execute stream and pushed to bqe (R95) -/
  | br (y : Syl)
  /-- CALL: Branch that writes the link into an s register (R95) -/
  | call (y : Syl)
  /-- RET: Jumps to the address in a register; ALIGN on misaligned target (R95) -/
  | ret (y : Syl)
  /-- JR: Jumps to a register plus an offset (R95) -/
  | jr (y : Syl)
  /-- TRAP: Raises synchronous cause TRAP with SLOT_RESUME 1 (R99) -/
  | trap (y : Syl)
  /-- SVC: Raises synchronous cause SVC with SLOT_RESUME 1 (R99) -/
  | svc (y : Syl)
  /-- ERET: Returns from a trap handler, restoring the saved state and mode (R36) -/
  | eret (y : Syl)
  /-- END: Ends the step after results in flight land; both streams stop (R98) -/
  | endStep (y : Syl)
  /-- NOP: No operation (R100) -/
  | nop (y : Syl)
  /-- CSRR: Reads a CSR (R101) -/
  | csrr (y : Syl)
  /-- CSRW: Writes a CSR and returns the old value (R101) -/
  | csrw (y : Syl)
  /-- CSRS: Sets CSR bits and returns the old value (R101) -/
  | csrs (y : Syl)
  /-- CSRC: Clears CSR bits and returns the old value (R101) -/
  | csrc (y : Syl)
  /-- TIME: Returns device time sampled at issue (R105) -/
  | time (y : Syl)
  /-- CYC: Returns the core cycle counter (R105) -/
  | cyc (y : Syl)
  /-- RNDW: Pops one random word from RBQ (R106) -/
  | rndw (y : Syl)
  /-- HINT: Gives a phase hint to the cluster governor (R362) -/
  | hint (y : Syl)
  /-- PAIR: Pair syllable executing one scalar and one vector operation under one guard (R69) -/
  | pair (y : PairSyl)
  /-- VADD: Element-wise add (R140) -/
  | vadd (hi : Bool) (y : Syl)
  /-- VSUB: Element-wise subtract (R140) -/
  | vsub (hi : Bool) (y : Syl)
  /-- VMUL: Element-wise multiply (R140) -/
  | vmul (hi : Bool) (y : Syl)
  /-- VFMA: Element-wise fused multiply-add (R140) -/
  | vfma (hi : Bool) (y : Syl)
  /-- VFMS: Element-wise fused multiply-subtract (R140) -/
  | vfms (hi : Bool) (y : Syl)
  /-- VMIN: Element-wise minimum (R141) -/
  | vmin (hi : Bool) (y : Syl)
  /-- VMAX: Element-wise maximum (R141) -/
  | vmax (hi : Bool) (y : Syl)
  /-- VABS: Element-wise absolute value (R141) -/
  | vabs (hi : Bool) (y : Syl)
  /-- VNEG: Element-wise negation (R141) -/
  | vneg (hi : Bool) (y : Syl)
  /-- VADDS: Saturating integer add (R140) -/
  | vadds (hi : Bool) (y : Syl)
  /-- VSUBS: Saturating integer subtract (R140) -/
  | vsubs (hi : Bool) (y : Syl)
  /-- VMULH: High half of the integer product (R140) -/
  | vmulh (hi : Bool) (y : Syl)
  /-- VDOT2: Two-way dot product into 32-bit elements (R142) -/
  | vdot2 (hi : Bool) (y : Syl)
  /-- VDOT4: Four-way dot product into 32-bit elements (R142) -/
  | vdot4 (hi : Bool) (y : Syl)
  /-- VAND: Bitwise and (R143) -/
  | vand (hi : Bool) (y : Syl)
  /-- VOR: Bitwise or (R143) -/
  | vor (hi : Bool) (y : Syl)
  /-- VXOR: Bitwise xor (R143) -/
  | vxor (hi : Bool) (y : Syl)
  /-- VANDN: Bitwise a and not b (R143) -/
  | vandn (hi : Bool) (y : Syl)
  /-- VSHL: Element shift left (R143) -/
  | vshl (hi : Bool) (y : Syl)
  /-- VSHR: Element logical shift right (R143) -/
  | vshr (hi : Bool) (y : Syl)
  /-- VSRA: Element arithmetic shift right (R143) -/
  | vsra (hi : Bool) (y : Syl)
  /-- VCLZ: Element leading-zero count (R143) -/
  | vclz (hi : Bool) (y : Syl)
  /-- VPOPC: Element one-bit count (R143) -/
  | vpopc (hi : Bool) (y : Syl)
  /-- VCMP_CC: Element compare writing mask bits (R144) -/
  | vcmpCc (hi : Bool) (y : Syl)
  /-- VSEL: Element select by mask (R145) -/
  | vsel (hi : Bool) (y : Syl)
  /-- MAND: Mask and (R146) -/
  | mand (hi : Bool) (y : Syl)
  /-- MOR: Mask or (R146) -/
  | mor (hi : Bool) (y : Syl)
  /-- MXOR: Mask xor (R146) -/
  | mxor (hi : Bool) (y : Syl)
  /-- MNOT: Mask not (R146) -/
  | mnot (hi : Bool) (y : Syl)
  /-- MPOPC: Counts participating mask bits (R147) -/
  | mpopc (hi : Bool) (y : Syl)
  /-- MFIRST: Index of the lowest participating mask bit (R147) -/
  | mfirst (hi : Bool) (y : Syl)
  /-- VRED: Reduces enabled elements into element 0 (R148) -/
  | vred (hi : Bool) (y : Syl)
  /-- VSCAN: Prefix scan of enabled elements (R149) -/
  | vscan (hi : Bool) (y : Syl)
  /-- VPERM: Element permute by index vector (R150) -/
  | vperm (hi : Bool) (y : Syl)
  /-- VROT: Rotates elements by a scalar count (R150) -/
  | vrot (hi : Bool) (y : Syl)
  /-- VBCAST: Broadcasts a scalar into every element (R150) -/
  | vbcast (hi : Bool) (y : Syl)
  /-- VINS: Inserts a scalar into one element (R151) -/
  | vins (hi : Bool) (y : Syl)
  /-- VEXT: Extracts one element extended to 64 bits (R151) -/
  | vext (hi : Bool) (y : Syl)
  /-- VCOMP: Compresses selected elements (R152) -/
  | vcomp (hi : Bool) (y : Syl)
  /-- VEXPD: Expands elements into selected positions (R152) -/
  | vexpd (hi : Bool) (y : Syl)
  /-- VIOTA: Prefix count of mask bits (R152) -/
  | viota (hi : Bool) (y : Syl)
  /-- VZIP: Interleaves two sources (R153) -/
  | vzip (hi : Bool) (y : Syl)
  /-- VUNZIP: Separates even or odd elements (R153) -/
  | vunzip (hi : Bool) (y : Syl)
  /-- VCVT: Converts between float, integer and cb4 types (R156) -/
  | vcvt (hi : Bool) (y : Syl)
  /-- VNARROW: Narrows integers, wrapping or saturating (R157) -/
  | vnarrow (hi : Bool) (y : Syl)
  /-- VWIDEN: Widens integers by sign or zero extension (R157) -/
  | vwiden (hi : Bool) (y : Syl)
  /-- VSCALE: Multiplies by 2^n per element (R159) -/
  | vscale (hi : Bool) (y : Syl)
  /-- VCLASS: Classifies float elements (R160) -/
  | vclass (hi : Bool) (y : Syl)
  /-- VRCP: Correctly rounded reciprocal (R161) -/
  | vrcp (hi : Bool) (y : Syl)
  /-- VRSQ: Correctly rounded reciprocal square root (R161) -/
  | vrsq (hi : Bool) (y : Syl)
  /-- VEXP2: Correctly rounded 2^x (R161) -/
  | vexp2 (hi : Bool) (y : Syl)
  /-- VLOG2: Correctly rounded log2 (R161) -/
  | vlog2 (hi : Bool) (y : Syl)
  /-- VTANH: Correctly rounded tanh (R161) -/
  | vtanh (hi : Bool) (y : Syl)
  /-- VDIV: Blocking element division (R162) -/
  | vdiv (hi : Bool) (y : Syl)
  /-- VSQRT: Blocking element square root (R162) -/
  | vsqrt (hi : Bool) (y : Syl)
  /-- VMOV: Copies a vector to enabled elements (R163) -/
  | vmov (hi : Bool) (y : Syl)
  /-- VLI: Broadcasts a 16-bit constant (R163) -/
  | vli (hi : Bool) (y : Syl)
  /-- MCALL: Queues a call of a matrix routine, optionally waiting on a barrier phase (R190) -/
  | mcall (y : Syl)
  /-- MLDS: Queues a load of the shadow stationary plane (R172) -/
  | mlds (y : Syl)
  /-- MSWP: Queues an exchange of the two planes (R172) -/
  | mswp (y : Syl)
  /-- MPW: Writes a routine parameter register mp (R190) -/
  | mpw (y : Syl)
  /-- MSHAPE: Queues a change of the band mask (R170) -/
  | mshape (y : Syl)
  /-- MRING: Allocates the group's accumulator ring at issue (R179) -/
  | mring (y : Syl)
  /-- MRADV: Consumes the ring tail by software (R181) -/
  | mradv (y : Syl)
  /-- EPCFG: Queues an epilogue configuration (R182) -/
  | epcfg (y : Syl)
  /-- EPRUN: Queues conversion of the ring tail tile by the epilogue engine (R183) -/
  | eprun (y : Syl)
  /-- MCHKR: Returns checksum status, counters or pending fault (R185) -/
  | mchkr (y : Syl)
  /-- MUPLD: Queues an upload of a microprogram routine (R187) -/
  | mupld (y : Syl)
  /-- MFLUSH: Queues a flush that completes after earlier commands and may arrive (R190) -/
  | mflush (y : Syl)
  /-- MFLUSH_DROP: Drops the group's matrix commands and filled tiles at issue (R190) -/
  | mflushDrop (y : Syl)
  /-- LD: Scalar load (R209) -/
  | ld (y : Syl)
  /-- VLD: 256-byte vector load into an lq (R210) -/
  | vld (y : Syl)
  /-- VLDS: Strided vector load (R211) -/
  | vlds (y : Syl)
  /-- VLDX: Indexed gather load popping iq (R211) -/
  | vldx (y : Syl)
  /-- VLDT: Tag-checked swizzled operand-store load (R213) -/
  | vldt (y : Syl)
  /-- LDA: Scalar acquire load at a scope (R209) -/
  | lda (y : Syl)
  /-- LDN: Vector load that gives the LLC line a read count (R216) -/
  | ldn (y : Syl)
  /-- PFT: Prefetches four lines into the LLC, never trapping (R216) -/
  | pft (y : Syl)
  /-- VLDB: Loads one element and broadcasts it (R212) -/
  | vldb (y : Syl)
  /-- ST: Scalar store (R209) -/
  | st (y : Syl)
  /-- VST: 256-byte vector store from an sq (R210) -/
  | vst (y : Syl)
  /-- VSTS: Strided vector store (R211) -/
  | vsts (y : Syl)
  /-- VSTX: Indexed scatter store popping iq (R211) -/
  | vstx (y : Syl)
  /-- STL: Scalar release store at a scope (R209) -/
  | stl (y : Syl)
  /-- DEFER: Writes a suspension record and makes the line SUSPENDED (R317) -/
  | defer (y : Syl)
  /-- RESOLVE: Writes a cell's value, makes it VALUE and wakes waiters (R318) -/
  | resolve (y : Syl)
  /-- CLRT: Writes or invalidates an operand-store slot tag (R214) -/
  | clrt (y : Syl)
  /-- STNT: Non-allocating vector store (R210) -/
  | stnt (y : Syl)
  /-- CPY: Issues a timed multidimensional copy command (R254) -/
  | cpy (y : Syl)
  /-- CPYG: Issues a gathered copy command using an index array (R256) -/
  | cpyg (y : Syl)
  /-- SHW: Writes a shape register, optionally flipping the set pointer (R252) -/
  | shw (y : Syl)
  /-- SHWI: Writes a 16-bit part of a shape register (R252) -/
  | shwi (y : Syl)
  /-- CHWM: Returns a channel's watermark (R261) -/
  | chwm (y : Syl)
  /-- CHCFG: Sets a watermark channel's range and resets it (R261) -/
  | chcfg (y : Syl)
  /-- SOPEN: Opens a shadow of a buffer, optionally merging (R262) -/
  | sopen (y : Syl)
  /-- PUB: Publishes a shadow at one instant or marks it for publication (R264) -/
  | pub (y : Syl)
  /-- SDROP: Discards an open shadow (R265) -/
  | sdrop (y : Syl)
  /-- VDEC: Submits an AV1 decode command (R270) -/
  | vdec (y : Syl)
  /-- RHNEW: Creates a residency handle for a tensor (R218) -/
  | rhnew (y : Syl)
  /-- RHSET: Applies an action to a residency handle (R219) -/
  | rhset (y : Syl)
  /-- EVPOP: Pops the oldest event record of the group (R267) -/
  | evpop (y : Syl)
  /-- BUFN: Sets the group's buffer number (R268) -/
  | bufn (y : Syl)
  /-- ALI: Access-side load immediate (R92) -/
  | ali (y : Syl)
  /-- ALIM: Access-side middle immediate insert (R92) -/
  | alim (y : Syl)
  /-- ALIT: Access-side top immediate insert (R92) -/
  | alit (y : Syl)
  /-- AADD: Access-side add (R92) -/
  | aadd (y : Syl)
  /-- ASUB: Access-side subtract (R92) -/
  | asub (y : Syl)
  /-- AADDI: Access-side add immediate (R92) -/
  | aaddi (y : Syl)
  /-- ASHLI: Access-side shift left immediate (R92) -/
  | ashli (y : Syl)
  /-- ASHRI: Access-side logical shift right immediate (R92) -/
  | ashri (y : Syl)
  /-- AANDI: Access-side and immediate (R92) -/
  | aandi (y : Syl)
  /-- AMUL: Access-side multiply (R92) -/
  | amul (y : Syl)
  /-- AMIN: Access-side signed minimum (R92) -/
  | amin (y : Syl)
  /-- AMAX: Access-side signed maximum (R92) -/
  | amax (y : Syl)
  /-- ACMP_CC: Access-side compare writing a predicate (R92) -/
  | acmpCc (y : Syl)
  /-- AMOVQ: Pops xq into an a register (R92) -/
  | amovq (y : Syl)
  /-- AQ: Pushes an a register value to an lq (R92) -/
  | aq (y : Syl)
  /-- KSET: Sets a loop counter (R93) -/
  | kset (y : Syl)
  /-- LOOP: Counted loop resolved by the access stream and pushed to bqa (R94) -/
  | loop (y : Syl)
  /-- BINIT: Initialises a barrier's target and mode (R245) -/
  | binit (y : Syl)
  /-- BARV: Arrives at a barrier of the own cluster (R245) -/
  | barv (y : Syl)
  /-- BARV_REMOTE: Sends a remote barrier arrival through the aperture as a release (R246) -/
  | barvRemote (y : Syl)
  /-- BWAIT: Waits for a barrier phase to complete, then acquires (R245) -/
  | bwait (y : Syl)
  /-- BTEST: Tests a barrier phase into a predicate (R245) -/
  | btest (y : Syl)
  /-- FENCE: Orders earlier against later accesses, commands or fetches (R229) -/
  | fence (y : Syl)
  /-- DRAIN: Holds the access stream until earlier accesses perform at a scope (R230) -/
  | drain (y : Syl)
  /-- AMO: Atomic read-modify-write with ordering (R236) -/
  | amo (y : Syl)
  /-- CAS: Atomic compare-and-swap (R236) -/
  | cas (y : Syl)
  /-- BANK: 256-byte indivisible commons bank arithmetic operation (R238) -/
  | bank (y : Syl)
  /-- RRES: Reserves a slot of a commons ring (R240) -/
  | rres (y : Syl)
  /-- RPUB: Publishes a ring slot and advances the frontier (R241) -/
  | rpub (y : Syl)
  /-- SPAWN: Starts a group of the same share on a sibling core (R303) -/
  | spawn (y : Syl)
  /-- TLAUNCH: Launches a task from a task block (R309) -/
  | tlaunch (y : Syl)
  /-- TWAIT: Waits on or adopts a child task (R307) -/
  | twait (y : Syl)
  /-- TSTAT: Returns a task's state without waiting (R310) -/
  | tstat (y : Syl)
  /-- SPALLOC: Allocates operand store from the share's claim (R304) -/
  | spalloc (y : Syl)
  /-- SPFREE: Releases an allocation identity (R304) -/
  | spfree (y : Syl)
  /-- YIELD: Exchanges banks at the next quiet boundary if the shadow can issue (R311) -/
  | yield (y : Syl)
  /-- SEGE: Opens a segment and writes the segment entry record (R419) -/
  | sege (y : Syl)
  /-- RDV: Clears own rewind-pending flag and waits on partners' flags (R419) -/
  | rdv (y : Syl)
  /-- FUSE: Requests fusion of a pair or quad (R305) -/
  | fuse (y : Syl)
  /-- DECPL: Decouples fused members at a quiet boundary (R305) -/
  | decpl (y : Syl)
  /-- REJOIN: Waits for the recorded set and fuses again (R305) -/
  | rejoin (y : Syl)
  /-- GLAUNCH: Starts a gang launch across member devices (R439) -/
  | glaunch (y : Syl)
  /-- GCOMMIT: Commits or drops a completed gang's marked shadows (R440) -/
  | gcommit (y : Syl)
  /-- WINW: Installs a window descriptor in every cluster (R392) -/
  | winw (y : Syl)
  /-- RINGVOID: Marks a ring slot VOID and advances the frontier (R405) -/
  | ringvoid (y : Syl)
  /-- GSWAP: Requests a gang switch if another context waits (R404) -/
  | gswap (y : Syl)
  /-- STRM: Streams A rows against the active plane into the head tile (R173) -/
  | strm (a : BitVec 3) (r : BitVec 5) (w : BitVec 5) (f : BitVec 4) (s : BitVec 4) (p : BitVec 7)
  /-- STRC: Streams convolution rows formed by the window walker (R177) -/
  | strc (d : BitVec 3) (r : BitVec 5) (w : BitVec 5) (y : BitVec 4) (x : BitVec 4) (s : BitVec 4)
  /-- LST: Loads the shadow plane from operand store (R172) -/
  | lst (b : BitVec 3) (f : BitVec 4) (s : BitVec 4)
  /-- SWP: Exchanges the planes after earlier streams and loads (R172) -/
  | swp
  /-- ADV: Marks the head tile filled, judges checksums and advances the head (R180) -/
  | adv
  /-- ZERO: Clears the head tile and its row flags (R180) -/
  | zero
  /-- WAITB: Holds the array engine until a barrier phase completes (R189) -/
  | waitb (b : BitVec 5) (p : BitVec 1)
  /-- ARRB: Arrives on a barrier with a count (R189) -/
  | arrb (b : BitVec 5) (c : BitVec 23)
  /-- LP: Pushes an immediate loop count (R189) -/
  | lp (c : BitVec 16)
  /-- LP_REG: Pushes a loop count from a routine register (R189) -/
  | lpReg (w : BitVec 3)
  /-- EL: Closes a routine loop (R189) -/
  | el
  /-- AINC: Adds a shifted immediate to a routine register (R189) -/
  | ainc (w : BitVec 3) (h : BitVec 5) (inc : BitVec 20)
  /-- CHK: Sets the checksum enable (R184) -/
  | chk (e : BitVec 1)
  /-- NOPM: Matrix no-operation (R189) -/
  | nopm
  /-- RETM: Ends the routine and completes the MCALL (R189) -/
  | retm
  /-- LINE_FETCH: Demand fetch of an instruction line completes into the fetch buffer (R447) -/
  | lineFetch (core : Nat) (va : Nat)
  /-- FETCH_AHEAD: Core fetches ahead a line whose page is translated, abandoning it if service is needed (R447) -/
  | fetchAhead (core : Nat) (va : Nat)
  /-- RESULT_LANDING: A result in flight lands at the end of its execute cycle (R31) -/
  | resultLanding (core : Nat)
  /-- TRAP_ENTRY: Synchronous fault taken: other stream stops, state saved, handler entered (R35) -/
  | trapEntry (core : Nat)
  /-- GROUP_SWITCH: After 2 µs frozen the front and shadow banks are exchanged, rewinding first if needed (R43) -/
  | groupSwitch (core : Nat)
  /-- REWIND: Restores a group to its segment entry record (R46) -/
  | rewind (core : Nat) (bank : Bool)
  /-- FUSION_JOIN: Last member reaches FUSE or REJOIN and lock-step begins (R305) -/
  | fusionJoin (core : Nat)
  /-- FUSED_ECLIPSE_TIMEOUT: A fused group not decoupled within 50 ms is parked so the eclipse proceeds (R51) -/
  | fusedEclipseTimeout (core : Nat)
  /-- ARRAY_COMMAND_START: The array engine takes its next queued command (MCALL, MLDS, MSWP, MSHAPE, MUPLD, MFLUSH) (R166) -/
  | arrayCommandStart (core : Nat)
  /-- MUPLD_EXEC: Array engine copies and checks routine words, accepting or rejecting them (R187) -/
  | mupldExec (core : Nat)
  /-- EPILOGUE_COMMAND_START: The epilogue engine takes its next queued EPCFG or EPRUN (R166) -/
  | epilogueCommandStart (core : Nat)
  /-- EPILOGUE_ROW: Epilogue engine converts and writes one tile row (R183) -/
  | epilogueRow (core : Nat)
  /-- BAND_GATE: A band idle for 2 µs in all four arrays is power-gated (R171) -/
  | bandGate (cluster : Nat) (band : Nat)
  /-- BAND_POWER_UP: A gated band needed by a command finishes powering up (R171) -/
  | bandPowerUp (cluster : Nat) (band : Nat)
  /-- LOAD_DATA_RETURN: Data of a load arrives in its register or lq entry (R206) -/
  | loadDataReturn (cluster : Nat) (id : Nat)
  /-- REMOTE_ACCESS_PERFORM: A remote access performs at its serving point (R223) -/
  | remoteAccessPerform (cluster : Nat) (id : Nat) (piece : Nat)
  /-- LLC_MISS_FILL: An LLC miss fills a line, decoding window blocks (R129) -/
  | llcMissFill (line : Nat)
  /-- RHSET_ACTION_DONE: A background handle action finishes (R219) -/
  | rhsetActionDone (ctx : Nat) (handle : Nat)
  /-- FAULT_RECORD_WRITE: A fault record is written into the host fault ring when room exists (R396) -/
  | faultRecordWrite (hdie : Nat)
  /-- TOKEN_FREE_TAKE: A waiting fault takes a token that falls free (R395) -/
  | tokenFreeTake (hdie : Nat)
  /-- REPLAY: Host answers a fault token OK or FAIL (R398) -/
  | replay (hdie : Nat) (w : Word)
  /-- TLBINV: Host requests translation-cache invalidation (R394) -/
  | tlbinv (hdie : Nat) (w : Word)
  /-- TLBINV_DONE: Invalidation completes and BUSY clears (R394) -/
  | tlbinvDone (hdie : Nat)
  /-- MIGCMD_GO: Host starts migration of a page (R402) -/
  | migcmdGo (hdie : Nat) (w : Word)
  /-- MIGRATION_PIECE_DONE: A 4 KiB piece finishes migrating and held requests perform (R401) -/
  | migrationPieceDone (hdie : Nat) (page : Nat)
  /-- FRAMEPUSH: Host adds a free frame to the H-die pool (R396) -/
  | framepush (hdie : Nat) (w : Word)
  /-- FRTAIL_WRITE: Host consumes fault records, freeing ring room (R396) -/
  | frtailWrite (hdie : Nat) (w : Word)
  /-- CMSPLIT_WRITE: Host changes the commons/LLC split (R196) -/
  | cmsplitWrite (hdie : Nat) (w : Word)
  /-- CMSPLIT_DONE: The split change completes and BUSY clears (R196) -/
  | cmsplitDone (hdie : Nat)
  /-- FWIN_ENABLE: Write of EN = 1 checks and enables a format window (R128) -/
  | fwinEnable (hdie : Nat) (n : Nat) (w : Word)
  /-- FWIN_DISABLE: Write of EN = 0 starts write-back and invalidation of a window (R128) -/
  | fwinDisable (hdie : Nat) (n : Nat)
  /-- FWIN_FLUSH: Write of FLUSH = 1 writes back every dirty window line (R128) -/
  | fwinFlush (hdie : Nat) (n : Nat)
  /-- FWIN_BUSY_DONE: A window flush or disable completes and BUSY clears (R128) -/
  | fwinBusyDone (hdie : Nat) (n : Nat)
  /-- HOTNESS_CLEAR: Host write of 0 clears a hotness counter (R221) -/
  | hotnessClear (ctx : Nat) (n : Nat) (stall : Bool)
  /-- BARRIER_ARRIVAL: An arrival reaches the barrier file and may complete phases and wake waiters (R243) -/
  | barrierArrival (cluster : Nat) (i : Nat)
  /-- COPY_START: A buffered copy command starts once its time and order allow (R253) -/
  | copyStart (cluster : Nat) (id : Nat)
  /-- COPY_ELEMENT: The copy engine moves one element, updating tags and watermarks (R254) -/
  | copyElement (cluster : Nat) (id : Nat)
  /-- COPY_COMPLETE: A copy completes, arrives and posts its event record (R255) -/
  | copyComplete (cluster : Nat) (id : Nat)
  /-- SHADOW_MERGE_DONE: The merge copy of a shadow completes (R262) -/
  | shadowMergeDone (cluster : Nat) (id : Nat)
  /-- VDEC_START: A queued decode command starts on a free decoder (R270) -/
  | vdecStart (id : Nat) (decoder : Nat)
  /-- DECODE_FRAME: A decoder outputs one frame, its status word and its arrival (R274) -/
  | decodeFrame (decoder : Nat)
  /-- VDEC_COMPLETE: Decoder writes the completion word and event record (R275) -/
  | vdecComplete (decoder : Nat)
  /-- LRTAIL_WRITE: Host advances the launch ring tail (R287) -/
  | lrtailWrite (ctx : Nat) (w : Word)
  /-- LAUNCH_RECORD_CONSUME: Device consumes one launch record, launching or refusing it (R287) -/
  | launchRecordConsume (ctx : Nat)
  /-- OVERFLOW_SHARE_MOVE: The oldest overflowed share moves into a freed queue entry (R289) -/
  | overflowShareMove (cluster : Nat)
  /-- READINESS_RECHECK: Readiness is retested after a write to a predecessor word (R290) -/
  | readinessRecheck (share : Nat)
  /-- READINESS_POLL: Readiness of remote or unreadable predecessor words is retested every 10 µs (R290) -/
  | readinessPoll (share : Nat)
  /-- SCHEDULER_TICK: Every 10 µs each cluster applies choice and pre-emption (R293) -/
  | schedulerTick (cluster : Nat)
  /-- STEP_START: A dealt step is taken into a bank and its group begins (R296) -/
  | stepStart (core : Nat)
  /-- GROUP_END: A group ends after both streams pass END and its bank frees (R297) -/
  | groupEnd (core : Nat) (bank : Bool)
  /-- SHARE_COMPLETE: A share completes, publishes marked shadows and frees allocations (R297) -/
  | shareComplete (share : Nat)
  /-- ALLOW_EXPIRY: Device time passes a share attempt's allowance and it is aborted (R300) -/
  | allowExpiry (share : Nat)
  /-- ABORT_SETTLE: Every group of an aborting share has stopped; it splits, reruns or ends (R301) -/
  | abortSettle (share : Nat)
  /-- PARENT_RESTORE: An adopted parent is restored to a free bank after the task completes (R307) -/
  | parentRestore (core : Nat)
  /-- FIRST_TOUCH: A request reaches a SUSPENDED line and the hub launches its evaluator (R319) -/
  | firstTouch (line : Nat)
  /-- EVALUATOR_RETRY: Hub retries an evaluator launch every 10 µs while queues are full (R321) -/
  | evaluatorRetry (line : Nat)
  /-- CELL_WAKE: A waiter is woken and its load replays (R325) -/
  | cellWake (cluster : Nat) (i : Nat)
  /-- WAKE_MESSAGE: A remote wake message arrives at a proxy entry (R331) -/
  | wakeMessage (line : Nat)
  /-- WAIT_WATCHDOG: After 10 ms a waiter is checked for a dependency cycle (R327) -/
  | waitWatchdog (cluster : Nat) (i : Nat)
  /-- EPH_SUBMIT: Host writes EPHGO to submit an ephemeris (R336) -/
  | ephSubmit
  /-- EPH_VERDICT: The lead Perigee accepts or refuses the submitted curve (R338) -/
  | ephVerdict
  /-- UTCOFF_WRITE: Write of the UTC offset, accepted only within the slew limit (R337) -/
  | utcoffWrite (w : Word)
  /-- SEGMENT_CHANGE: A new ephemeris segment or the default envelope comes into force (R339) -/
  | segmentChange
  /-- CURTAILMENT_PARK: A share stops at a quiet boundary and spills to the park tier (R346) -/
  | curtailmentPark (share : Nat)
  /-- DIE_GATE: A gating candidate die is gated, 2 ms after the last (R347) -/
  | dieGate (die : Nat)
  /-- GRADE_LIFT: After 10 ms of headroom a grade is relaxed by one step (R348) -/
  | gradeLift
  /-- DIE_UNGATE: A gated die is ungated, 2 ms after the last (R348) -/
  | dieUngate (die : Nat)
  /-- BALLAST_TAPER: Ballast passes taper a power fall within the slope limit (R357) -/
  | ballastTaper
  /-- RAIL_SAMPLE: Rail current sensors are read every 10 µs (R342) -/
  | railSample
  /-- ALLOWANCE_RECOMPUTE: Every 100 µs cluster allowances are recomputed (R342) -/
  | allowanceRecompute
  /-- PERIGEE_REPORT: H-die 1 Perigee reports to the lead every 10 µs (R19) -/
  | perigeeReport
  /-- LEAD_TIMEOUT: The lead does not respond and the default envelope applies until reset (R19) -/
  | leadTimeout
  /-- TRACKING_WINDOW_END: A 50 ms window ends and floor miss or excused energy is recorded (R341) -/
  | trackingWindowEnd
  /-- STALL_SAMPLE: Every 10 µs a cluster samples its stall ratio and adjusts its target level (R351) -/
  | stallSample (cluster : Nat)
  /-- FREQUENCY_SWITCH_DONE: A frequency switch pause of a level step ends (R352) -/
  | frequencySwitchDone (cluster : Nat)
  /-- VOLTAGE_RAMP_DONE: A voltage ramp of a level step completes (R352) -/
  | voltageRampDone (cluster : Nat)
  /-- DROOP_ALARM: Droop detector alarm stretches the clock and inserts gaps (R355) -/
  | droopAlarm (cluster : Nat)
  /-- LLC_BANK_GATE: Each ms the estimator may write back and gate a cold LLC bank (R359) -/
  | llcBankGate (hdie : Nat) (bank : Nat)
  /-- LLC_BANK_REENABLE: Every 100 µs a gated LLC bank may be re-enabled on high miss rate (R359) -/
  | llcBankReenable (hdie : Nat) (bank : Nat)
  /-- CTX_ENABLE: Write of EN = 1 makes a FREE context LIVE if its areas check (R388) -/
  | ctxEnable (ctx : Nat) (w : Word)
  /-- CTX_KILL: Write of KILL = 1 starts a kill of a LIVE context (R400) -/
  | ctxKill (ctx : Nat)
  /-- CTX_KILL_DONE: A kill finishes, GEN increments and the context becomes FREE (R400) -/
  | ctxKillDone (ctx : Nat)
  /-- CTX_HALT: Write of HALT switches the context out or returns it to choice (R389) -/
  | ctxHalt (ctx : Nat) (on : Bool)
  /-- GANG_SWITCH: A cluster saves the outgoing context and restores the incoming one (R403) -/
  | gangSwitch (cluster : Nat)
  /-- SLOT_RESTORE: An operand-store slot is restored after a gang switch (R403) -/
  | slotRestore (cluster : Nat) (slot : Nat)
  /-- ECC_CORRECTED: A corrected error is counted, possibly switching a bank to strong mode or retiring a page (R410) -/
  | eccCorrected (unit : EccUnit)
  /-- STRONG_REENCODE_LINE: The scrubber re-encodes one line of a bank under the strong code (R410) -/
  | strongReencodeLine (bank : Nat)
  /-- ECC_UNCORRECTABLE: An uncorrectable error is handled by rewind, refetch, poison or rerun (R413) -/
  | eccUncorrectable (unit : EccUnit)
  /-- CLEAN_REFETCH_DONE: Refetch of a CLEAN slot completes before rewound groups resume (R414) -/
  | cleanRefetchDone (cluster : Nat) (slot : Nat)
  /-- SCRUB_LINE: The scrubber reads and corrects one line (R411) -/
  | scrubLine
  /-- ECLIPSE_DEAL_STOP: From slot n−3 no step is dealt to the eclipsing core (R420) -/
  | eclipseDealStop (core : Nat)
  /-- ECLIPSE_SLOT_START: A core's eclipse slot starts, parking its groups and starting scan (R420) -/
  | eclipseSlotStart (core : Nat)
  /-- SCAN_PASS: A scan passes; the core's epoch advances and publications confirm (R421) -/
  | scanPass (core : Nat)
  /-- SCAN_FAIL: A scan fails; the cluster is fenced and publications become SUSPECT (R423) -/
  | scanFail (core : Nat)
  /-- CONFQ_QUERY: Write of a publish-log query (R422) -/
  | confqQuery (w : Word)
  /-- CONFQ_CLEAR: Write of CLR frees matching SUSPECT entries (R422) -/
  | confqClear (w : Word)
  /-- LIFECMD_GO: Host requests a signed lifetime-counter snapshot (R425) -/
  | lifecmdGo (w : Word)
  /-- LIFE_SNAPSHOT_DONE: The signed snapshot has been written and BUSY clears (R425) -/
  | lifeSnapshotDone
  /-- HOST_MEM_ACCESS: A host CXL.mem access is served at the owning H-die (R428) -/
  | hostMemAccess (addr : Nat) (data : HostAcc)
  /-- BAR0_ACCESS: A host MMIO access through BAR0 reaches registers or core CSR pages (R429) -/
  | bar0Access (addr : Nat) (data : HostAcc)
  /-- REGSEL_WRITE: Host selects a saved bank for the register window (R430) -/
  | regselWrite (w : Word)
  /-- FLIT_RECEIVE: A Norulo flit arrives; a CRC failure triggers replay (R431) -/
  | flitReceive (port : Nat) (flit : Flit)
  /-- LANE_SHED: A port sheds lanes after a retraining failure or high error rate (R434) -/
  | laneShed (port : Nat)
  /-- LANE_REGAIN: Lanes error-free for 1 s are regained (R434) -/
  | laneRegain (port : Nat)
  /-- PORT_DOWN: A port goes DOWN and traffic moves to the alternate route (R433) -/
  | portDown (port : Nat)
  /-- PORT_UP: A port completes training and becomes UP (R432) -/
  | portUp (port : Nat)
  /-- ARM: Member receives ARM, checks and reserves, and answers (R439) -/
  | arm (dev : Nat) (gang : Nat) (ctx : Nat) (block : List Byte)
  /-- ARM_OK: Initiator receives an ARM acknowledgement (R439) -/
  | armOk (dev : Nat) (gang : Nat)
  /-- ARM_REFUSE: Initiator receives a refusal and sends DISARM (R439) -/
  | armRefuse (dev : Nat) (gang : Nat)
  /-- ARM_TIMEOUT: An ARM acknowledgement is missing after 200 µs (R439) -/
  | armTimeout (gang : Nat)
  /-- DISARM: Member receives DISARM and releases its reservation (R439) -/
  | disarm (dev : Nat) (gang : Nat)
  /-- GO_WAIT_TIMEOUT: A member without GO for 1 ms releases its reservation (R439) -/
  | goWaitTimeout (dev : Nat) (gang : Nat)
  /-- GO: Member receives GO with start time and acknowledges (R439) -/
  | go (dev : Nat) (gang : Nat) (start : Nat)
  /-- GANG_START: Member launches its gang shares at start time S (R439) -/
  | gangStart (dev : Nat) (gang : Nat)
  /-- GO_ACK: Initiator receives a GO acknowledgement (R439) -/
  | goAck (dev : Nat) (gang : Nat)
  /-- GO_TIMEOUT: A GO-ACK is missing after 200 µs and GANGBREAK is broadcast (R439) -/
  | goTimeout (gang : Nat)
  /-- GANGBREAK: Member aborts its gang shares and drops their shadows (R439) -/
  | gangbreak (dev : Nat) (gang : Nat)
  /-- GANG_DONE: Initiator collects a member's DONE and may complete the gang (R439) -/
  | gangDone (dev : Nat) (gang : Nat) (status : FinalStatus)
  /-- GANG_COMMIT_MESSAGE: Member publishes or drops marked shadows on a commit request (R440) -/
  | gangCommitMessage (dev : Nat) (gang : Nat) (drop : Bool)
  /-- RESET: Device reset starts the boot ROM (R442) -/
  | reset
  /-- BOOT_STAGE_DONE: A boot stage completes and BOOTSTAT advances or fails (R442) -/
  | bootStageDone
  /-- GET_MEASUREMENTS: SPDM request reporting the five measurement indices (R443) -/
  | getMeasurements
  /-- KEY_EXCHANGE: SPDM session establishment that sets IDE keys (R443) -/
  | keyExchange (data : List Byte)
  /-- VENDOR_KEY_UPDATE: Signed vendor request changing facility keys or fleet identifiers (R443) -/
  | vendorKeyUpdate (data : List Byte)
  /-- REGISTER_WRITE: Write of a register field that has no row of its own (R8) -/
  | registerWrite (addr : Nat) (w : Word)
  /-- RBQ_REFILL: The core generator places the next word W(K, RCTR + n) into the group's random-bit queue (R118) -/
  | rbqRefill (core : Nat)
  /-- GCOMMIT_ACK: The initiator receives a member's acknowledgement of a GCOMMIT and writes aD once every member has acknowledged (R440) -/
  | gcommitAck (dev : Nat) (gang : Nat)
  /-- GCOMMIT_ACK_TIMEOUT: A member has not acknowledged a GCOMMIT within 200 µs, so aD receives 3 and the gang record is kept (R440) -/
  | gcommitAckTimeout (gang : Nat)
  deriving DecidableEq, Repr

end Sys2Proof
end

