-- ==== Sys2Proof/Machine/State.lean ====
section
/-!
DEFINITION. The state of one Calug E9 package as plain data: the groups and their two streams, the cores with their
matrix units, the clusters with their engines, the H-dies with translation and memory-side caches, the contexts,
tasks and shares, the governor, the recovery records and the fabric. Each field names its rule and its reset value.
Indexed units are sparse tables (`Tab`) whose unlisted keys hold the unit's reset value.
-/
namespace Sys2Proof.Machine

/-! ## The group of one register bank -/

/-- GSTAT and SAV_STAT (R38). -/
structure Gstat where
  /-- cause code of the last trap; R38; reset 0 -/
  cause : BitVec 8 := 0
  /-- slot at which the faulting stream resumes; R38; reset 0 -/
  slotResume : BitVec 3 := 0
  /-- faulting stream, true = access; R38; reset 0 -/
  stream : Bool := false
  /-- true from trap entry until ERET; R38; reset 0 -/
  valid : Bool := false
  /-- true = S, false = U; R38; reset 0 -/
  mode : Bool := false
  /-- sticky: an acquire whose synchronises-with edge was dropped; R38; reset 0 -/
  scopeMiss : Bool := false
  /-- true while the group is fused; R38; reset 0 -/
  fused : Bool := false
  /-- width of the current or last fusion; R38; reset 0 -/
  fwidth : BitVec 2 := 0
  /-- fused index of this core; R38; reset 0 -/
  fidx : BitVec 2 := 0
  /-- bank that is front; R38; reset 0 -/
  bank : Bool := false
  /-- the shadow bank holds a group; R38; reset 0 -/
  shadow : Bool := false
  /-- access-stream freeze reason (R34); R38; reset 0 -/
  frza : BitVec 4 := 0
  /-- execute-stream freeze reason (R34); R38; reset 0 -/
  frzx : BitVec 4 := 0
  /-- consecutive latch-live boundaries, 0–16; R38, R41; reset 0 -/
  lrun : BitVec 5 := 0
  deriving DecidableEq, Repr

/-- Where the result of an execute-stream syllable lands (R23, R33, R65). -/
inductive Land where
  | sreg (n : Nat)
  | vreg (n : Nat)
  | mreg (n : Nat)
  | mpreg (n : Nat)
  /-- the reserved entry `id` of queue `q` (numbered as R430 numbers them: lq0–lq3, sq0, sq1, xq, iq) -/
  | queue (q : Nat) (id : Nat)
  /-- NWB: the slot's latch only (R66) -/
  | latch
  deriving DecidableEq, Repr

/-- A result in flight (R31), in the pipeline, a snapshot register or the trap save area. -/
structure Flight where
  /-- execute cycles left, counting the one under way; R31 -/
  left : Nat
  /-- execute slot 0 X, 1 V0, 2 V1, 3 M; R23, R24 -/
  slot : Nat
  dst : Land
  val : VReg
  /-- the bits of the destination and latch that the result writes (R134) -/
  en : VReg
  /-- NWB = 1: the result makes its latch live (R33) -/
  nwb : Bool := false
  deriving DecidableEq, Repr

/-- One entry of a stream queue: reserved at issue, filled when the result or the data lands (R27). -/
structure QEntry where
  id : Nat
  data : Option VReg
  deriving DecidableEq, Repr

/-- The outcome of a control transfer in bqa or bqe (R26, R96, R98). -/
structure BOut where
  taken : Bool
  target : Word
  /-- the outcome "end" of END -/
  isEnd : Bool := false
  deriving DecidableEq, Repr

/-- One set of the architectural queues (R26): the normal set or the trap set of a bank. -/
structure QueueSet where
  /-- lq0–lq3 (keys 0–3), sq0, sq1 (4, 5), xq (6), iq (7); depths 8, 8, 8, 4; R26; reset empty -/
  q : Tab (List QEntry) := []
  /-- LOOP outcomes, depth 16; R26; reset empty -/
  bqa : List BOut := []
  /-- branch outcomes, depth 16; R26; reset empty -/
  bqe : List BOut := []
  deriving DecidableEq, Repr

/-- A write or flip of a shape register whose three-bundle count has not run out (R252). -/
structure ShPend where
  /-- access bundles still to issue before it takes effect; R252 -/
  left : Nat
  /-- physical register, the bits that the write replaces, and their value; none for no write -/
  write : Option (Nat × Word × Word)
  /-- toggles PTR -/
  flip : Bool
  /-- issued after the segment entry, so a rewind undoes its flip (R252) -/
  fresh : Bool
  deriving DecidableEq, Repr

/-- A watermark channel ch0–ch7 (R261). -/
structure Chan where
  /-- first byte of the range; R261; reset: no range (R296) -/
  base : Nat := 0
  /-- bytes of the range, 0 for no range; R261; reset 0 -/
  len : Nat := 0
  /-- the range lies in operand store; R261; reset 0 -/
  os : Bool := false
  /-- a copy fault of a command that names the channel; R261; reset 0 -/
  flt : Bool := false
  /-- per 64-byte granule, the bytes written since CHCFG; R261; reset none -/
  filled : Tab (BitVec 64) := []
  deriving DecidableEq, Repr

/-- The segment entry record (R46). -/
structure SegRec where
  /-- entry bundle address, for APC and XPC; R46; reset 0 -/
  addr : Word := 0
  /-- k0–k3; R46; reset 0 -/
  k : Tab (BitVec 32) := []
  /-- ring head, tail, filled; R46; reset 0 -/
  head : Nat := 0
  tail : Nat := 0
  filled : Nat := 0
  /-- PTR with every flip issued before the entry; R46, R252; reset 0 -/
  ptr : Bool := false
  /-- generator counter, which is the RBQ read position too; R46, R118; reset 0 -/
  rctr : Word := 0
  /-- device time of the entry: engine commands issued after it are cancelled by a rewind (R417) -/
  seq : Nat := 0
  deriving DecidableEq, Repr

/-- What an access-stream hold waits for before the next bundle (R34 codes 3 and 8). -/
inductive Hold where
  /-- the accesses named have performed (atomics, BANK, RRES, RPUB, RINGVOID, DEFER, RESOLVE; R34, R237) -/
  | accs (ids : List Nat)
  /-- DRAIN at a scope: each access has performed at it (R225, R230) -/
  | drain (scope : Nat) (ids : List Nat)
  /-- FENCE with SI: the accesses have performed, then the fetch buffer is discarded (R229) -/
  | fenceI (ids : List Nat)
  /-- GCOMMIT of a gang waits for its members (R440) -/
  | gcommit (gang : Nat) (rd : Nat)
  /-- RDV with its mask (R419) -/
  | rdv (mask : BitVec 4)
  /-- FUSE or REJOIN with its width, at its bundle (R305) -/
  | fuse (fw : BitVec 2) (addr : Word) (rejoin : Bool)
  /-- TWAIT on a task that has no share READY or WAITING, or that could not be adopted (R307) -/
  | twait (task : Nat) (rd : Nat)
  /-- a TWAIT that stopped when its group left the front, and is to issue again: its task register's value (R312) -/
  | retwait (task : Nat) (rd : Nat)
  /-- an adopted parent, saved until its task completes (R307) -/
  | adopted (task : Nat) (rd : Nat)
  /-- the refetch of a CLEAN operand-store slot, after the rewind that its damage made (R413, R427) -/
  | refetch (slot : Nat)
  /-- a group switched out while its BWAIT waited for barrier `b` to leave phase `ph` (R43) -/
  | barrier (b : Nat) (ph : Bool)
  deriving DecidableEq, Repr

/-- What trap entry keeps of the interrupted streams beside the SAV registers (R35, R36, R96). -/
structure Saved where
  apc : Word
  xpc : Word
  hist : List Word
  awaitBqe : Bool
  segNext : Bool
  needQuiet : Bool
  xNext : Option Word
  endX : Bool
  endA : Bool
  /-- an access-stream fault left its bundle part-issued (R35) -/
  slotA : Nat
  slotX : Nat
  midA : Bool
  /-- execute cycles a blocking result committed by the part of the bundle already issued still holds (R32) -/
  holdLeft : Nat
  /-- the boundary before the bundle at XPC has been counted (R41) -/
  counted : Bool
  atEntry : Bool
  /-- what the access stream waited for before its next bundle: waited for again after ERET (R247) -/
  holds : List Hold := []
  /-- bundles issued until then, and the late failure of an access of theirs: it traps after ERET (R35, R205) -/
  bundle : Nat := 0
  lateFault : Option (BitVec 8 × Option (Word × Nat)) := none
  deriving DecidableEq, Repr

/-- A pending engine fault of a group (R168, R185). -/
structure MFault where
  cause : BitVec 8
  rout : Nat := 0
  word : Nat := 0
  epi : Bool := false
  deriving DecidableEq, Repr

/-- A group: the whole content of one register bank (R40) and the stream bookkeeping of R27–R46. -/
structure Group where
  /-- number of the group, never used twice; the model's own name for it -/
  gid : Nat := 0
  /-- context, R40; share, R297 -/
  ctx : Nat := 0
  share : Nat := 0
  /-- index of the step in its share's dealing order (R295) -/
  step : Nat := 0
  /-- 0 for a step's own group, 1 + k for a group that SPAWN started on core k (R117, R303) -/
  origin : Nat := 0
  /-- access-stream bundle address; R25, R40; reset 0 -/
  apc : Word := 0
  /-- execute-stream bundle address; R25, R40; reset 0 -/
  xpc : Word := 0
  /-- R38; reset 0 -/
  gstat : Gstat := {}
  /-- SAV_STAT; R38; reset 0 -/
  savStat : Gstat := {}
  /-- SAV_APC; R39; reset 0 -/
  savApc : Word := 0
  /-- SAV_XPC; R39; reset 0 -/
  savXpc : Word := 0
  /-- TVEC; R39; reset 0 -/
  tvec : Word := 0
  /-- a0–a31, 64 bits; R25; zero at a step's start (R296) -/
  a : Tab Word := []
  /-- g1–g7, 64 bits; R203; zero at a step's start (R296) -/
  g : Tab Word := []
  /-- k0–k3, 32 bits; R93; zero at a step's start (R296) -/
  k : Tab (BitVec 32) := []
  /-- s1–s63, 64 bits; R25; zero at a step's start (R296) -/
  s : Tab Word := []
  /-- v0–v63, 2,048 bits; R25; zero at a step's start (R296) -/
  v : Tab VReg := []
  /-- m1–m15, 256 bits; R133; zero at a step's start (R296) -/
  m : Tab Mask := []
  /-- mp0–mp7, 64 bits; R25; zero at a step's start (R296) -/
  mp : Tab Word := []
  /-- lt0–lt2 (keys 0–2), 64, 2,048 and 2,048 bits; R33; zero at a step's start (R296) -/
  lt : Tab VReg := []
  /-- which latches are live; R33; reset none -/
  live : BitVec 3 := 0
  /-- normal queue set; R40; reset empty -/
  nq : QueueSet := {}
  /-- trap queue set; R40; reset empty -/
  tq : QueueSet := {}
  /-- the trap queue set is selected; R35; reset false -/
  trapSel : Bool := false
  /-- next queue-entry and access number; the model's own -/
  nextId : Nat := 0
  /-- results in flight; R31; reset none -/
  flight : List Flight := []
  /-- the 24 snapshot registers: results held while the execute stream is frozen; R34; reset none -/
  snap : List Flight := []
  /-- trap save area, 24 entries: results and latches of the interrupted code; R35; reset none -/
  trapSave : List Flight := []
  trapLt : Tab VReg := []
  trapLive : BitVec 3 := 0
  /-- execute cycles a blocking result still holds the stream; R32; reset 0 -/
  holdLeft : Nat := 0
  /-- the latch-live boundary before the bundle at XPC has been counted in LRUN: a bundle that traps at its first slot and
  issues again is not counted twice; R41; reset false -/
  counted : Bool := false
  /-- RMODE.DYN; R113; reset 0 -/
  rmode : BitVec 3 := 0
  /-- RCTR; R117; reset 0 -/
  rctr : Word := 0
  /-- RBQ, up to eight words ahead; R118; reset empty -/
  rbq : List VReg := []
  /-- physical sh0–sh15, 64 bits; R251; reset 0 -/
  sh : Tab Word := []
  /-- shape-set pointer PTR; R251; reset 0 -/
  ptr : Bool := false
  /-- shape writes and flips not yet in effect; R252; reset none -/
  shPend : List ShPend := []
  /-- ch0–ch7; R261; reset no range -/
  ch : Tab Chan := []
  /-- current buffer number, 6 bits; R268; reset 0 -/
  bufNo : BitVec 6 := 0
  /-- current hint, 2 bits; R362; reset none (0) -/
  hint : BitVec 2 := 0
  /-- segment entry record; R46; reset the step's entry -/
  seg : SegRec := {}
  /-- bundles that the access stream has issued and the execute stream has not, oldest first: the lead, 0–64; R28;
  reset none -/
  hist : List Word := []
  /-- bundles the access stream has issued; R252 counts them; reset 0 -/
  bundles : Nat := 0
  /-- the access stream must pop bqe before its next bundle (R29, R96); reset false -/
  awaitBqe : Bool := false
  /-- first slot at which each stream resumes inside its bundle after ERET (R36); reset 0 -/
  slotA : Nat := 0
  slotX : Nat := 0
  /-- the bundle at APC has been issued in part, and stands in the lead already (R35, R36); reset false -/
  midA : Bool := false
  /-- the execute stream follows a transfer: its next bundle (R96); none while it walks on -/
  xNext : Option Word := none
  /-- a rewind has put the group back at its segment entry, whose record stands (R46, R418); reset false -/
  atEntry : Bool := false
  /-- a segment opens at the access stream's next bundle (R44); reset true, a step's first bundle -/
  segNext : Bool := true
  /-- CSR writes of the execute bundle under way, in order: number and value; they take effect at the end of its
  execute cycle (R101) -/
  csrw : List (Nat × Word) := []
  /-- stream bookkeeping of the interrupted code, kept from trap entry to ERET (R35, R36); reset none -/
  saved : Option Saved := none
  /-- END has issued in the execute stream, and the access stream has popped it (R98) -/
  endX : Bool := false
  endA : Bool := false
  /-- a synchronous fault waits for the other stream to stop: cause, access stream?, slot (R35) -/
  trapPend : Option (BitVec 8 × Bool × Nat) := none
  /-- the other stream met a bundle that would fault and holds it unissued (R35) -/
  heldA : Bool := false
  heldX : Bool := false
  /-- the next bundle of the execute stream must not follow a latch-live boundary (R44) -/
  needQuiet : Bool := false
  /-- access-stream results of the bundle being issued, landing at its end (R24): register file a, g or k -/
  awr : List (Nat × Nat × Word) := []
  /-- a registers whose producing access has not completed (R30), with the access -/
  busy : List (Nat × Nat) := []
  /-- what the access stream waits for before its next bundle (R34) -/
  holds : List Hold := []
  /-- accesses that must perform before any later read, write and engine command (R229, R231) -/
  befR : List Nat := []
  befW : List Nat := []
  befE : List Nat := []
  /-- the page token the access stream or the fetch waits on: H-die and token (R395) -/
  pageWait : Option (Nat × Nat) := none
  /-- an intermediate page the group waited on was answered FAIL (R398); reset none -/
  pageFail : Option Nat := none
  /-- the watchdog has found the group in a cycle: its load of this line traps with DEPCYCLE (R327); reset none -/
  depCycle : Option Nat := none
  /-- the barrier whose completed phase has woken the group's BWAIT (R243); reset none -/
  bwoken : Option Nat := none
  /-- the cell line the group is parked on (R323): physical line -/
  parked : Option Nat := none
  /-- device time at which the access stream's present freeze began (R43); reset none -/
  frozenAt : Option Nat := none
  /-- YIELD acts at the next quiet boundary (R311) -/
  yieldReq : Bool := false
  /-- DECPL acts at the first quiet boundary after its bundle, which is this one of the bundles issued (R50) -/
  decplReq : Option Nat := none
  /-- the group was ended by a double trap: second and first cause (R37) -/
  dead : Option (BitVec 8 × BitVec 8) := none
  /-- an access that failed after issue: its cause, and its bundle and slot where nothing behind it has issued (R35, R205,
  R398); reset none -/
  lateFault : Option (BitVec 8 × Option (Word × Nat)) := none
  /-- the highest access slot of the bundle issued last, and whether its transfer has been followed since; reset 0, false -/
  lastSlot : Nat := 0
  followed : Bool := false
  /-- an uncorrectable error has met the group before a segment entry that it has yet to reach: it rewinds there (R413);
  reset false -/
  errPend : Bool := false
  /-- pending engine fault; R165, R168; reset none -/
  fault : Option MFault := none
  /-- woken from a cell's line, so that the load replays (R325); reset false -/
  woken : Bool := false
  /-- the bundle of the load that has parked the group: its replay, or its DEPCYCLE trap, comes with it (R325, R327); reset
  none -/
  parkAt : Option Word := none
  /-- freeze code that the last attempt to issue the access stream's next bundle found, 0 for none (R34); reset 0 -/
  stallCode : Nat := 0
  /-- the same of the execute stream, which MRADV alone can stall so (R34, R181); reset 0 -/
  stallX : Nat := 0
  deriving DecidableEq, Repr

/-! ## The matrix unit of one core -/

/-- A stationary plane (R165, R172). -/
structure Plane where
  /-- TYPE code; R165; reset 0 -/
  fmt : BitVec 4 := 0
  /-- R165, R170; reset false -/
  valid : Bool := false
  /-- K_eff rows; R169; reset 0 -/
  keff : Nat := 0
  /-- elements, row k column n at (k × N + n) × size; R172; reset none -/
  data : Tab Byte := []
  deriving DecidableEq, Repr

/-- The check sums of one tile row (R184). -/
structure RowChk where
  /-- E_r and M_r as f64 encodings; R184; reset +0 -/
  e : Word := 0
  m : Word := 0
  /-- E_r in integers for i32 accumulators; R184; reset 0 -/
  ei : Int := 0
  /-- K_r; R184; reset 0 -/
  kr : Nat := 0
  /-- a non-finite operand reached the row; R184; reset false -/
  na : Bool := false
  deriving DecidableEq, Repr

/-- A physical ring tile of 16 KiB (R165, R180). -/
structure Tile where
  /-- row r, column n at 512 r + n × accumulator bytes; R180; reset zero -/
  data : Tab Byte := []
  /-- TYPE code of the accumulator, none before the first stream; R174; reset none -/
  acc : Option (BitVec 4) := none
  /-- columns of the streams, 0 before the first; R169; reset 0 -/
  cols : Nat := 0
  /-- MASKED rows; R177; reset none -/
  masked : BitVec 32 := 0
  /-- the check enable was 1 for every stream since ZERO; R184; reset true -/
  chkAll : Bool := true
  rows : Tab RowChk := []
  /-- 0 NONE, 1 PASS, 2 NA, 3 FAILED; R184, R185; reset 0 -/
  status : BitVec 2 := 0
  deriving DecidableEq, Repr

/-- The ring of one group (R179). -/
structure Ring where
  /-- the group that issued the MRING, and its share -/
  gid : Nat := 0
  share : Nat := 0
  /-- physical tiles by logical index; R179 -/
  tiles : List Nat
  head : Nat := 0
  tail : Nat := 0
  filled : Nat := 0
  /-- software consumption; R179 -/
  swc : Bool := false
  deriving DecidableEq, Repr

/-- An epilogue configuration (R182). -/
structure EpCfg where
  scaleAddr : Nat
  pitch : Nat
  out : BitVec 4
  round : BitVec 3
  sat : Bool
  act : BitVec 2
  sb : Bool
  shd : Bool
  oswz : BitVec 4
  deriving DecidableEq, Repr

/-- A queued matrix command (R166, R190). -/
inductive MKind where
  | mcall (rout : Nat) (bar : Nat) (ph : Bool) (wait : Bool) (mp : Tab Word)
  | mlds (base : Word) (fmt swz : BitVec 4)
  | mswp
  | mshape (mask : BitVec 4)
  | mupld (rout : Nat) (src : Word) (count : Nat) (off : Nat)
  | mflush (arr : Bool) (bar : Nat)
  | epcfg (cfg : EpCfg)
  | eprun (dst : Word) (arr : Bool) (bar : Nat)
  deriving DecidableEq, Repr

structure MCmd where
  /-- issuing bank, group and share (R166, R168) -/
  bank : Bool
  gid : Nat
  ctx : Nat
  share : Nat := 0
  /-- the mode it was issued in, for the windows of an epilogue's shadow rows (R168, R390) -/
  smode : Bool := false
  /-- device-wide issue number, against the segment entry and MUPLD's order (R187, R191) -/
  seq : Nat
  kind : MKind
  /-- an MCALL that waits: the phases of its barrier when the wait began (R243); none before -/
  waitFrom : Option Nat := none
  /-- the page token that the epilogue engine waits on at a row of the command (R395) -/
  token : Option (Nat × Nat) := none
  deriving DecidableEq, Repr

/-- The routine that the array engine runs (R189). -/
structure Run where
  cmd : MCmd
  rout : Nat
  /-- word index in the microprogram store -/
  pc : Nat
  /-- loop stack: word after the LP, and the count; at most 4 -/
  loops : List (Nat × Nat) := []
  /-- wp0–wp7 -/
  wp : Tab Word := []
  /-- a WAITB that waits: the phases of its barrier when the wait began (R189, R243); none before -/
  waitFrom : Option Nat := none
  deriving DecidableEq, Repr

/-- What travelled with a parked group of a core whose other group stayed: the boundary of its stopped command, and the
copy that is loaded before its first resumed command (R191). -/
structure Resume where
  gid : Nat
  active : Plane
  shadow : Plane
  ashape : BitVec 4
  ep : Option EpCfg
  epRows : Nat
  run : Option Run
  epRun : Option (MCmd × Nat × Nat)
  chk : Bool
  /-- the copy has been loaded -/
  loaded : Bool := false
  deriving DecidableEq, Repr

/-- The matrix unit (R165). -/
structure Matrix where
  /-- active stationary plane; R165; reset VALID 0 -/
  active : Plane := {}
  /-- shadow stationary plane; R165; reset VALID 0 -/
  shadow : Plane := {}
  /-- ASHAPE.MASK; R170; reset 0b1111 -/
  ashape : BitVec 4 := 0b1111
  /-- the 16 physical tiles; R165; reset zero -/
  tiles : Tab Tile := []
  /-- the ring of each group that has issued an MRING here and whose share goes on; R179, R297; reset none -/
  rings : List Ring := []
  /-- matrix command queue, 16 entries; R165; reset empty -/
  queue : List MCmd := []
  /-- the array engine's command under way (R166); reset none -/
  run : Option Run := none
  /-- check enable; R184; reset 0 -/
  chk : Bool := false
  /-- epilogue configuration in force; R182; reset none -/
  ep : Option EpCfg := none
  /-- row count n since the last EPCFG; R121, R182; reset 0 -/
  epRows : Nat := 0
  /-- the EPRUN under way, its next row and the bytes written (R183); reset none -/
  epRun : Option (MCmd × Nat × Nat) := none
  /-- parked groups that have returned beside a group that stayed; R191; reset none -/
  resumes : List Resume := []
  /-- NA and FAILED counters, 32 bits; R184; reset 0 -/
  na : BitVec 32 := 0
  failed : BitVec 32 := 0
  deriving DecidableEq, Repr

/-! ## The core -/

/-- An instruction line in the fetch buffer or on its way (R58, R447). -/
structure FLine where
  /-- virtual address, a multiple of 64 -/
  va : Nat
  /-- the 64 bytes, byte 0 in bits 7:0; none while the fetch is outstanding -/
  data : Option (BitVec 512)
  /-- the fetch waits on this token (R447) -/
  token : Option (Nat × Nat) := none
  /-- the fetch failed (R57) -/
  failed : Bool := false
  deriving DecidableEq, Repr

/-- Where the eclipse of a core stands (R420). -/
inductive Eclipse where
  | idle
  | dealStop
  | scanning (began : Nat)
  deriving DecidableEq, Repr

structure Core where
  /-- the groups of bank 0 and bank 1; R40; reset empty -/
  bank0 : Option Group := none
  bank1 : Option Group := none
  /-- front bank; R40; reset bank 0 -/
  front : Bool := false
  /-- fetch buffer of 8 lines; R58; reset empty -/
  fetch : List FLine := []
  /-- cycle counter, 64 bits; R105; reset 0 (since the core left reset) -/
  cyc : Word := 0
  /-- matrix unit; R165 -/
  mat : Matrix := {}
  /-- epoch of the last passed scan, device time; R421; reset 0 -/
  epoch : Nat := 0
  /-- eclipse state; R420; reset idle -/
  eclipse : Eclipse := .idle
  /-- groups of the two banks saved by an eclipse park (R420) -/
  eclSaved : Option (Option Group × Option Group × Matrix) := none
  /-- the core must pass its eclipse before it is dealt a step (R347); reset false -/
  eclDue : Bool := false
  /-- device time since which a fused group has kept the core from its eclipse (R51); reset none -/
  eclWait : Option Nat := none
  /-- this core's own groups' adopted parents, restored ahead of other shares (R307) -/
  parents : List Group := []
  /-- spilled groups waiting to be woken (R324) -/
  spilled : List Group := []
  /-- rewind-pending flag: the groups whose rewind has set it, each with its share; R418; reset none -/
  rewound : List (Nat × Nat) := []
  deriving DecidableEq, Repr

/-! ## The cluster -/

/-- A tile tag of an operand-store slot (R178). -/
structure Tag where
  /-- R178; reset: not given, DESIGN CHOICE 0 -/
  fmt : BitVec 4 := 0
  swz : BitVec 4 := 0
  /-- R178; reset 0 as R403 leaves a slot -/
  valid : Bool := false
  poison : Bool := false
  deriving DecidableEq, Repr

/-- A barrier b0–b31 (R242). -/
structure Barrier where
  /-- R242; reset 0 -/
  phase : Bool := false
  poison : Bool := false
  ppois : Bool := false
  mode : Bool := false
  /-- 28 bits; R242; reset 0 -/
  target : Nat := 0
  current : Nat := 0
  /-- phases completed so far: an engine that waits sees a phase that two flips have passed (R243); the model's own, reset 0 -/
  phases : Nat := 0
  deriving DecidableEq, Repr

/-- The place an access reaches, after windows and pages (R193, R390). -/
inductive Place where
  /-- operand store of a cluster (R200) -/
  | os (cluster : Nat) (addr : Nat)
  /-- the ring window of a core (R181) -/
  | ring (addr : Nat)
  /-- a 42-bit offset of this device, through the context's pages (R195, R393) -/
  | dev (off : Nat)
  /-- host memory through CXL (R390) -/
  | host (addr : Nat)
  /-- a 52-bit intermediate address of another device (R199) -/
  | far (ia : Nat)
  deriving DecidableEq, Repr

/-- What an access does where it performs (R209–R212, R236–R241, R246, R317, R318, R405). -/
inductive AccKind where
  | load
  | store
  /-- STNT: a store that allocates no LLC line (R210) -/
  | storeNt
  /-- LDN: a load whose missed lines take this read count (R215, R216) -/
  | loadRc (n : Nat)
  | amo (op : Nat) (w8 : Bool)
  | cas (w8 : Bool) (expect : Word)
  | bank (op : Nat) (ty : BitVec 4)
  | rres
  | rpub (idx : Word)
  | ringvoid (idx : Word)
  | defer
  | resolve
  | barv (cluster bar : Nat) (n : Nat) (poison : Bool)
  /-- BINIT of the own cluster, in order with the local accesses (R245) -/
  | binit (bar target : Nat) (mode : Bool)
  /-- VDEC's load of its descriptor: barrier, ARR, EV (R270) -/
  | vdec (bar : Nat) (arr ev : Bool)
  deriving DecidableEq, Repr

/-- Where a load's or an atomic's value goes (R206). -/
inductive ADest where
  | none
  | areg (n : Nat)
  | lq (q : Nat) (id : Nat)
  deriving DecidableEq, Repr

/-- One unit of an access that performs at one instant: an aligned 16-byte unit or an element (R204). -/
structure Piece where
  place : Place
  va : Nat
  /-- bytes -/
  len : Nat
  /-- byte offset within the access's data -/
  off : Nat
  /-- the bytes of it that enabled elements name, bit i for byte i (R203) -/
  en : Nat
  /-- it has entered the link port or the CXL port (R225) -/
  sent : Bool := false
  /-- the access writes all 64 bytes of its line (R413) -/
  whole : Bool := false
  deriving DecidableEq, Repr

/-- An access in a cluster's outbound queue (R224). -/
structure Acc where
  id : Nat
  core : Nat
  bank : Bool
  gid : Nat
  ctx : Nat
  /-- share of the group (R266) -/
  share : Nat := 0
  /-- S mode at issue (R390) -/
  smode : Bool
  kind : AccKind
  pieces : List Piece
  data : VReg
  dst : ADest
  /-- size code and sign extension of a scalar load (R207) -/
  sz : Nat := 3
  sx : Bool := false
  /-- bytes every enabled element of a VLDB repeats, with the lanes enabled (R212) -/
  bcast : Option (Nat × VReg) := none
  scope : Nat := 0
  acq : Bool := false
  rel : Bool := false
  /-- accesses that must perform first (R229, R231) -/
  after : List Nat := []
  /-- buffer number (R220) -/
  buf : BitVec 6 := 0
  /-- the group's bundle that made it (R226) -/
  bundle : Nat := 0
  /-- every piece has performed; the data has yet to arrive (R206) -/
  done : Bool := false
  /-- token the access waits on (R395) -/
  token : Option (Nat × Nat) := none
  /-- parked on this line (R323) -/
  parked : Option Nat := none
  /-- the replay of a woken load: it never sets SCOPEMISS (R325) -/
  calm : Bool := false
  /-- the bundle and slot of its syllable, and the queue entries that the syllable popped (R35) -/
  addr : Word := 0
  slot : Nat := 4
  popped : List (Nat × QEntry) := []
  deriving DecidableEq, Repr

/-- A group's place in the 256-entry wait table (R323). -/
structure WaitEnt where
  core : Nat
  bank : Bool
  gid : Nat
  ctx : Nat
  line : Nat
  va : Nat
  /-- task of the waiting group, for its lineage (R320, R323) -/
  task : Nat
  since : Nat
  /-- a proxy for a cell of another device (R331) -/
  proxy : Bool := false
  /-- spilled to the overflow area (R324) -/
  spilled : Bool := false
  /-- the context whose wait overflow area holds the unit (R324) -/
  owner : Nat := 0
  /-- the access that waits, of a load that met the cell after it had issued -/
  acc : Option Nat := none
  /-- the cell has left EVALUATING since the entry was made, so that the wake is on its way (R325) -/
  due : Bool := false
  deriving DecidableEq, Repr

/-- A copy command (R250, R253, R254). -/
structure Copy where
  id : Nat
  core : Nat
  bank : Bool
  gid : Nat
  ctx : Nat
  share : Nat
  smode : Bool
  /-- issue number against the segment entry (R417) -/
  seq : Nat
  time : Nat
  dst : Word
  src : Word
  dos : Bool
  sos : Bool
  shd : Bool
  /-- channel, none for no channel -/
  chan : Option Nat
  bar : Nat
  arr : Bool
  rc : Nat
  ev : Bool
  buf : BitVec 6
  /-- the captured shape set sh[0]–sh[7] -/
  shape : List Word
  gather : Bool
  started : Bool := false
  /-- index of the next element in iteration order -/
  next : Nat := 0
  /-- arrival and event record dropped by a rewind (R417) -/
  mute : Bool := false
  token : Option (Nat × Nat) := none
  parked : Option Nat := none
  /-- every element moved: completion steps of R255 remain -/
  moved : Bool := false
  after : List Nat := []
  /-- a merge into this shadow base (R262) -/
  merge : Option Nat := none
  /-- CPYG: the row under way and its index (R256) -/
  row : Option (Nat × Int) := none
  /-- slots that another agent has written since the command started (R414) -/
  spoilt : List Nat := []
  deriving DecidableEq, Repr

/-- An event record (R267). -/
structure EvRec where
  status : BitVec 8
  kind : Nat
  lost : Bool
  group : Nat
  gid : Nat
  tag : BitVec 16
  time : BitVec 32
  deriving DecidableEq, Repr

/-- A routine table entry (R186). -/
structure Routine where
  start : Nat := 0
  len : Nat := 0
  /-- 0 EMPTY, 1 VALID, 2 INVALID; R186; reset EMPTY -/
  state : BitVec 2 := 0
  deriving DecidableEq, Repr

/-- One band of a cluster's arrays (R171). -/
structure Band where
  /-- R171; reset: C-dies are gated until READY (R442), DESIGN CHOICE powered -/
  gated : Bool := false
  powering : Bool := false
  /-- device time of the last work in any of the four arrays -/
  lastUse : Nat := 0
  deriving DecidableEq, Repr

/-- Traffic that stands in a cluster's inbound crossing FIFO while its clock is paused (R353). -/
inductive InItem where
  /-- load data, copy data or decoder output: the event that it brings about, of so many bytes -/
  | event (i : Instr) (bytes : Nat)
  /-- a barrier arrival: context, barrier, count, poison -/
  | arrival (ctx bar n : Nat) (poison : Bool)
  deriving DecidableEq, Repr

/-- The V/F state of a cluster (R351–R354). -/
structure Dvfs where
  /-- R354; reset 15 -/
  level : Nat := 15
  target : Nat := 15
  /-- 0 idle, 1 raising voltage, 2 switching frequency, 3 lowering voltage; R354; reset 0 -/
  stepSt : BitVec 2 := 0
  /-- peak occupancy of the inbound crossing FIFO in the step under way; R353; reset 0 -/
  fifoPeak : Nat := 0
  /-- the step under way raises the level (R352) -/
  rising : Bool := false
  sratio : Nat := 0
  fifoMax : Nat := 0
  deny : Nat := 0
  steps : Nat := 0
  /-- requested level (R344), none while no share runs in the cluster; reset none -/
  requested : Option Nat := none
  /-- stall-ratio counters of the present sample: stalled and all cycles; R16, R351; reset 0 -/
  stalled : Nat := 0
  cycles : Nat := 0
  /-- device time of the last stall-ratio sample; R351; reset 0 -/
  sampledAt : Nat := 0
  /-- sum of the samples since the last recomputation, and their number (R342); reset 0 -/
  window : Nat := 0
  samples : Nat := 0
  /-- device time at which the present level came into force (R424); reset 0 -/
  since : Nat := 0
  /-- samples in a row above the allowance (R342) -/
  above : Nat := 0
  /-- rail power of the last sample and the mean of the last 100 µs, 1/16 W (R342) -/
  power : Nat := 0
  drawn : Nat := 0
  /-- allowance, 1/16 W (R342) -/
  allow : Nat := 0
  deriving DecidableEq, Repr

/-- The state of a cluster that travels with a context's gang (R403). -/
structure Gang where
  cores : List (Option Group × Option Group × Bool × Matrix) := []
  routines : Tab Routine := []
  words : Tab (BitVec 32) := []
  os : List Host.Cell := []
  tags : Tab Tag := []
  copies : List Copy := []
  events : List EvRec := []
  deriving DecidableEq, Repr

/-- A group of a parked share, with its part of the core's matrix unit (R191, R346). -/
structure ParkGroup where
  core : Nat
  bank : Bool
  group : Group
  ring : Option Ring
  /-- contents of the ring's tiles, by their place in `ring.tiles` -/
  tiles : List Tile
  queue : List MCmd
  rest : Resume
  deriving DecidableEq, Repr

/-- What a curtailment park of one share took to the park tier (R346). -/
structure ParkImg where
  share : Nat
  /-- every share of the cluster had parked: the image holds all of operand store -/
  whole : Bool := false
  groups : List ParkGroup := []
  /-- claimed operand-store slots, or all of it when no share of the cluster stayed -/
  os : List Host.Cell := []
  tags : Tab Tag := []
  copies : List Copy := []
  deriving DecidableEq, Repr

structure Cluster where
  /-- operand store, 6 MiB; R16, R200; unlisted bytes read zero (R403) -/
  os : List Host.Cell := []
  /-- tile tags of the 1,536 slots; R178 -/
  tags : Tab Tag := []
  /-- CLEAN slots: intermediate address of the source, and the tag's swizzle; R414; reset none -/
  clean : Tab (Option (Nat × Nat)) := []
  /-- readers of each CLEAN slot since its fill: slot and group; R413 -/
  readers : List (Nat × Nat) := []
  /-- slots not yet restored after a gang switch, or being refetched; R403, R413; reset none -/
  unrestored : List Nat := []
  /-- CLEAN slots whose refetch is under way; R413; reset none -/
  refetch : List Nat := []
  /-- barriers of each context, key 32 × context + b; R242, R246; reset 0 -/
  bars : Tab Barrier := []
  /-- the context the cluster holds; R293; reset none -/
  ctx : Option Nat := none
  /-- wait table, 256 entries, and the spilled records after it; R323; reset empty -/
  wait : List WaitEnt := []
  /-- launch queue of 64 shares; R289; reset empty -/
  launchQ : List Nat := []
  /-- copy command buffer of 64 entries; R253; reset empty -/
  copies : List Copy := []
  /-- event queue of 128 records; R267; reset empty -/
  events : List EvRec := []
  /-- groups whose next record carries LOST (R267) -/
  lost : List Nat := []
  /-- outbound queue; R224; reset empty -/
  outbound : List Acc := []
  /-- arrivals on their way to the barrier file: context, barrier, count, poison (R243); reset none -/
  arrivals : List (Nat × Nat × Nat × Bool) := []
  /-- microprogram store, 4,096 words of 32 bits; R186; reset: not given, DESIGN CHOICE 0 -/
  words : Tab (BitVec 32) := []
  /-- routine table, 64 entries; R186; reset EMPTY -/
  routines : Tab Routine := []
  /-- bands 0–3; R171 -/
  bands : Tab Band := []
  /-- fusion line: cores that have raised it; R16, R50; reset 0 -/
  fusion : BitVec 4 := 0
  dvfs : Dvfs := {}
  /-- inbound crossing FIFO, of 64 entries of 64 bytes, oldest first; R353; reset empty -/
  fifo : List InItem := []
  /-- droop: stretched cycles and gap cycles left; R355; reset 0 -/
  stretch : Nat := 0
  gaps : Nat := 0
  /-- droop threshold THR, mV; R356; reset 40 -/
  thr : Nat := 40
  /-- droop alarms COUNT; R356; reset 0 -/
  alarms : Nat := 0
  /-- images of contexts gang-switched out, by context; R403; reset none -/
  saved : Tab (Option Gang) := []
  /-- images of curtailment-parked shares, oldest first; R346; reset none -/
  parked : List ParkImg := []
  /-- a gang switch to this context is asked for (R293, R404) -/
  switchTo : Option Nat := none
  /-- fenced after a failed scan; R423; reset false -/
  fenced : Bool := false
  deriving DecidableEq, Repr

/-! ## The H-dies: memory, translation, windows -/

/-- The stamp that a release leaves with a line (R232); none stands for ANY. -/
structure Stamp where
  cl : Option Nat
  dev : Option Nat
  sc : Nat
  deriving DecidableEq, Repr

/-- The evaluation state kept with an EVALUATING line (R319, R322). -/
structure Eval where
  /-- the suspension record at first touch (R319) -/
  record : BitVec 512 := 0
  /-- the evaluator's task; none until it could be launched (R321) -/
  task : Option Nat := none
  /-- cell address in the creator's context (R321) -/
  va : Nat := 0
  /-- the creator's core and its writes before the DEFER (R317) -/
  before : Nat × List Nat := (0, [])
  /-- loader's cluster, none for a remote loader or a copy (R321) -/
  loader : Option Nat := none
  /-- lineage the evaluator takes: ROOT, PATH, D (R320) -/
  root : Word := 0
  path : List (BitVec 32) := []
  depth : Nat := 0
  /-- inherited priority and class (R322) -/
  prio : Nat := 0
  cls : Nat := 7
  /-- device time at which that priority was lent (R291) -/
  lentAt : Nat := 0
  /-- page token that the read of the evaluator's block waits on (R319, R451) -/
  token : Option (Nat × Nat) := none
  deriving DecidableEq, Repr

/-- What the ECC metadata of one 64-byte line holds (R232, R314, R408). -/
structure LineMeta where
  /-- 0 VALUE, 1 SUSPENDED, 2 EVALUATING, 3 FAILED; R314; reset VALUE -/
  cell : BitVec 2 := 0
  /-- R232; reset no stamp (R442) -/
  stamp : Option Stamp := none
  /-- R408; reset no poison (R442) -/
  poison : Bool := false
  /-- of a SUSPENDED line: the cell's address as DEFER named it, in the creator's context (R321); reset 0 -/
  cellVa : Nat := 0
  /-- of a SUSPENDED line: the core that made the cell, and its writes before the DEFER, which the evaluator sees (R317);
  reset none -/
  before : Nat × List Nat := (0, [])
  /-- of an EVALUATING line; R319; reset none -/
  eval : Option Eval := none
  deriving DecidableEq, Repr

/-- A resident LLC line (R198, R215). -/
structure LLine where
  data : BitVec 512
  dirty : Bool := false
  /-- read count; R215 -/
  rc : Option Nat := none
  /-- place in the victim order: least recently used has the least number (R198) -/
  lru : Nat := 0
  /-- first in the victim order: an STNT has hit the line (R210) -/
  first : Bool := false
  /-- the bank that holds the line (R196); none: no way was free, and the line leaves with the access -/
  bank : Option Nat := none
  deriving DecidableEq, Repr

/-- A format window (R126). -/
structure Fwin where
  /-- CFG.EN, BUSY, ERR; R126; reset 0 -/
  en : Bool := false
  busy : Bool := false
  err : Bool := false
  /-- a disable is in progress, not only a flush (R128) -/
  closing : Bool := false
  fmt : BitVec 3 := 0
  tgt : Bool := false
  rnd : BitVec 3 := 0
  /-- IMG.BASE bits 51:16; R126; reset 0 -/
  img : BitVec 36 := 0
  units : BitVec 32 := 0
  /-- ENC.ADDR bits 51:6; R126; reset 0 -/
  enc : BitVec 46 := 0
  /-- AUX.ADDR bits 51:5; R126; reset 0 -/
  aux : BitVec 47 := 0
  seed : Word := 0
  /-- 32-byte codebook buffer; R128; reset 0 -/
  book : BitVec 256 := 0
  deriving DecidableEq, Repr

/-- An outstanding page fault (R395). -/
structure Token where
  num : Nat
  ctx : Nat
  gen : BitVec 32
  page : Nat
  kind : Nat
  count : Nat
  time : Nat
  /-- its record has been written into the ring -/
  written : Bool := false
  deriving DecidableEq, Repr

/-- A record waiting for room in the host fault ring, or a fault waiting for a token (R395, R397). -/
structure FRec where
  page : Nat
  kind : Nat
  ctx : Nat
  gen : BitVec 32
  count : Nat
  token : Nat
  time : Nat
  deriving DecidableEq, Repr

/-- An entry of an H-die's translation cache (R393, R394). -/
structure TlbEnt where
  ctx : Nat
  page : Nat
  frame : Nat
  /-- page bytes -/
  size : Nat
  ro : Bool
  deriving DecidableEq, Repr

/-- A page in migration (R401, R402). -/
structure Migr where
  ctx : Nat
  page : Nat
  size : Nat
  src : Nat
  dst : Nat
  /-- address of the L0–L2 entry to rewrite -/
  pte : Nat
  /-- pieces moved -/
  next : Nat := 0
  /-- started by MIGCMD, by a handle's action, or for a withdrawal: KIND of the freed frame's record -/
  freed : Nat := 6
  handle : Option (Nat × Nat) := none
  deriving DecidableEq, Repr

/-- A remote request that waits at its hub (R199, R331). -/
structure Held where
  req : RemoteReq
  /-- page token that it waits on -/
  token : Option (Nat × Nat) := none
  /-- line whose evaluation it waits for, and the context whose wait overflow area holds its record (R324, R331) -/
  parked : Option Nat := none
  owner : Nat := 0
  /-- that line has left EVALUATING since (R331) -/
  due : Bool := false
  deriving DecidableEq, Repr

/-- Accesses of an H-die's LLC in one tenth of a millisecond of device time (R359). -/
structure LlcStat where
  /-- device time ÷ 100 µs -/
  tenth : Nat
  accesses : Nat := 0
  misses : Nat := 0
  /-- hits by bank -/
  hits : Tab Nat := []
  deriving DecidableEq, Repr

structure HDie where
  /-- CMSPLIT.NSTEP and BUSY; R196; reset 0 -/
  nstep : Nat := 0
  splitBusy : Bool := false
  /-- the split asked for while BUSY (R196) -/
  nstepNew : Nat := 0
  /-- FWIN0–FWIN31; R126; reset 0 -/
  fwin : Tab Fwin := []
  /-- LLC lines by physical line number; R198; reset none -/
  llc : Tab (Option LLine) := []
  /-- gated LLC banks; R359; reset none -/
  gatedBanks : List Nat := []
  /-- accesses of the last 1 ms, by tenths of a millisecond, newest first; R359; reset none -/
  llcStat : List LlcStat := []
  /-- device time of the estimator's last millisecond, and of the last bank re-enabled; R359; reset 0 -/
  bankAt : Nat := 0
  enableAt : Nat := 0
  /-- FRBASE; R396; reset 0 -/
  frbase : Word := 0
  /-- FRHEAD, FRTAIL, 32 bits; R396; reset 0 -/
  frhead : BitVec 32 := 0
  frtail : BitVec 32 := 0
  /-- the table of 8,192 tokens; R395; reset none held -/
  tokens : List Token := []
  /-- faults that wait for a token (FRSTAT.FULL); R395; reset none -/
  noToken : List FRec := []
  /-- records that wait for ring room (R395, R416); reset none -/
  recs : List FRec := []
  /-- translation cache; R393; reset empty -/
  tlb : List TlbEnt := []
  /-- TLBINV under way; R394; reset 0 -/
  tlbinv : Option Word := none
  /-- MIGDST.FRAME; R396; reset 0 -/
  migdst : BitVec 40 := 0
  /-- MIGCMD: written word, BUSY and RESULT; R402; reset 0 -/
  migBusy : Bool := false
  migResult : BitVec 4 := 0
  /-- migrations under way; R401; reset none -/
  migr : List Migr := []
  /-- pool of free frames: KIND, SIZE, frame; R396; reset empty -/
  pool : List (Nat × Nat × Nat) := []
  /-- stall buffer of remote requests to MIGRATING pieces, 32 entries; R401; reset empty -/
  stall : List RemoteReq := []
  /-- remote requests that wait for page service or for a cell; R199, R331; reset none -/
  held : List Held := []
  /-- link ports whose requests are refused, each with the refused one that must be accepted first; R401; reset none -/
  refusing : List (Nat × RemoteReq) := []
  deriving DecidableEq, Repr

/-! ## Contexts -/

/-- A window of a context (R391). -/
structure Window where
  /-- BASE and LIMIT bits 55:16, XLAT bits 51:16; R391; reset 0 -/
  base : BitVec 40 := 0
  limit : BitVec 40 := 0
  xlat : BitVec 36 := 0
  host : Bool := false
  so : Bool := false
  x : Bool := false
  w : Bool := false
  r : Bool := false
  en : Bool := false
  deriving DecidableEq, Repr

/-- A residency handle (R217). -/
structure Handle where
  used : Bool := false
  base : Nat := 0
  len : Nat := 0
  prio : BitVec 3 := 0
  /-- action under way, 1–4 (R219); 0 for none -/
  act : Nat := 0
  /-- accesses of the issuing group, of this core, that a DROP follows (R219) -/
  core : Nat := 0
  after : List Nat := []
  deriving DecidableEq, Repr

/-- An open shadow (R262, R263). -/
structure Shadow where
  base : Nat
  len : Nat
  /-- share that opened it (R265) -/
  share : Nat
  /-- bytes of the pool pages, by offset; R262: zero until written -/
  data : Tab Byte := []
  /-- merge not complete (R262) -/
  merging : Bool := false
  /-- marked for publication, with the marking order (R264) -/
  mark : Option Nat := none
  /-- device cores whose engines wrote it (R263) -/
  writers : List Nat := []
  deriving DecidableEq, Repr

/-- A share in the context's overflow ring (R289). -/
structure Ovf where
  share : Nat
  cluster : Nat
  /-- marked to return before every other overflowed share of its cluster (R289) -/
  first : Bool
  deriving DecidableEq, Repr

/-- A gang that a GLAUNCH of the context started (R439, R440). -/
structure GangRec where
  id : Nat
  members : List Nat
  lead : Nat
  block : List Byte
  /-- 0 ARM, 1 GO, 2 complete -/
  phase : Nat := 0
  armOk : List Nat := []
  goAck : List Nat := []
  /-- members that have reported: status, and the device time of the failure -/
  done : List (Nat × Nat × Nat) := []
  /-- device time of the last phase sent -/
  sentAt : Nat
  start : Nat := 0
  goSent : Bool := false
  status : Option Nat := none
  /-- the status that the completion word is to carry, while the word is still to be written (R439, R451) -/
  verdict : Option Nat := none
  /-- members that have acknowledged a GCOMMIT, the DROP it carries, and when it was sent (R440) -/
  commitAck : List Nat := []
  commitDrop : Bool := false
  commitAt : Option Nat := none
  cluster : Nat
  ctx : Nat
  deriving DecidableEq, Repr

/-- A reservation that a member holds for a gang (R439). -/
structure Armed where
  /-- the gang, and its initiator -/
  gang : Nat
  dev : Nat
  /-- the captured block -/
  block : List Byte
  /-- the start time that GO has named -/
  start : Option Nat
  /-- device time of ARM -/
  since : Nat
  /-- clusters whose launch queues each keep an entry for a share of it -/
  cls : List Nat
  deriving DecidableEq, Repr


structure Ctx where
  /-- CTXCFG fields; R387; reset 0 -/
  gen : BitVec 32 := 0
  /-- 0 FREE, 1 LIVE, 2 KILLING -/
  state : BitVec 2 := 0
  halt : Bool := false
  halted : Bool := false
  err : Bool := false
  scopes : BitVec 4 := 0
  pceil : BitVec 3 := 0
  cmin : BitVec 3 := 0
  devr : Bool := false
  /-- PTROOT0, PTROOT1, DTVEC, GSAVE, LOVF, WOVF, SHPOOL register words; R387; reset 0 -/
  ptroot0 : Word := 0
  ptroot1 : Word := 0
  dtvec : Word := 0
  gsave : Word := 0
  lovf : Word := 0
  wovf : Word := 0
  shpool : Word := 0
  /-- windows 0–15; R391; reset 0 -/
  win : Tab Window := []
  /-- AGE and PRETH; R292; reset 10 and 50 -/
  age : Nat := 10
  preth : Nat := 50
  /-- RKEY0, RKEY1; R117; reset 0 -/
  rkey0 : Word := 0
  rkey1 : Word := 0
  /-- LRCFG.BASE, EN, LOG2N; LRTAIL; LRHEAD; LRSTAT; R286; reset 0 -/
  lrbase : BitVec 58 := 0
  lren : Bool := false
  lrlog : BitVec 5 := 0
  lrtail : BitVec 32 := 0
  lrhead : BitVec 32 := 0
  lrindex : BitVec 32 := 0
  lrcause : BitVec 8 := 0
  /-- a write of TAIL overran the ring: its records are undefined until HEAD reaches TAIL (R287); reset false -/
  lrOpen : Bool := false
  /-- a record is being consumed: EN cleared meanwhile stops the ring behind it; R286; reset false -/
  lrBusy : Bool := false
  /-- page token that the ring's consumption waits on (R287, R451); reset none -/
  lrToken : Option (Nat × Nat) := none
  /-- launches made, of which the low 58 bits name tasks; R306; reset 0 -/
  launches : Nat := 0
  /-- handles 0–63; R217; reset free -/
  handles : Tab Handle := []
  /-- open shadows, at most 16, and the marks given so far; R262, R264; reset none -/
  shadows : List Shadow := []
  marks : Nat := 0
  /-- shadows dropped so far, by base, bytes and issue number: writes of earlier commands are discarded (R265); the
  model's own -/
  dropped : List (Nat × Nat × Nat) := []
  /-- overflow ring; R289; reset empty -/
  ovf : List Ovf := []
  /-- units of the wait overflow area in use; R387; reset 0 -/
  wovfUsed : Nat := 0
  /-- cycle record LINK0–LINK3, NLINK, COUNT; R328; reset 0 -/
  links : Tab Word := []
  nlink : Nat := 0
  dcCount : Nat := 0
  /-- BYTES[n] and STALL[n]; R221; reset 0 -/
  bytes : Tab Word := []
  stalls : Tab Word := []
  /-- gangs started; R440; reset none -/
  gangs : List GangRec := []
  /-- gang reservations of this device as a member; R439; reset none -/
  armed : List Armed := []
  deriving DecidableEq, Repr

/-! ## Tasks and shares -/

/-- The captured task block (R282–R284). -/
structure Block where
  entry : Word := 0
  alt : List (BitVec 32) := []
  allow : Nat := 0
  claim : Word := 0
  sched : Word := 0
  deadline : Nat := 0
  parent : Word := 0
  argp : Word := 0
  ops : List Word := []
  lo : List Int := []
  hi : List Int := []
  step : List Nat := []
  grain : List Nat := []
  pred : List Nat := []
  pval : List Nat := []
  cwaddr : Nat := 0
  cwseq : Word := 0
  deriving DecidableEq, Repr

structure Task where
  /-- task identifier (R306) -/
  id : Nat
  ctx : Nat
  block : Block
  /-- virtual address of the block (R296) -/
  blockVa : Nat
  prio : Nat
  cls : Nat
  /-- operating point chosen (R343) -/
  opidx : Nat
  tiles : Nat
  /-- lineage (R320) -/
  root : Word
  path : List (BitVec 32) := []
  depth : Nat := 0
  /-- launch ordinal for children and evaluations (R320) -/
  ordinal : Nat := 0
  splits : Nat := 0
  /-- first failure: time, cluster, status, CAUSE2 (R298) -/
  status : Option (Nat × Nat × BitVec 8 × BitVec 8) := none
  dropped : Bool := false
  /-- in the context's task table until completion (R306) -/
  live : Bool := true
  /-- evaluator of this physical line (R321) -/
  cell : Option Nat := none
  /-- arguments of an evaluator (R321) -/
  args : List Word := []
  cellVa : Nat := 0
  /-- part of a gang launch of this initiator and gang (R439) -/
  gang : Option (Nat × Nat) := none
  /-- HOME cluster (R266) -/
  home : Nat := 0
  /-- page token that the completion word waits on (R451) -/
  token : Option (Nat × Nat) := none
  deriving DecidableEq, Repr

/-- States of the share state machine (R302). -/
inductive ShState where
  | waiting | ready | running | switched | parked | aborting | ended | droppedS | replaced
  deriving DecidableEq, Repr

structure Share where
  id : Nat
  task : Nat
  ctx : Nat
  cluster : Nat
  state : ShState := .waiting
  lo : List Int
  hi : List Int
  /-- next step to deal, in walker order (R295) -/
  next : Nat := 0
  /-- chosen, and its first step has yet to start (R291) -/
  chosen : Bool := false
  /-- device time of the first step of the attempt (R300) -/
  began : Option Nat := none
  /-- device time it became ready (R291) -/
  readyAt : Nat := 0
  launchedAt : Nat := 0
  escaped : Bool := false
  reruns : Nat := 0
  /-- groups it holds now (R297) -/
  groups : List Nat := []
  /-- allocation identities: id, first slot, slots (R304) -/
  allocs : List (Nat × Nat × Nat) := []
  /-- marked while ABORTING: 0 split or end, 1 rerun, 2 GANGBREAK, 3 failure, 4 shed (R302) -/
  mark : Nat := 0
  /-- device time at which it became ABORTING (R302) -/
  abortAt : Nat := 0
  /-- the state in which the abort found it: a shed of a RUNNING share is judged again when its groups have stopped (R349) -/
  was : ShState := .running
  status : Option (BitVec 8) := none
  cause2 : BitVec 8 := 0
  /-- gang share (R439) -/
  gang : Bool := false
  /-- operating point in force (R344) -/
  op : Nat := 0
  /-- adopted ahead of every other share of the cluster (R307) -/
  front : Bool := false
  /-- core in whose freed bank the first of an adopted task's shares starts (R307) -/
  seatAt : Option Nat := none
  /-- put back by a fence, and waiting for room at the front of its cluster's launch queue (R289, R423) -/
  heldBack : Bool := false
  /-- a neighbour has taken it, or a share it was cut from: no half of it moves on (R301, R368) -/
  moved : Bool := false
  /-- order of parking (R348) -/
  parkedAt : Nat := 0
  /-- page token that the readiness test waits on (R290, R451) -/
  token : Option (Nat × Nat) := none
  deriving DecidableEq, Repr

/-! ## Decoders -/

structure Decode where
  id : Nat
  cluster : Nat
  core : Nat
  bank : Bool
  gid : Nat
  ctx : Nat
  share : Nat
  smode : Bool
  /-- the 64-byte descriptor as read (R270) -/
  desc : BitVec 512
  bar : Nat
  arr : Bool
  ev : Bool
  /-- decoder that runs it; none while queued -/
  decoder : Option Nat := none
  next : Nat := 0
  bad : Nat := 0
  damaged : Nat := 0
  /-- samples of the last OK or DAMAGED frame output: plane bytes (R274) -/
  last : Option (List Host.Cell) := none
  /-- ended early with this status (R275) -/
  ended : Option (BitVec 8) := none
  /-- intermediate pages answered FAIL for the frame under way (R273, R398); reset empty -/
  pageFails : List Nat := []
  /-- STATE of each frame output so far, the first first (R274); reset empty -/
  states : List Nat := []
  token : Option (Nat × Nat) := none
  deriving DecidableEq, Repr

/-! ## The governor -/

/-- A segment of an accepted curve (R335). -/
structure Segment where
  start : Nat
  cap : Nat
  floor : Nat
  rup : Nat
  rdn : Nat
  band : Nat
  grade : BitVec 8
  deriving DecidableEq, Repr

structure Curve where
  issue : Nat
  vfrom : Nat
  vto : Nat
  segs : List Segment
  deriving DecidableEq, Repr

/-- The bound of a grade (R341, R346, R349). -/
structure Bound where
  /-- effective time, and the end of the bound -/
  at' : Nat
  ends : Nat
  /-- target just before the effective time -/
  preT : Nat
  /-- a park's, which grows with every die gated -/
  park : Bool
  deriving DecidableEq, Repr

structure Governor where
  /-- EPHADDR.ADDR; R336; reset 0 -/
  ephaddr : BitVec 46 := 0
  /-- EPHGO.GO; R336; reset 0 -/
  ephgo : Bool := false
  /-- the image read at submission (R336) -/
  image : List Byte := []
  readable : Bool := true
  /-- UTCOFF.OFF; R336; reset 0 -/
  utcoff : Word := 0
  /-- device time of the last accepted UTCOFF write; R337; reset none -/
  utcLast : Option Nat := none
  /-- TARGET.T and MEAS.P, 1/16 W; R336; reset 0; the target moves from `target`, its value at device time `rampAt`,
  toward the cap in force (R340), once the governor runs (R442) -/
  live : Bool := false
  rampAt : Nat := 0
  target : Nat := 0
  meas : Nat := 0
  /-- the accepted curve; R338; reset none -/
  curve : Option Curve := none
  /-- ISSUE of the last curve accepted since reset; R338; reset none -/
  lastIssue : Option Nat := none
  /-- segment in force: START, none for the default envelope; R339; reset none -/
  segNow : Option Nat := none
  /-- EPH_STAT fields; R361; reset 0 but LIMIT 15 and DEFAULT 1 -/
  cause : BitVec 8 := 0
  limit : Nat := 15
  pthr : Nat := 0
  sthr : Nat := 0
  dflt : Bool := true
  offref : Bool := false
  capmiss : Bool := false
  floormiss : Bool := false
  excused : Nat := 0
  misses : Nat := 0
  /-- dies that a grade has gated, in gating order; R347, R361; reset none (until READY every C-die is gated, R442) -/
  gated : List Nat := []
  /-- device time of the last gate or ungate; R347, R348; reset 0 -/
  gateAt : Nat := 0
  /-- bounds of the grades raised, oldest first; R346, R349; reset none -/
  bounds : List Bound := []
  /-- lift tests that hold, with the device time since which each has held without a break: key 16 × threshold + level; R348;
  reset none -/
  lifts : Tab Nat := []
  /-- the lead Perigee has stopped responding; R19; reset false -/
  leadDead : Bool := false
  /-- H-die 1's last report to the lead: device time and rail power; R19; reset 0 -/
  reportAt : Nat := 0
  reportPower : Nat := 0
  /-- and the rails of clusters 36–71 in that report -/
  reported : Tab Nat := []
  /-- power of the H-dies, memories and fabric, 1/16 W; R342; reset 0 -/
  prest : Nat := 0
  /-- ballast under way, 1/16 W still to taper; R357; reset 0 -/
  ballast : Nat := 0
  /-- sum of the ballast over the window's samples, and the reduction of this window's target; R358; reset 0 -/
  ballastSum : Nat := 0
  reduce : Nat := 0
  /-- package power of the last 1 ms, newest first, at most 100 samples; R336, R342; reset none -/
  samples : List Nat := []
  /-- power as the slope limit lets it be seen to fall, 1/16 W, and the device time of that figure; R357; reset 0 -/
  shown : Nat := 0
  shownAt : Nat := 0
  /-- sums over the tracking window: target, measured, samples; R341; reset 0 -/
  winTarget : Nat := 0
  winPower : Nat := 0
  winN : Nat := 0
  /-- device time of the last rail sample, of the last recomputation, and of the end of the last window; R341, R342;
  reset 0 -/
  sampledAt : Nat := 0
  allowAt : Nat := 0
  windowAt : Nat := 0
  /-- the part of the target that the last recomputation gave out in equal allowances, with the target then; none while no
  cluster had one; R340; reset none -/
  given : Option (Nat × Nat) := none
  /-- a class has been restored, and gated dies are ungated one by one; R348; reset false -/
  lifting : Bool := false
  deriving DecidableEq, Repr

/-! ## Recovery, fabric and start-up -/

/-- An entry of the publish log (R421). -/
structure Publish where
  time : Nat
  ctx : Nat
  base : Nat
  cores : List Nat
  /-- the task whose completion word the publication may mark (R421) -/
  task : Nat := 0
  suspect : Bool := false
  deriving DecidableEq, Repr

/-- The ECC state of one bank (R410). -/
structure EccBank where
  /-- corrected errors of the present window and its start; R409; reset 0 -/
  count : Nat := 0
  since : Nat := 0
  /-- R410; reset false -/
  strong : Bool := false
  /-- lines re-encoded under the strong code so far; R410; reset 0 -/
  recoded : Nat := 0
  /-- the line under re-encoding; R410; reset none -/
  coding : Option Nat := none
  /-- a bank of the commons, for which no hours are kept; R424; reset false -/
  commons : Bool := false
  /-- device time of the switch to strong mode; R424; reset none -/
  strongAt : Option Nat := none
  /-- corrected errors per line in strong mode; R410; reset 0 -/
  perLine : Tab Nat := []
  deriving DecidableEq, Repr

structure Route where
  v : Bool := false
  av : Bool := false
  alt : BitVec 5 := 0
  pri : BitVec 5 := 0
  deriving DecidableEq, Repr

/-- A message to another device or to the host that has left the device (R246, R331, R425, R439, R440, R443). -/
inductive Msg where
  | arm (dev gang ctx : Nat) (block : List Byte)
  | disarm (dev gang : Nat)
  | go (dev gang start : Nat)
  | gangbreak (dev gang : Nat)
  | armOk (dev gang : Nat)
  | armRefuse (dev gang : Nat)
  | goAck (dev gang : Nat)
  | done (dev gang : Nat) (status : BitVec 8) (at' : Nat)
  | commit (dev gang : Nat) (drop : Bool)
  | commitAck (dev gang : Nat)
  | wake (dev : Nat) (line : Nat)
  | arrival (ia : Nat) (n : Nat) (poison : Bool)
  | spdm (code : Nat) (data : List Byte)
  | flitNak (port seq : Nat)
  /-- a served remote request's answer: its device and cluster, the data or the cause it failed with (R199) -/
  | answer (dev cluster : Nat) (data : BitVec 2048) (cause : Option (BitVec 8))
  /-- a remote load waits at its hub on this line: its cluster takes a proxy entry (R331) -/
  | park (dev cluster line : Nat)
  /-- a remote request is refused with retry (R401) -/
  | retry (dev cluster : Nat)
  | bar0Data (w : Word)
  | bar0Ur
  | hostData (data : List Byte)
  deriving DecidableEq, Repr

/-- What a flit carries to another device (R431). -/
inductive Cargo where
  | request (r : RemoteReq)
  | message (m : Msg)
  deriving DecidableEq, Repr

/-- A Norulo port (R431, R432). -/
structure Port where
  /-- 0 DOWN, 1 TRAINING, 2 UP; R432; reset 0 -/
  state : BitVec 2 := 0
  /-- 0 none, 1 two, 2 four, 3 eight; R432; reset 0 -/
  lanes : BitVec 2 := 0
  peer : BitVec 10 := 0
  drop : Nat := 0
  retrain : Nat := 0
  shed : Nat := 0
  /-- sequence number of the next flit expected; R431; reset 0 -/
  rxSeq : Nat := 0
  /-- sequence number of the next flit sent; R431; reset 0 -/
  txSeq : Nat := 0
  /-- replay buffer: the last 256 flits sent, oldest first: sequence number, target device and contents; R431; reset empty -/
  replay : List (Nat × Nat × Cargo) := []
  /-- device time of the last error on its lanes, and whether it has been UP before; R434; reset 0, false -/
  errAt : Nat := 0
  trained : Bool := false
  deriving DecidableEq, Repr

/-- The most memory behind one LP6 channel: 48 GB (R1). -/
def lp6Full : Nat := 48 * 10 ^ 9

/-- The parts that the recovery, fabric and start-up chapters give the device. -/
structure Board where
  /-- the HBM stacks and the LP6 channels that are disabled; R21, R426; per part, DESIGN CHOICE none (log 34); links,
  decoders, form, step of MCFG; R21; reset per part -/
  hbmOff : List Nat := []
  lp6Off : List Nat := []
  /-- bytes that the module maker fitted behind each LP6 channel, at most 48 GB; R1; reset per part -/
  lp6Cap : Tab Nat := []
  links : Nat := 18
  decoders : Nat := 8
  form : Nat := 1
  stepping : Nat := 0
  /-- clusters enabled by production test and not fenced: bit c; R21; reset per part -/
  present : BitVec 72 := BitVec.allOnes 72
  /-- ECC_THRESH: RETIRE, WSH, COUNT; R409; reset 4, 16, 64 -/
  retire : Nat := 4
  wsh : Nat := 16
  eccCount : Nat := 64
  /-- LLC_MISS_HI: MINB, RATE; R360; reset 8, 8,192 -/
  minb : Nat := 8
  rate : Nat := 8192
  /-- publish log, 4,096 entries; R421; reset empty -/
  log : List Publish := []
  /-- CONFQ query: BASE bits 55:16 and CTX; R422; reset 0 -/
  confBase : BitVec 40 := 0
  confCtx : BitVec 6 := 0
  /-- lifetime counters, key (class × 65,536 + unit) × 256 + counter; R424; they survive reset -/
  life : Tab Word := []
  /-- LIFECMD busy, with the host address; R425; reset 0 -/
  lifeAddr : Option Nat := none
  /-- ECC banks; R410; reset weak -/
  ecc : Tab EccBank := []
  /-- frames withdrawn, with their bytes, never returned to a pool; R410; reset none -/
  withdrawn : List (Nat × Nat) := []
  /-- 4 KiB frames still to be withdrawn, with the KIND of the record; R410; reset none -/
  leaving : List (Nat × Nat) := []
  /-- the scrubber's last line and time; R411; reset 0 -/
  scrubLine : Nat := 0
  scrubAt : Nat := 0
  /-- out-of-turn scans by die: round, slot taken, core; at most one a round; R420; reset none -/
  shifts : Tab (List (Nat × Nat × Nat)) := []
  /-- DOMCFG.EN and DEVID; R432; reset 0 -/
  domEn : Bool := false
  devid : BitVec 10 := 0
  /-- ROUTE 0–1,023; R432; reset 0 -/
  routes : Tab Route := []
  /-- PORT 0–17; R432; reset DOWN -/
  ports : Tab Port := []
  /-- BOOTSTAT.STAGE, CAUSE, FWVER; R442; reset 0 -/
  stage : BitVec 8 := 0
  bootCause : BitVec 8 := 0
  /-- the HDM decoders of CXL.mem: base and length of the HBM range that the host has chosen; R428; reset none -/
  hdm0 : Option (Nat × Nat) := none
  hdm1 : Option (Nat × Nat) := none
  fwver : BitVec 16 := 0
  /-- REGSEL; R430; reset 0 -/
  regsel : BitVec 24 := 0
  /-- device serial number and fleet identifiers of the identity certificate; R443; per part -/
  serial : Word := 0
  fleets : List Word := []
  /-- facility key slots 0–3: public key x and y; R338; per part -/
  keys : Tab (Option (Nat × Nat)) := []
  /-- an SPDM session has set the IDE keys; R443; reset none -/
  ide : Option (List Byte) := none
  /-- commits of gangs that this member has still to finish: initiator, gang, DROP; R440; reset none -/
  commits : List (Nat × Nat × Bool) := []
  /-- flits that have left a port, for the first time or again, newest first: port, number, target device, contents; the
  model's output record -/
  wire : List (Nat × Nat × Nat × Cargo) := []
  /-- messages that have left the device, newest first; the model's output record -/
  outbox : List Msg := []
  deriving DecidableEq, Repr

/-! ## The machine -/

/-- Why a syllable cannot issue after all, found only by its own checks (R34, R205, R323, R395). The bundle is not
issued; what the stall starts at a hub is done in its place. -/
inductive Stall where
  /-- an invalid page: context, intermediate page, KIND of its record, H-die (R395) -/
  | page (hdie ctx page kind : Nat)
  /-- lines that are not VALUE: those to be touched first, the one to park on, and the address that named it (R319, R323) -/
  | cell (touch : List Nat) (line va : Nat)
  /-- a freeze for another reason, by its code (R34, R38) -/
  | freeze (code : Nat)
  deriving DecidableEq, Repr

/-- The syllable under way: its core, stream and bundle. Set by the issue of a bundle, read by the meanings. -/
structure Here where
  core : Nat := 0
  /-- true for the access stream -/
  access : Bool := false
  slot : Nat := 0
  addr : Word := 0
  /-- bytes of the bundle -/
  size : Nat := 8
  /-- the bundle holds this one syllable (R36) -/
  sole : Bool := true
  /-- where LOOP of this bundle sends the access stream (R94) -/
  aNext : Option Word := none
  /-- C and Y syllables of the bundle that read memory, and do so before its stores perform (R226) -/
  late : List Instr := []
  /-- the bundle cannot issue now -/
  stall : Option Stall := none
  /-- cores whose part of the bundle goes no further, and the slot at which it resumes (R35, R49) -/
  off : List Nat := []
  resume : Nat := 0
  deriving DecidableEq, Repr

/-- What a page of another device answers to a request of this one (R199): it is there; its fault is in service at the
target; its fault was answered FAIL, or its context is not LIVE there; only its reads are served, and a write waits. -/
inductive FarPage where
  | there
  | waits
  | fails
  | readOnly
  deriving DecidableEq, Repr, Inhabited

/-- What the hub of another device tells of an EVALUATING line of its own (R331): the evaluator's lineage, and the lines on
which groups of the evaluator are parked, each with the address that named it. Lines of this device stand as they are,
others as `State` numbers them. -/
structure FarEval where
  root : Word := 0
  path : List (BitVec 32) := []
  depth : Nat := 0
  links : List (Nat × Nat) := []
  deriving DecidableEq, Repr, Inhabited

/-- Who moves in a step (the agents of R4, R17, R166): a choice that the spec leaves to timing. -/
inductive Turn where
  /-- the access stream of a core issues its next bundle -/
  | access (core : Nat)
  /-- the execute stream of a core issues its next bundle -/
  | execute (core : Nat)
  /-- the array engine of a core executes the next micro-op of its routine -/
  | micro (core : Nat)
  /-- an engine, a timer, the host or another device acts: one of the table's events -/
  | event (i : Instr)
  /-- the first of the arrivals on their way to a cluster's barrier file reaches it (R243, R353) -/
  | arrives (cluster : Nat)
  /-- device time passes -/
  | pass (ns : Nat)
  /-- a cycle of a cluster's clock passes (R105, R220, R351) -/
  | cycle (cluster : Nat)
  /-- the host (`far` false) or another device writes bytes of its own memory -/
  | outside (far : Bool) (addr : Nat) (data : List Byte)
  /-- the tag of a cell of another device changes there, with what its hub keeps of the evaluation (R331) -/
  | farCell (line : Nat) (tag : BitVec 2) (eval : FarEval)
  /-- the host sets an HDM decoder of CXL.mem: the range of HBM that it maps, or none (R428) -/
  | decoder (n : Nat) (range : Option (Nat × Nat))
  /-- an SPDM requester reads certificate slot 0 (R443) -/
  | certificate
  /-- page service at another device changes what a page of it answers -/
  | farPage (page : Nat) (answer : FarPage)
  deriving DecidableEq, Repr, Inhabited

/-- The state of the device. -/
structure State where
  /-- device time, ns; R20; reset 0 (R442) -/
  time : Nat := 0
  /-- the 288 cores by device core number; R15, R17 -/
  cores : Tab Core := []
  /-- the 72 clusters by global index; R15, R16 -/
  clusters : Tab Cluster := []
  /-- H-die 0 and H-die 1; R18 -/
  hdies : Tab HDie := []
  /-- device memory by 42-bit physical offset; R195; unlisted bytes read zero (R442) -/
  mem : List Host.Cell := []
  /-- cell tags, stamps and poison by physical line number; R314, R442 -/
  tags : Tab LineMeta := []
  /-- stamps kept with the READY slots of commons rings, by the address of the slot's state byte; R241; reset none -/
  ringStamps : Tab (Option Stamp) := []
  /-- host memory behind the CXL port; R193; contents not given, DESIGN CHOICE 0 -/
  host : List Host.Cell := []
  /-- memory of other devices by intermediate address; R199; contents not given, DESIGN CHOICE 0 -/
  far : List Host.Cell := []
  /-- cell tags of other devices' lines, by intermediate line; R331; contents not given, DESIGN CHOICE VALUE -/
  farTags : Tab (BitVec 2) := []
  /-- and what their hubs keep of the EVALUATING ones; R331; contents not given, DESIGN CHOICE none -/
  farEvals : Tab FarEval := []
  /-- what pages of other devices answer, by intermediate page of 4 KiB; R199; contents not given, DESIGN CHOICE present -/
  farPages : Tab FarPage := []
  /-- contexts 0–63; R387 -/
  ctxs : Tab Ctx := []
  /-- tasks in launch order; R306; reset none -/
  tasks : List Task := []
  /-- shares in order of forming; R302; reset none -/
  shares : List Share := []
  /-- device decode queue of 32 commands and the running ones; R270; reset empty -/
  decodes : List Decode := []
  /-- the governor; R336 -/
  gov : Governor := {}
  /-- recovery, fabric and start-up; R409–R443 -/
  board : Board := {}
  /-- the syllable under way; the model's own -/
  here : Here := {}
  /-- the turns already chosen, first first; the model's own, DESIGN CHOICE none at reset -/
  agenda : List Turn := []
  /-- numbers for groups, shares, commands and accesses; the model's own -/
  fresh : Nat := 0
  /-- counter that the free values are applied to; the model's own, DESIGN CHOICE 0 -/
  free : Nat := 0
  deriving DecidableEq, Repr

/-- Why the machine stops. -/
inductive Fault where
  /-- an access reaches a device offset behind which no memory is fitted; raised by no instruction, kept for the
  reader of a part with fewer stacks; safe: nothing is claimed past it -/
  | noMemory (offset : Nat)
  deriving DecidableEq, Repr

/-- Why an instruction has no meaning here. -/
inductive Refusal where
  /-- raised by an arm of `exec` for an instruction whose meaning has not been written; safe: nothing is claimed of it -/
  | notModelled (mnemonic : String)
  deriving DecidableEq, Repr

/-- What a step answers. -/
abbrev Out := Host.Outcome State Fault Refusal

/-- The machine right after reset: boot stage 0, device time 0, every context FREE and memory listing nothing (R442). -/
def State.reset : State := {}

end Sys2Proof.Machine
end

