-- ==== Sys2Proof/Config.lean ====
section
/-!
DEFINITION. What an implementation or the world outside fixes: constants without a body, of which nothing can be
proved but what holds for every value, and the few figures that the spec states.
-/
namespace Sys2Proof.Machine

/-- Who moves next when no turn is chosen: the spec leaves the interleaving of its agents to timing (R5, R227).
Applied to the counter `State.free`. -/
opaque Config.turn : Nat → Turn

/-- How a bank of the LLC is cut into sets (R193, R198: 65,536 lines of 64 bytes, and neither figure is given): a bank has
2 ^ `llcLog` ways of 65,536 ÷ 2 ^ `llcLog` sets, the exponent taken modulo 17. A line's set is the hash `llcHash` of it,
modulo the sets. -/
opaque Config.llcLog : Nat
opaque Config.llcHash : Nat → Nat

def Config.llcWays : Nat := 2 ^ (Config.llcLog % 17)
def Config.llcSet (ln : Nat) : Nat := Config.llcHash ln % (65536 / Config.llcWays)

/-- Which of the LLC banks with a free way takes a line: R196 and R359 give no mapping. -/
opaque Config.llcBank : Nat → Nat

/-- A choice that the spec leaves to the implementation ("may"): applied to the counter `State.free`. -/
opaque Config.choice : Nat → Nat

/-- Bytes that the spec leaves undefined (R287): the counter `State.free`, and the index of the byte. -/
opaque Config.freeByte : Nat → Nat → Byte

/-- The ECC bank of a line, a DRAM bank or a commons bank, and the 4 KiB frames of its check area: R409 and R410 give no
mapping. -/
opaque Config.eccBank : Nat → Nat
opaque Config.checkArea : Nat → List Nat

/-- The lines of an ECC bank in the order in which the scrubber re-encodes them: R410 says line by line. -/
opaque Config.bankLine : Nat → Nat → Nat

/-- Device time at which a round of a die's eclipse rotation begins: R420 gives no phase. -/
opaque Config.eclipsePhase : Nat → Nat

/-- A signature under the device identity key over a message (R425, R443): the key is the part's own. -/
opaque Config.identitySign : List Byte → List Byte

/-- The neighbour that a port's training finds (R432). -/
opaque Config.peer : Nat → BitVec 10

/-- How memory training and the scan of the boot stages end: 0 well (R442); the counter `State.free`. -/
opaque Config.bootOutcome : Nat → Nat

/-- The firmware image that the boot ROM finds (R442): its signed bytes, the vendor key with which it comes, x and y, its
signature, and its version. The spec gives no layout. -/
structure FwImage where
  body : List Byte
  key : Nat × Nat
  sig : List Byte
  version : BitVec 16
  deriving DecidableEq, Repr, Inhabited

/-- Applied to the counter `State.free`: the image may differ from one start to the next. -/
opaque Config.firmware : Nat → FwImage

/-- What is fused in the part (R442): the digest of the vendor key, 48 bytes, and the rollback count. -/
opaque Config.vendorDigest : List Byte
opaque Config.rollback : Nat

/-- Skezeit's public key, x and y (R443). -/
opaque Config.skezeit : Nat × Nat

/-- Certificate slot 0 as bytes (R443): the chain from the Skezeit root, with its key, to the identity certificate, which
carries the serial number, MCFG, CLPRES_LO, CLPRES_HI and the fleet identifiers. -/
opaque Config.certChain : Nat × Nat → Word → List Word → List Word → List Byte

/-- Measurements of boot ROM, firmware and routine image, by index 1–3 (R443). -/
opaque Config.measured : Nat → List Byte

/-- The device's part of a key exchange, and the keys that the session sets for IDE, from the requester's part (R443). -/
opaque Config.exchange : List Byte → List Byte
opaque Config.sessionKeys : List Byte → List Byte

/-- What a vendor-signed update asks (R443): key slots and fleet identifiers, bound to a serial number. -/
structure VendorUpdate where
  serial : Word
  slots : List (Nat × Option (Nat × Nat))
  fleets : Option (List Word)
  /-- the bytes that Skezeit has signed, and the signature -/
  signed : List Byte
  sig : List Byte
  deriving DecidableEq, Repr, Inhabited

/-- The update that a vendor-defined request carries, none where it is none: R443 gives no layout. -/
opaque Config.vendorRequest : List Byte → Option VendorUpdate

/-- What R125 leaves open when a value is encoded with a codebook, by codebook and value (log 104): the code where no entry
is a number or every number is infinite, and under SR the choice next to an infinite entry. -/
opaque Config.cbCode : Nat → Nat → Nat

/-- A rail sensor's reading, in 1/16 W (R342): the counter `State.free`, and the rail: a cluster's index, 72 for H-die
0, memories and fabric, 73 for the rail of H-die 1. -/
opaque Config.railPower : Nat → Nat → Nat

/-- What the AV1 decoding process makes of one shown frame (R269, R273, R274). -/
structure AvFrame where
  /-- STATE: 0 decoded, 1 CORRUPT, 3 UNSUPPORTED, 4 NOTREACHED -/
  state : Nat
  /-- ERR of a frame that is not decoded -/
  err : Nat
  /-- shown frames whose pictures it predicts from, itself a key frame when there is none -/
  refs : List Nat
  /-- the stream's profile and scalability layers, and whether its chroma is 4:2:0 -/
  profile : Nat
  layers : Nat
  c420 : Bool
  /-- byte offset of the frame's temporal unit -/
  offset : Nat
  /-- ten-bit samples -/
  d10 : Bool
  mono : Bool
  width : Nat
  height : Nat
  /-- decoded samples: plane, row, column -/
  sample : Nat → Nat → Nat → Nat
  deriving Inhabited

/-- The AV1 decoding process that R269 refers to: a frame's outcome, from the bitstream's bytes (none where a read
failed), its length, the frame's number, whether film grain is applied, and the STATE of each earlier frame. -/
opaque Config.av1 : (Nat → Option Byte) → Nat → Nat → Bool → List Nat → AvFrame

/-- The byte offsets that decoding a frame reads, in order: at or past the length when its unit is cut short. -/
opaque Config.av1Reads : (Nat → Option Byte) → Nat → Nat → List Nat

end Sys2Proof.Machine
end

