-- ==== Sys2Proof/Machine/Bits.lean ====
section
/-!
DEFINITION. Bit fields, sign extension, byte order and packed elements (R6, R10, R108): the plain helpers that the
decoder, the operations and the meanings share.
-/
namespace Sys2Proof

/-- x[hi:lo] as an unsigned number (R6). -/
def field (x hi lo : Nat) : Nat := (x >>> lo) % 2 ^ (hi + 1 - lo)

/-- The bit x[n] (R6). -/
def bit (x n : Nat) : Bool := x.testBit n

/-- The `w` low bits of `x` as a two's-complement number (R10). -/
def signed (w x : Nat) : Int :=
  let y := x % 2 ^ w
  if y < 2 ^ (w - 1) then y else (y : Int) - 2 ^ w

/-- An integer modulo 2^w. -/
def wrap (w : Nat) (x : Int) : Nat := (x % (2 ^ w : Int)).toNat

/-- An integer modulo 2^64, as a word. -/
def word (x : Int) : Word := BitVec.ofInt 64 x

/-- sext(x, n) of R10. -/
def sext64 (n x : Nat) : Word := BitVec.ofInt 64 (signed n x)

/-- 1 for true. -/
def bool1 (b : Bool) : Nat := if b then 1 else 0

/-- Bits `hi` down to `lo` of the word replaced by `x`. -/
def putField (w : Word) (hi lo x : Nat) : Word :=
  let n := hi + 1 - lo
  let m := BitVec.ofNat 64 ((2 ^ n - 1) <<< lo)
  (w &&& ~~~ m) ||| (BitVec.ofNat 64 (x <<< lo) &&& m)

/-- The value of little-endian bytes (R6). -/
def leNat : List Byte → Nat
  | [] => 0
  | b :: bs => b.toNat + 256 * leNat bs

/-- The `n` little-endian bytes of `x` (R6). -/
def leBytes : Nat → Nat → List Byte
  | 0, _ => []
  | n + 1, x => BitVec.ofNat 8 x :: leBytes n (x / 256)

/-- Element `e` of width `w` (R108). -/
def elem (w : Nat) (v : VReg) (e : Nat) : Nat := (v.toNat >>> (w * e)) % 2 ^ w

/-- The number whose element `e`, for `e` below `n`, is `f e` modulo 2^w (R108). -/
def packNat (w : Nat) (f : Nat → Nat) : Nat → Nat
  | 0 => 0
  | n + 1 => packNat w f n + ((f n % 2 ^ w) <<< (w * n))

/-- The register whose elements of width `w` are `f 0`, `f 1`, … (R108). -/
def pack (w : Nat) (f : Nat → Nat) : VReg := BitVec.ofNat 2048 (packNat w f (2048 / w))

/-- Ones on the bits of every element `e` with `p e`, elements of width `w`. -/
def elemMask (w : Nat) (p : Nat → Bool) : VReg := pack w (fun e => if p e then 2 ^ w - 1 else 0)

/-- `new` where `en` has ones, `old` elsewhere. -/
def merge {n : Nat} (en new old : BitVec n) : BitVec n := (new &&& en) ||| (old &&& ~~~ en)

/-- A 64-bit value zero-extended to a queue entry or latch (R26). -/
def zx (w : Word) : VReg := w.setWidth 2048

/-- Bits 63:0 of an entry (R27). -/
def lo64 (v : VReg) : Word := v.setWidth 64

/-- A mask register whose bit `i` is `f i` (R133). -/
def maskOf (f : Nat → Bool) : Mask := BitVec.ofNat 256 (packNat 1 (fun i => bool1 (f i)) 256)

/-- Ones below bit `n`. -/
def popCount : Nat → Nat → Nat
  | 0, _ => 0
  | n + 1, x => bool1 (x.testBit n) + popCount n x

/-- Number of bits up to and including the highest one among the low `n`. -/
def bitLen : Nat → Nat → Nat
  | 0, _ => 0
  | n + 1, x => if x.testBit n then n + 1 else bitLen n x

/-- Leading zeros of a `w`-bit value; `w` for zero (R85, R143). -/
def clz (w x : Nat) : Nat := w - bitLen w x

/-- Trailing zeros below bit `n`, counted from bit `i`; the full count for zero (R85). -/
def ctzFrom : Nat → Nat → Nat → Nat
  | 0, _, i => i
  | n + 1, x, i => if x.testBit i then i else ctzFrom n x (i + 1)

/-- The list 0, 1, …, n − 1 in rising order. -/
def upTo (n : Nat) : List Nat := List.range n

/-- Some `k` below `n` with `p k`: the least. -/
def least (p : Nat → Bool) (n : Nat) : Option Nat := (List.range n).find? p

end Sys2Proof
end

