-- ==== Sys2Proof/Machine/Float.lean ====
section
/-!
DEFINITION. Number formats and rounding (R107–R115, R120, R122–R125): exact values, one rounding, the overflow rule.
-/
namespace Sys2Proof

/-- A floating format (R109, R110). -/
structure Fmt where
  /-- width in bits -/
  w : Nat
  /-- fraction bits -/
  frac : Nat
  bias : Nat
  /-- encoding of the largest finite value, sign clear -/
  maxFin : Nat
  /-- encoding of +infinity, none in e4m3 -/
  inf : Option Nat
  /-- canonical NaN, sign clear -/
  nan : Nat
  deriving DecidableEq, Repr

def f64 : Fmt := ⟨64, 52, 1023, 0x7FEFFFFFFFFFFFFF, some 0x7FF0000000000000, 0x7FF8000000000000⟩
def f32 : Fmt := ⟨32, 23, 127, 0x7F7FFFFF, some 0x7F800000, 0x7FC00000⟩
def f16 : Fmt := ⟨16, 10, 15, 0x7BFF, some 0x7C00, 0x7E00⟩
def bf16 : Fmt := ⟨16, 7, 127, 0x7F7F, some 0x7F80, 0x7FC0⟩
def e4m3 : Fmt := ⟨8, 3, 7, 0x7E, none, 0x7F⟩
def e5m2 : Fmt := ⟨8, 2, 15, 0x7B, some 0x7C, 0x7E⟩

/-- An element type of R107. -/
inductive Ty where
  /-- two's complement -/
  | int (w : Nat)
  /-- unsigned -/
  | nat (w : Nat)
  | float (f : Fmt)
  /-- 4-bit codes, VCVT only -/
  | cb4
  deriving DecidableEq, Repr

/-- The TYPE codes of R107; 15 is illegal. -/
def Ty.ofCode : Nat → Option Ty
  | 0 => some (.int 8)   | 1 => some (.int 16) | 2 => some (.int 32) | 3 => some (.int 64)
  | 4 => some (.nat 8)   | 5 => some (.nat 16) | 6 => some (.nat 32) | 7 => some (.nat 64)
  | 8 => some (.float f16) | 9 => some (.float bf16) | 10 => some (.float f32) | 11 => some (.float f64)
  | 12 => some (.float e4m3) | 13 => some (.float e5m2) | 14 => some .cb4
  | _ => none

/-- Width in bits (R107). -/
def Ty.width : Ty → Nat
  | .int w => w
  | .nat w => w
  | .float f => f.w
  | .cb4 => 4

/-- Elements in a vector register (R108). -/
def Ty.count (t : Ty) : Nat := 2048 / t.width

/-- A rounding mode in force; SR carries its draw r and its W (R112, R120). -/
inductive Mode where
  | rne | rtz | rup | rdn
  | sr (r w : Nat)
  deriving DecidableEq, Repr

/-- A value of a floating format: (−1)^neg × m × 2^e when finite (R109). -/
inductive Fp where
  | nan (neg : Bool)
  | inf (neg : Bool)
  | fin (neg : Bool) (m : Nat) (e : Int)
  deriving DecidableEq, Repr

/-- The magnitude bits of an encoding. -/
def Fmt.mag (f : Fmt) (x : Nat) : Nat := x % 2 ^ (f.w - 1)

def Fmt.neg (f : Fmt) (x : Nat) : Bool := x.testBit (f.w - 1)

/-- The value of an encoding (R109, R110). -/
def Fmt.dec (f : Fmt) (x : Nat) : Fp :=
  let a := f.mag x
  let s := f.neg x
  if a ≤ f.maxFin then
    let e := a >>> f.frac
    let m := a % 2 ^ f.frac
    if e = 0 then .fin s m (1 - (f.bias : Int) - f.frac)
    else .fin s (m + 2 ^ f.frac) ((e : Int) - f.bias - f.frac)
  else if f.inf = some a then .inf s
  else .nan s

def Fmt.signBit (f : Fmt) (s : Bool) : Nat := if s then 2 ^ (f.w - 1) else 0

/-- The canonical NaN with a sign (R111). -/
def Fmt.nanOf (f : Fmt) (s : Bool) : Nat := f.signBit s + f.nan

/-- The encoding of an infinity; in e4m3, which has none, the overflow rule's NaN (R110, R114). -/
def Fmt.infOf (f : Fmt) (s : Bool) : Nat :=
  f.signBit s + match f.inf with
    | some a => a
    | none => f.nan

/-- |x| = m × 2^e, or strictly between that and (m + 1) × 2^e when `st`; the multiple of 2^q that `md` rounds it to,
as a count of 2^q (R112, R120). -/
def roundAt (md : Mode) (neg : Bool) (m : Nat) (e : Int) (st : Bool) (q : Int) : Nat :=
  if q ≤ e then m <<< (e - q).toNat
  else
    let sh := (q - e).toNat
    let lo := m >>> sh
    let rem := m % 2 ^ sh
    if rem = 0 ∧ st = false then lo
    else
      let up : Bool := match md with
        | .rne => decide (rem > 2 ^ (sh - 1)) || (decide (rem = 2 ^ (sh - 1)) && (st || lo % 2 == 1))
        | .rtz => false
        | .rup => !neg
        | .rdn => neg
        | .sr r w => decide (((rem <<< w) >>> sh) + r ≥ 2 ^ w)
      if up then lo + 1 else lo

/-- The overflow rule (R114): the encoding that stands for a rounded magnitude above the largest finite value. -/
def Fmt.overflow (f : Fmt) (md : Mode) (sat neg : Bool) : Nat :=
  let big := f.signBit neg + f.maxFin
  if sat then big
  else if f.inf = none then f.nanOf neg
  else match md with
    | .rne => f.infOf neg
    | .sr _ _ => f.infOf neg
    | .rtz => big
    | .rup => if neg then big else f.infOf false
    | .rdn => if neg then f.infOf true else big

/-- round(x, mode) followed by R114, for |x| as `roundAt` takes it and the sign `neg` (R10, R112, R114). -/
def Fmt.round (f : Fmt) (md : Mode) (sat neg : Bool) (m : Nat) (e : Int) (st : Bool) : Nat :=
  if m = 0 ∧ st = false then f.signBit neg
  else
    let qmin : Int := 1 - (f.bias : Int) - f.frac
    let top : Int := e + (m.log2 : Int)
    -- far below the smallest subnormal the place of x no longer matters
    let tiny : Bool := decide (m = 0) || decide (top < qmin - 40)
    let m' := if tiny then 1 else m
    let e' : Int := if tiny then qmin - 40 else e
    let st' := st || tiny
    let q := max (e' + (m'.log2 : Int) - f.frac) qmin
    let n := roundAt md neg m' e' st' q
    let b : Int := (q + f.frac + f.bias - 1) * 2 ^ f.frac + n
    if b ≤ f.maxFin then f.signBit neg + b.toNat else f.overflow md sat neg

/-- A sum of exact terms as a signed multiple of 2^e, with e the least exponent among them. -/
def exactSum (ts : List (Bool × Nat × Int)) : Int × Int :=
  let e : Int := ts.foldl (fun a t => min a t.2.2) (match ts with | [] => 0 | t :: _ => t.2.2)
  (ts.foldl (fun a t =>
    let x : Int := (t.2.1 <<< (t.2.2 - e).toNat : Nat)
    if t.1 then a - x else a + x) 0, e)

/-- Two factors' product, when neither is NaN and it is not 0 × ∞ (R111). -/
def Fp.mul : Fp → Fp → Fp
  | .nan s, _ => .nan s
  | _, .nan s => .nan s
  | .inf s, .inf t => .inf (s != t)
  | .inf s, .fin t m _ => if m = 0 then .nan false else .inf (s != t)
  | .fin s m _, .inf t => if m = 0 then .nan false else .inf (s != t)
  | .fin s m e, .fin t n d => .fin (s != t) (m * n) (e + d)

def Fp.isNan : Fp → Bool
  | .nan _ => true
  | _ => false

def Fp.isInf : Fp → Option Bool
  | .inf s => some s
  | _ => none

/-- The sign of the first NaN of a list (R111). -/
def firstNan : List Fp → Option Bool
  | [] => none
  | .nan s :: _ => some s
  | _ :: t => firstNan t

def Fp.neg : Fp → Fp
  | .nan s => .nan s
  | .inf s => .inf (!s)
  | .fin s m e => .fin (!s) m e

/-- The terms of a sum that are finite. -/
def finTerms : List Fp → List (Bool × Nat × Int)
  | [] => []
  | .fin s m e :: t => (s, m, e) :: finTerms t
  | _ :: t => finTerms t

/-- round(exact sum of the terms, mode), then R114. A NaN of `ops`, in their order, decides the sign of a NaN
result; a NaN among the terms alone is invalid, +NaN (R111, R112, R140, R142, R148). -/
def Fmt.sum (f : Fmt) (md : Mode) (sat : Bool) (ops ts : List Fp) : Nat :=
  match firstNan ops with
  | some s => f.nanOf s
  | none =>
    if ts.any Fp.isNan then f.nanOf false
    else
      let infs := ts.filterMap Fp.isInf
      if infs.contains true && infs.contains false then f.nanOf false
      else match infs with
        | s :: _ => if sat && f.inf.isNone then f.signBit s + f.maxFin else f.infOf s
        | [] =>
          let fs := finTerms ts
          let (v, e) := exactSum fs
          if v = 0 then
            if fs.all (fun t => t.1) && !fs.isEmpty then f.signBit true
            else if fs.any (fun t => t.1) then f.signBit (decide (md = .rdn))
            else f.signBit false
          else f.round md sat (decide (v < 0)) v.natAbs e false

/-- A value taken into format `f`: R115 for a float source. `widen` when the destination is wider, where SAT leaves
an infinity alone (R114). -/
def Fmt.conv (f : Fmt) (md : Mode) (sat widen : Bool) : Fp → Nat
  | .nan s => f.nanOf s
  | .inf s => if sat && !widen then f.signBit s + f.maxFin else f.infOf s
  | .fin s m e => f.round md sat s m e false

/-- An integer taken into format `f` (R115). -/
def Fmt.ofInt (f : Fmt) (md : Mode) (sat : Bool) (x : Int) : Nat := f.round md sat (decide (x < 0)) x.natAbs 0 false

/-- The range of an integer type. -/
def Ty.minVal : Ty → Int
  | .int w => -(2 ^ (w - 1))
  | _ => 0

def Ty.maxVal : Ty → Int
  | .int w => 2 ^ (w - 1) - 1
  | .nat w => 2 ^ w - 1
  | _ => 0

/-- sat(x, type) for an integer type (R10). -/
def Ty.sat (t : Ty) (x : Int) : Int := max t.minVal (min t.maxVal x)

/-- The value of an element of an integer type (R108). -/
def Ty.val (t : Ty) (x : Nat) : Int :=
  match t with
  | .int w => signed w x
  | _ => (x : Int)

/-- A float taken into an integer type (R115): rounded, clamped, NaN gives 0. -/
def Ty.ofFp (t : Ty) (md : Mode) : Fp → Int
  | .nan _ => 0
  | .inf s => if s then t.minVal else t.maxVal
  | .fin s m e =>
    if e > 70 ∧ m ≠ 0 then (if s then t.minVal else t.maxVal)
    else
      -- far below 1 the place of x no longer matters
      let tiny : Bool := decide (e + (m.log2 : Int) < -40) && decide (m ≠ 0)
      let n : Int := if tiny then roundAt md s 1 (-40) true 0 else roundAt md s m e false 0
      t.sat (if s then -n else n)

/-- Order of two non-NaN encodings of one format, −0 below +0 (R141). -/
def Fmt.key (f : Fmt) (x : Nat) : Int := if f.neg x then -(f.mag x : Int) - 1 else f.mag x

/-- a < b, a = b as numbers (R144). -/
def Fmt.num (f : Fmt) (x : Nat) : Int := if f.neg x then -(f.mag x : Int) else f.mag x

/-- The square root of `n` from below, found bit by bit from bit `i − 1` of the root. -/
def isqrt (n : Nat) : Nat → Nat → Nat
  | 0, r => r
  | i + 1, r => let t := r + 2 ^ i; if t * t ≤ n then isqrt n i t else isqrt n i r

/-- a ÷ b, rounded once (R161). -/
def Fmt.div (f : Fmt) (md : Mode) (sat : Bool) (a b : Fp) : Nat :=
  match firstNan [a, b] with
  | some s => f.nanOf s
  | none => match a, b with
    | .inf s, .fin t _ _ => f.infOf (s != t)
    | .fin s _ _, .inf t => f.signBit (s != t)
    | .fin s m e, .fin t n d =>
      if n = 0 then (if m = 0 then f.nanOf false else f.infOf (s != t))
      else
        let k := 160 + n.log2
        let num := m <<< k
        f.round md sat (s != t) (num / n) (e - d - k) (decide (num % n ≠ 0))
    | _, _ => f.nanOf false

/-- √x, rounded once (R161). -/
def Fmt.sqrt (f : Fmt) (md : Mode) (sat : Bool) : Fp → Nat
  | .nan s => f.nanOf s
  | .inf s => if s then f.nanOf false else f.infOf false
  | .fin s m e =>
    if m = 0 then f.signBit s
    else if s then f.nanOf false
    else
      let odd := e % 2 = 1
      let m1 := (if odd then m * 2 else m) <<< 320
      let e1 : Int := (if odd then e - 1 else e) - 320
      let r := isqrt m1 200 0
      f.round md sat false r (e1 / 2) (decide (r * r ≠ m1))

/-- 1 ÷ √x, rounded once (R161). -/
def Fmt.rsqrt (f : Fmt) (md : Mode) (sat : Bool) : Fp → Nat
  | .nan s => f.nanOf s
  | .inf s => if s then f.nanOf false else f.signBit false
  | .fin s m e =>
    if m = 0 then f.infOf s
    else if s then f.nanOf false
    else
      let odd := e % 2 = 1
      let m1 := if odd then m * 2 else m
      let e1 : Int := if odd then e - 1 else e
      let num := 1 <<< 512
      let q := num / m1
      let r := isqrt q 260 0
      f.round md sat false r (-(e1 / 2) - 256) (decide (r * r ≠ q) || decide (num % m1 ≠ 0))

end Sys2Proof
end

