-- ==== Sys2Proof/Machine/Trans.lean ====
section
/-!
DEFINITION. The function forms 2^x, log2 x, tanh x and e^x (R161, R182): fixed-point enclosures with `prec` fraction
bits, rounded once. The values are irrational but where the definitions return an exact one, so a value between two
multiples of 2^−prec is all that the one rounding needs.
-/
namespace Sys2Proof

/-- Fraction bits of the fixed-point work. -/
def prec : Nat := 640

/-- 1 in fixed point. -/
def one : Nat := 1 <<< prec

/-- The sum 2 × (z + z³/3 + z⁵/5 + …) of `n` terms, z = num ÷ den, in units of 2^−prec: 2 atanh z. `p` holds the
present odd power. -/
def atanhSum : Nat → Nat → Nat → Nat → Nat → Nat
  | 0, _, _, _, _ => 0
  | n + 1, num, den, p, k => 2 * p / k + atanhSum n num den (p * num / den * num / den) (k + 2)

/-- ln(a ÷ b) for a ≥ b, in units of 2^−prec. -/
def lnRatio (a b : Nat) : Nat :=
  atanhSum 420 (a - b) (a + b) (one * (a - b) / (a + b)) 1

/-- ln 2 in units of 2^−prec. -/
def ln2 : Nat := lnRatio 2 1

/-- The Taylor sum of e^r, 0 ≤ r < 1, `n` terms from term `k`, `t` the present term; units of 2^−prec. -/
def expSum : Nat → Nat → Nat → Nat → Nat
  | 0, _, _, _ => 0
  | n + 1, r, t, k => t + expSum n r (t * r / one / k) (k + 1)

/-- e^r for r in units of 2^−prec, 0 ≤ r < 1. -/
def expFix (r : Nat) : Nat := expSum 180 r (one) 1

/-- A dyadic m × 2^e in units of 2^−prec, its magnitude below 2^12 and its bits above 2^−prec kept. -/
def toFix (m : Nat) (e : Int) : Nat :=
  let sh := e + prec
  if 0 ≤ sh then m <<< sh.toNat else m >>> (-sh).toNat

/-- 2^x (R161). -/
def Fmt.exp2 (f : Fmt) (md : Mode) (sat : Bool) : Fp → Nat
  | .nan s => f.nanOf s
  | .inf s => if s then f.signBit false else f.infOf false
  | .fin s m e =>
    if m = 0 then f.round md sat false 1 0 false
    else if e + (m.log2 : Int) ≥ 12 then
      -- beyond every format's range
      if s then f.round md sat false 1 (-8192) true else f.round md sat false 1 8192 false
    else
      let x := toFix m e
      let n : Nat := x >>> prec
      let fr := x % one
      if fr = 0 then f.round md sat false 1 (if s then -(n : Int) else n) false
      else
        let k : Int := if s then -(n : Int) - 1 else n
        let g := if s then one - fr else fr
        f.round md sat false (expFix (g * ln2 / one)) (k - prec) true

/-- e^x (R182). -/
def Fmt.exp (f : Fmt) (md : Mode) (sat : Bool) : Fp → Nat
  | .nan s => f.nanOf s
  | .inf s => if s then f.signBit false else f.infOf false
  | .fin s m e =>
    if m = 0 then f.round md sat false 1 0 false
    else if e + (m.log2 : Int) ≥ 12 then
      if s then f.round md sat false 1 (-8192) true else f.round md sat false 1 8192 false
    else
      let x := toFix m e
      let n := x / ln2
      let fr := x - n * ln2
      let k : Int := if s then -(n : Int) - 1 else n
      let g := if s then ln2 - fr else fr
      f.round md sat false (expFix g) (k - prec) true

/-- log2 x (R161). -/
def Fmt.log2 (f : Fmt) (md : Mode) (sat : Bool) : Fp → Nat
  | .nan s => f.nanOf s
  | .inf s => if s then f.nanOf false else f.infOf false
  | .fin s m e =>
    if m = 0 then f.infOf true
    else if s then f.nanOf false
    else
      let top := m.log2
      let n : Int := e + top
      if m = 2 ^ top then f.round md sat (decide (n < 0)) n.natAbs 0 false
      else
        let fr := lnRatio m (2 ^ top) * one / ln2
        let v : Int := n * one + fr
        f.round md sat (decide (v < 0)) v.natAbs (-(prec : Int)) true

/-- tanh x (R161). -/
def Fmt.tanh (f : Fmt) (md : Mode) (sat : Bool) : Fp → Nat
  | .nan s => f.nanOf s
  | .inf s => f.round md sat s 1 0 false
  | .fin s m e =>
    if m = 0 then f.signBit s
    else if e + (m.log2 : Int) ≥ 7 then f.round md sat s (one - 1) (-(prec : Int)) true
    else
      -- t = e^(−2|x|), taken as 2^−n × e^(n ln 2 − 2|x|)
      let x := 2 * toFix m e
      let n := x / ln2 + 1
      let t := expFix (n * ln2 - x) >>> n
      f.round md sat s ((one - t) * one / (one + t)) (-(prec : Int)) true

end Sys2Proof
end

