-- ==== Sys2Proof/Machine/Lanes.lean ====
section
/-!
DEFINITION. What the vector forms compute, element by element (R135, R138–R163): pure functions of operands already
read. Nothing here touches the state.
-/
namespace Sys2Proof

/-- A vector operand as read (R135): a whole register, latch or entry, a number placed in every element, or each
element's own index. -/
inductive VOpnd where
  | reg (v : VReg)
  | splat (k : Int)
  | lane
  deriving DecidableEq, Repr

/-- A number placed in an element (R64): modulo the width in an integer type; RNE with saturation in a float type, in the
forms that take a type for its width alone too (log 106). -/
def Ty.place (t : Ty) (k : Int) : Nat :=
  match t with
  | .float f => f.ofInt .rne true k
  | t => wrap t.width k

/-- Element `e` of an operand at type `t` (R64, R135). -/
def VOpnd.at (o : VOpnd) (t : Ty) (e : Nat) : Nat :=
  match o with
  | .reg v => elem t.width v e
  | .splat k => t.place k
  | .lane => t.place e

/-- Element `e` of an operand as an index (R150): an immediate stays the number it is, whatever the type. -/
def VOpnd.index (o : VOpnd) (t : Ty) (e : Nat) : Nat :=
  match o with
  | .reg v => elem t.width v e
  | .splat k => wrap t.width k
  | .lane => e

/-- The rounding of a syllable as resolved at issue: a fixed mode, or SR with its popped word (R112, R118, R138). -/
inductive Rnd where
  | fixed (m : Mode)
  | sr (word : VReg)
  deriving DecidableEq, Repr

/-- The mode of result element `e` of `n` (R120). -/
def Rnd.at (r : Rnd) (n e : Nat) : Mode :=
  match r with
  | .fixed m => m
  | .sr word =>
    let w := min 16 (2048 / n)
    .sr ((word.toNat >>> (w * e)) % 2 ^ w) w

/-- A result: its value and the bits of the destination that it writes (R134). -/
structure VRes where
  val : VReg
  en : VReg
  deriving DecidableEq, Repr

/-- Every bit is written. -/
def VRes.whole (v : VReg) : VRes := ⟨v, BitVec.allOnes 2048⟩

/-- Elements `f e` of width `w`, written where the guard `g` enables them (R133, R134). -/
def VRes.elems (w : Nat) (g : Nat → Bool) (f : Nat → Nat) : VRes :=
  ⟨pack w (fun e => if g e then f e else 0), elemMask w g⟩

/-! ## Arithmetic (R140–R143) -/

/-- An integer form: exact on the values of the type, then modulo 2^w; a float form on the encodings. -/
def Ty.arith (t : Ty) (i : Int → Int → Int) (f : Fmt → Nat → Nat → Nat) (a b : Nat) : Nat :=
  match t with
  | .float m => f m a b
  | t => wrap t.width (i (t.val a) (t.val b))

def laneAdd (t : Ty) (md : Mode) (sat : Bool) (a b : Nat) : Nat :=
  t.arith (· + ·) (fun f a b => f.sum md sat [f.dec a, f.dec b] [f.dec a, f.dec b]) a b

def laneSub (t : Ty) (md : Mode) (sat : Bool) (a b : Nat) : Nat :=
  t.arith (· - ·) (fun f a b => f.sum md sat [f.dec a, f.dec b] [f.dec a, (f.dec b).neg]) a b

def laneMul (t : Ty) (md : Mode) (sat : Bool) (a b : Nat) : Nat :=
  t.arith (· * ·) (fun f a b => f.sum md sat [f.dec a, f.dec b] [(f.dec a).mul (f.dec b)]) a b

/-- a × b + c, or a × b − c, with one rounding (R140). -/
def laneFma (t : Ty) (minus : Bool) (md : Mode) (sat : Bool) (a b c : Nat) : Nat :=
  match t with
  | .float f =>
    let z := f.dec c
    f.sum md sat [f.dec a, f.dec b, z] [(f.dec a).mul (f.dec b), if minus then z.neg else z]
  | t =>
    let z := t.val c
    wrap t.width (t.val a * t.val b + (if minus then -z else z))

def laneAddSat (t : Ty) (a b : Nat) : Nat := wrap t.width (t.sat (t.val a + t.val b))

def laneSubSat (t : Ty) (a b : Nat) : Nat := wrap t.width (t.sat (t.val a - t.val b))

def laneMulHi (t : Ty) (a b : Nat) : Nat := wrap t.width ((t.val a * t.val b) / 2 ^ t.width)

/-- Minimum, or maximum when `hi` (R141). -/
def laneMin (t : Ty) (hi : Bool) (a b : Nat) : Nat :=
  match t with
  | .float f =>
    match firstNan [f.dec a, f.dec b] with
    | some s => f.nanOf s
    | none => if (f.key a ≤ f.key b) != hi then a else b
  | t => if (t.val a ≤ t.val b) != hi then a else b

def laneAbs (t : Ty) (sat : Bool) (a : Nat) : Nat :=
  match t with
  | .float f => if (f.dec a).isNan then f.nanOf (f.neg a) else f.mag a
  | t => if sat && t.val a = t.minVal then wrap t.width t.maxVal else wrap t.width (t.val a).natAbs

def laneNeg (t : Ty) (sat : Bool) (a : Nat) : Nat :=
  match t with
  | .float f => if (f.dec a).isNan then f.nanOf (f.neg a) else f.signBit (!f.neg a) + f.mag a
  | t => if sat && t.val a = t.minVal then wrap t.width t.maxVal else wrap t.width (-t.val a)

/-- Bitwise not of `w` bits. -/
def notW (w x : Nat) : Nat := 2 ^ w - 1 - x % 2 ^ w

/-- Shifts by b mod w (R143). -/
def laneShl (w a b : Nat) : Nat := (a <<< (b % w)) % 2 ^ w

def laneShr (w a b : Nat) : Nat := a >>> (b % w)

def laneSra (w a b : Nat) : Nat := wrap w (signed w a / 2 ^ (b % w))

/-- Dot products (R142): `q` products of type `t` and c, into element `j` of 32 bits. -/
def laneDot (t : Ty) (q : Nat) (md : Mode) (sat : Bool) (a b c : VOpnd) (j : Nat) : Nat :=
  let idx := (upTo q).map (fun i => q * j + i)
  match t with
  | .float f =>
    let xs := idx.map (fun i => f.dec (a.at t i))
    let ys := idx.map (fun i => f.dec (b.at t i))
    let z := f32.dec (c.at (.float f32) j)
    f32.sum md sat (xs ++ ys ++ [z]) ((List.zipWith Fp.mul xs ys) ++ [z])
  | t =>
    let t32 : Ty := match t with
      | .int _ => .int 32
      | _ => .nat 32
    let p := (idx.map (fun i => t.val (a.at t i) * t.val (b.at t i))).foldl (· + ·) 0
    let x := t32.val (c.at t32 j) + p
    wrap 32 (if sat then t32.sat x else x)

/-! ## Compare (R88, R144) -/

/-- The scalar conditions (R88); codes 10–15 are no condition. -/
def scalarCond (cc : Nat) (a b : Word) : Bool :=
  match cc with
  | 0 => a == b
  | 1 => a != b
  | 2 => a.slt b
  | 3 => b.sle a
  | 4 => a.ult b
  | 5 => b.ule a
  | 6 => a.sle b
  | 7 => b.slt a
  | 8 => a.ule b
  | 9 => b.ult a
  | _ => false

/-- The vector conditions on ordered values (R144). -/
def orderCond (cc : Nat) (a b : Int) : Bool :=
  match cc with
  | 0 => a == b
  | 1 => a != b
  | 2 => decide (a < b)
  | 3 => decide (b ≤ a)
  | 4 => decide (a ≤ b)
  | 5 => decide (b < a)
  | 6 => true
  | _ => false

def laneCond (t : Ty) (cc a b : Nat) : Bool :=
  match t with
  | .float f =>
    if (f.dec a).isNan || (f.dec b).isNan then cc == 1 || cc == 7 else orderCond cc (f.num a) (f.num b)
  | t => orderCond cc (t.val a) (t.val b)

/-! ## Reductions and scans (R148, R149) -/

/-- What a reduction answers when no element takes part (R148). -/
def redEmpty (t : Ty) (op : Nat) : Nat :=
  match op with
  | 1 => match t with
    | .float f => f.infOf false
    | t => wrap t.width t.maxVal
  | 2 => match t with
    | .float f => f.infOf true
    | t => wrap t.width t.minVal
  | 3 => 2 ^ t.width - 1
  | _ => 0

/-- The reduction of the elements `xs` (R148). Where several elements are NaN, the NaN of a minimum, a maximum or a sum takes the
sign of the one of lowest index: R148 gives no sign (log 130). -/
def reduce (t : Ty) (op : Nat) (md : Mode) (xs : List Nat) : Nat :=
  match xs with
  | [] => redEmpty t op
  | x :: rest =>
    match op with
    | 0 => match t with
      | .float f => let ys := xs.map f.dec; f.sum md false ys ys
      | t => wrap t.width (xs.foldl (fun s y => s + t.val y) 0)
    | 1 => match t with
      | .float f => match firstNan (xs.map f.dec) with
        | some s => f.nanOf s
        | none => rest.foldl (laneMin t false) x
      | _ => rest.foldl (laneMin t false) x
    | 2 => match t with
      | .float f => match firstNan (xs.map f.dec) with
        | some s => f.nanOf s
        | none => rest.foldl (laneMin t true) x
      | _ => rest.foldl (laneMin t true) x
    | 3 => rest.foldl (· &&& ·) x
    | 4 => rest.foldl (· ||| ·) x
    | _ => rest.foldl (· ^^^ ·) x

/-- The enabled elements below `n`, in order. -/
def enabled (g : Nat → Bool) (a : Nat → Nat) (n : Nat) : List Nat := ((upTo n).filter g).map a

/-! ## Conversions (R115, R125, R154–R157) -/

/-- A value of type `st` taken to type `dt` (R115, R156, R157). -/
def convert (dt st : Ty) (md : Mode) (sat : Bool) (x : Nat) : Nat :=
  match st, dt with
  | .float s, .float d => d.conv md sat (decide (s.w < d.w)) (s.dec x)
  | .float s, d => wrap d.width (d.ofFp md (s.dec x))
  | s, .float d => d.ofInt md sat (s.val x)
  | s, d => wrap d.width (if sat then d.sat (s.val x) else s.val x)

/-- Codebook entry `q` (R125, R156). -/
def bookEntry (book : Nat) (q : Nat) : Nat := (book >>> (16 * q)) % 2 ^ 16

/-- Decoding a code: the entry exactly, widened when the target is f32 (R125). -/
def cbDecode (toF32 : Bool) (book q : Nat) : Nat :=
  if toF32 then bookEntry book (q % 16) <<< 16 else bookEntry book (q % 16)

/-- A finite or infinite bf16 entry as an ordered rational (numerator over 2^133); infinities beyond every finite: the place
of an infinity tells what lies above and below it, and nothing is computed from it. -/
def bfRat (x : Nat) : Int :=
  match bf16.dec x with
  | .fin s m e => let v : Int := (m <<< (e + 133).toNat : Nat); if s then -v else v
  | .inf s => if s then -(2 ^ 400) else 2 ^ 400
  | .nan _ => 0

/-- The least of the candidates by `better`, the lower index standing among equals. -/
def pick (better : Nat → Nat → Bool) : List Nat → Option Nat
  | [] => none
  | q :: t => match pick better t with
    | none => some q
    | some r => if better r q then some r else some q

/-- Encoding a value into a codebook (R125): the source in format `f`; `draw` is SR's r with the bits it has. R125 names no
code where no entry is a number, measures no distance to an infinity and divides by none: there the code, or SR's choice, is
Config.cbCode's (log 104). -/
def cbEncode (f : Fmt) (book : Nat) (draw : Option (Nat × Nat)) (x : Nat) : Nat :=
  let ent := bookEntry book
  let isN := fun q => (bf16.dec (ent q)).isNan
  let isI := fun q => (bf16.dec (ent q)).isInf.isSome
  let all := upTo 16
  let good := all.filter (fun q => !isN q)
  let free := Machine.Config.cbCode book x
  match f.dec x with
  | .nan _ => (all.find? isN).getD 0
  | .inf s =>
    (pick (fun r q => if s then bfRat (ent r) < bfRat (ent q) else bfRat (ent r) > bfRat (ent q)) good).getD (free % 16)
  | .fin s m e =>
    -- everything in units of 2^−1100, beyond every source's last place; entries scaled alike
    let v : Int := let y : Int := (m <<< (e + 1100).toNat : Nat); if s then -y else y
    let val := fun q => bfRat (ent q) * 2 ^ 967
    -- one entry for each infinity, the lowest
    let infs := good.filter (fun q => isI q && (upTo q).all (fun r => isN r || val r != val q))
    let near := (pick (fun r q => (val r - v).natAbs < (val q - v).natAbs) (good.filter (fun q => !isI q))).getD
      ((infs[free % infs.length]?).getD (free % 16))
    match draw with
    | none => near
    | some (r, w) =>
      let lo := pick (fun r q => val r > val q) (good.filter (fun q => val q ≤ v))
      let hi := pick (fun r q => val r < val q) (good.filter (fun q => v ≤ val q))
      match lo, hi with
      | some l, some u =>
        if val l = val u then near
        else if isI l || isI u then (if free % 2 = 1 then u else near)
        else if ((v - val l).natAbs * 2 ^ w) / (val u - val l).natAbs + r ≥ 2 ^ w then u else near
      | _, _ => near

/-- VCLASS (R160). -/
def classOf (f : Fmt) (x : Nat) : Nat :=
  match f.dec x with
  | .nan _ => 256
  | .inf s => if s then 1 else 128
  | .fin s m _ =>
    let sub := decide (m < 2 ^ f.frac)
    if m = 0 then (if s then 8 else 16)
    else if s then (if sub then 4 else 2)
    else (if sub then 32 else 64)

/-- VSCALE: a × 2^n, rounded once (R159). Beyond ±5,000 the place of n no longer matters. -/
def laneScale (f : Fmt) (md : Mode) (sat : Bool) (a b : Nat) : Nat :=
  let n := max (-5000) (min 5000 (signed f.w b))
  match f.dec a with
  | .nan s => f.nanOf s
  | .inf s => f.infOf s
  | .fin s m e => f.round md sat s m (e + n) false

/-- VRCP: 1 ÷ x, rounded once (R161). -/
def laneRcp (f : Fmt) (md : Mode) (sat : Bool) (x : Fp) : Nat := f.div md sat (.fin false 1 0) x

/-- The value VLI places (R163). -/
def vliElem (t : Ty) (p : Nat) : Nat :=
  match t with
  | .int w => if w ≤ 16 then p % 2 ^ w else wrap w (signed 16 p)
  | .nat w => p % 2 ^ w
  | .float f =>
    if f.w = 8 then p % 256
    else if f.w = 16 then p
    else if f.w = 32 then p <<< 16
    else f64.conv .rne false true (bf16.dec p)
  | .cb4 => 0

end Sys2Proof
end

