-- ==== Sys2Proof/Machine/Legal.lean ====
section
/-!
DEFINITION. The encoding checks of every syllable (R53, R60, R62, R63, R65–R67 and the tables of the chapters): what
makes a syllable trap with ILLOP whatever its guard.
-/
namespace Sys2Proof

/-! ## Fields of IMM24 (R67) -/

/-- IMM24[hi:lo]. -/
def Syl.im (y : Syl) (hi lo : Nat) : Nat := field y.imm.toNat hi lo

/-- IMM24 sign-extended (R90). -/
def Syl.simm (y : Syl) : Word := y.imm.signExtend 64

def Syl.ty (y : Syl) : Nat := y.im 23 20
def Syl.rnd (y : Syl) : Nat := y.im 19 17
def Syl.srcc (y : Syl) : BitVec 8 := y.imm.extractLsb' 9 8
def Syl.sat (y : Syl) : Bool := y.imm.getLsbD 8
def Syl.fn (y : Syl) : Nat := y.im 7 4
def Syl.md (y : Syl) : Nat := y.im 3 0
def Syl.os (y : Syl) : Bool := y.imm.getLsbD 23
def Syl.scope (y : Syl) : Nat := y.im 22 21
def Syl.aux (y : Syl) : Nat := y.im 20 18

namespace Machine

/-! ## Selectors, guard and destinations -/

def guardOk (g : BitVec 4) : Bool := g != 8

/-- A source selector of an execute slot (R63). -/
def selX (b : BitVec 8) : Bool :=
  let n := b.toNat
  n ≤ 0x42 || (0x44 ≤ n && n ≤ 0x4B) || (0x50 ≤ n && n ≤ 0x54) || 0x80 ≤ n

/-- A source selector of an access slot (R63). -/
def selA (b : BitVec 8) : Bool :=
  let n := b.toNat
  n ≤ 0x1F || (0x44 ≤ n && n ≤ 0x46) || (0x48 ≤ n && n ≤ 0x4A) || (0x50 ≤ n && n ≤ 0x54) || 0x80 ≤ n

/-- An a register (R202). -/
def aReg (b : BitVec 8) : Bool := b.toNat ≤ 0x1F

/-- A pop or peek of sq0 or sq1 (R208, R238, R316). -/
def sqSel (b : BitVec 8) : Bool := b == 0x44 || b == 0x45 || b == 0x48 || b == 0x49

/-- DST of X, V0 and V1: a register, a push or the latch alone (R65, R66, R84, R136). -/
def dstX (b : BitVec 8) : Bool := b.toNat ≤ 0x43 || b == 0x80

/-- DST of an access slot: a0–a31 or a push to an lq (R65, R91). -/
def dstA (b : BitVec 8) : Bool := b.toNat ≤ 0x1F || (0x40 ≤ b.toNat && b.toNat ≤ 0x43)

def dstLq (b : BitVec 8) : Bool := 0x40 ≤ b.toNat && b.toNat ≤ 0x43

/-! ## X slot (R84–R106, R362) -/

/-- Two sources, no IMM24. -/
def okX2 (y : Syl) : Bool := guardOk y.guard && dstX y.dst && selX y.srca && selX y.srcb && y.imm == 0

/-- One source, no IMM24. -/
def okX1 (y : Syl) : Bool := guardOk y.guard && dstX y.dst && selX y.srca && y.srcb == 0 && y.imm == 0

/-- One source and a whole IMM24 (R90). -/
def okXI (y : Syl) : Bool := guardOk y.guard && dstX y.dst && selX y.srca && y.srcb == 0

/-- No source: only DST (R105, R106). -/
def okX0 (y : Syl) : Bool := guardOk y.guard && dstX y.dst && y.srca == 0 && y.srcb == 0 && y.imm == 0

/-- Nothing but GUARD (R98, R100). -/
def okNone (y : Syl) : Bool := guardOk y.guard && y.dst == 0 && y.srca == 0 && y.srcb == 0 && y.imm == 0

/-- Nothing but GUARD and IMM24 (R95, R99). -/
def okImm (y : Syl) : Bool := guardOk y.guard && y.dst == 0 && y.srca == 0 && y.srcb == 0

/-- A bit field of EXTR and INS (R87). -/
def okBits (y : Syl) : Bool := 1 ≤ y.im 12 6 && y.im 12 6 ≤ 64 && y.im 5 0 + y.im 12 6 ≤ 64 && y.im 23 14 == 0

/-- The CSR numbers of R102. -/
def csrListed (n : Nat) : Bool :=
  [0x000, 0x001, 0x002, 0x003, 0x004, 0x008, 0x009, 0x00A, 0x010, 0x011, 0x012, 0x020, 0x021, 0x022, 0x030, 0x031,
   0x040, 0x041].contains n

def okCsr (y : Syl) : Bool := guardOk y.guard && dstX y.dst && y.srcb == 0 && y.im 23 12 == 0 && csrListed (y.im 11 0)

/-! ## Pair syllables (R69, R70) -/

def vopListed (v : Nat) : Bool :=
  v ≤ 0x0E || (0x10 ≤ v && v ≤ 0x14) || v == 0x18 || v == 0x19 || v == 0x20

def okPair (y : PairSyl) : Bool :=
  guardOk y.guard && y.xop.toNat ≤ 0x0D && vopListed y.vop.toNat && selX (y.xa.setWidth 8) && selX y.xb
    && selX (y.va.setWidth 8) && selX y.vb && (y.vop != 0x20 || y.vb == 0)

/-! ## V slots (R133–R163) -/

def tI (t : Nat) : Bool := t ≤ 3
def tN (t : Nat) : Bool := 4 ≤ t && t ≤ 7
def tF (t : Nat) : Bool := 8 ≤ t && t ≤ 11
def tF3 (t : Nat) : Bool := 8 ≤ t && t ≤ 10
def tW (t : Nat) : Bool := t ≤ 13
/-- Any float type. -/
def tFl (t : Nat) : Bool := 8 ≤ t && t ≤ 13

/-- What every V form checks: guard, a plain destination, ROUND legal for floats alone, SAT where allowed (R137). -/
def okV (y : Syl) (types rounds sats : Bool) : Bool :=
  guardOk y.guard && dstX y.dst && types && y.rnd ≤ 5 && (rounds || y.rnd == 0) && (sats || !y.sat)

/-- SRCA and SRCB are vector selectors, SRCC, FN and MD reserved. -/
def abOnly (y : Syl) : Bool := selX y.srca && selX y.srcb && y.srcc == 0 && y.fn == 0 && y.md == 0

def aOnly (y : Syl) : Bool := selX y.srca && y.srcb == 0 && y.srcc == 0 && y.fn == 0 && y.md == 0

def tINF (t : Nat) : Bool := t ≤ 11
def tIN (t : Nat) : Bool := t ≤ 7

def okArith (y : Syl) : Bool := okV y (tINF y.ty) (tF y.ty) (tF y.ty) && abOnly y

def okFma (y : Syl) : Bool :=
  okV y (tINF y.ty) (tF y.ty) (tF y.ty) && selX y.srca && selX y.srcb && selX y.srcc && y.fn == 0 && y.md == 0

def okDot (y : Syl) (ts : List Nat) : Bool :=
  okV y (ts.contains y.ty) (tFl y.ty) true && selX y.srca && selX y.srcb && selX y.srcc && y.fn == 0 && y.md == 0

/-- A form on types `t` that neither rounds nor saturates, with two sources. -/
def okV2 (y : Syl) (t : Bool) : Bool := okV y t false false && abOnly y

def okV1 (y : Syl) (t : Bool) : Bool := okV y t false false && aOnly y

def okVcmp (y : Syl) : Bool :=
  guardOk y.guard && y.dst == 0x44 && tINF y.ty && y.rnd == 0 && !y.sat && selX y.srca && selX y.srcb && y.srcc == 0
    && y.fn ≤ (if tF y.ty then 7 else 5)

/-- Mask forms (R146). -/
def okMask (y : Syl) (two : Bool) : Bool :=
  guardOk y.guard && y.dst == 0x44 && y.ty == 0 && y.rnd == 0 && !y.sat && y.srcc == 0 && y.fn == 0
    && y.srca.toNat ≤ 15 && (if two then y.srcb.toNat ≤ 15 else y.srcb == 0)

/-- MPOPC and MFIRST (R147). -/
def okMcount (y : Syl) : Bool :=
  okV y (tW y.ty) false false && y.srca.toNat ≤ 15 && y.srcb == 0 && y.srcc == 0 && y.fn == 0 && y.md == 0

/-- Reductions: the operator's types, ROUND for a float add alone (R148, R149). -/
def okRed (y : Syl) (ops : Nat) : Bool :=
  okV y (tINF y.ty) (tF y.ty && y.fn == 0) false && selX y.srca && y.srcb == 0 && y.srcc == 0 && y.md == 0
    && y.fn ≤ ops && (y.fn ≤ 2 || !tF y.ty)

def elems (t : Nat) : Nat := match Ty.ofCode t with
  | some t => t.count
  | none => 0

/-- Width of a TYPE code; 0 where there is none. -/
def tyWidth (t : Nat) : Nat := match Ty.ofCode t with
  | some t => t.width
  | none => 0

/-- PART is below the ratio of the widths (R154). -/
def partOk (y : Syl) : Bool :=
  let a := tyWidth y.ty
  let b := tyWidth y.fn
  a != 0 && b != 0 && y.md < max a b / min a b

/-- VCVT (R154–R156). -/
def okVcvt (y : Syl) : Bool :=
  let d := y.ty
  let t := y.fn
  let narrow := tyWidth d < tyWidth t
  let pair := (tFl d && tFl t && d != t) || (tFl d && tIN t) || (tIN d && tFl t)
    || (t == 14 && (d == 9 || d == 10)) || (d == 14 && (t == 9 || t == 10))
  guardOk y.guard && dstX y.dst && pair && partOk y && y.rnd ≤ 5 && selX y.srca
    && (if d == 14 || t == 14 then selX y.srcb else y.srcb == 0)
    && (if narrow then selX y.srcc else y.srcc == 0)
    && (d != 14 || (!y.sat && (y.rnd == 0 || y.rnd == 4 || y.rnd == 5)))

def okVnarrow (y : Syl) : Bool :=
  okV y (tIN y.ty && tIN y.fn) false true && tyWidth y.ty < tyWidth y.fn && partOk y && selX y.srca && y.srcb == 0
    && selX y.srcc

def okVwiden (y : Syl) : Bool :=
  okV y (tIN y.ty && tIN y.fn) false false && tyWidth y.fn < tyWidth y.ty && partOk y && selX y.srca && y.srcb == 0
    && y.srcc == 0

/-- VABS and VNEG: I and F; SAT on I alone (R139). -/
def okVabs (y : Syl) : Bool := okV y (tI y.ty || tF y.ty) false (tI y.ty) && aOnly y

/-- VSEL, VCOMP and VEXPD: MD names the selecting mask (R145, R152). -/
def okVselect (y : Syl) (two : Bool) : Bool :=
  okV y (tW y.ty) false false && selX y.srca && (if two then selX y.srcb else y.srcb == 0) && y.srcc == 0 && y.fn == 0

def okViota (y : Syl) : Bool :=
  okV y (tIN y.ty) false false && y.srca == 0 && y.srcb == 0 && y.srcc == 0 && y.fn == 0

/-- VPERM, FN 1 with a second table in SRCC (R150). -/
def okVperm (y : Syl) : Bool :=
  okV y (tW y.ty) false false && selX y.srca && selX y.srcb && y.fn ≤ 1 && (if y.fn = 1 then selX y.srcc else y.srcc == 0)
    && y.md == 0

/-- VROT and VBCAST: a scalar in SRCC (R135, R150). -/
def okVscalar (y : Syl) (a : Bool) : Bool :=
  okV y (tW y.ty) false false && (if a then selX y.srca else y.srca == 0) && y.srcb == 0 && selX y.srcc && y.fn == 0
    && y.md == 0

/-- VINS and VEXT: an index below E (R151). -/
def okVindex (y : Syl) (scalar : Bool) : Bool :=
  okV y (tW y.ty) false false && selX y.srca && y.srcb == 0 && (if scalar then selX y.srcc else y.srcc == 0)
    && y.im 7 0 < elems y.ty

/-- VZIP and VUNZIP (R153). -/
def okVzip (y : Syl) : Bool :=
  okV y (tW y.ty) false false && selX y.srca && selX y.srcb && y.srcc == 0 && y.fn ≤ 1 && y.md == 0

/-- The rounded float forms of one source (R161). -/
def okVfun (y : Syl) (types : Bool) : Bool := okV y types true true && aOnly y

def okVscale (y : Syl) : Bool := okV y (tF y.ty) true true && abOnly y

/-- VLI: SRCA and SRCB are data (R163). -/
def okVli (y : Syl) : Bool := okV y (tW y.ty) false false && y.srcc == 0 && y.fn == 0 && y.md == 0

/-! ## M slot (R190) -/

/-- A format of the array (R169). -/
def mFmt (f : Nat) : Bool := f == 0 || (8 ≤ f && f ≤ 13)

/-- Guard, and DST reserved. -/
def okM (y : Syl) : Bool := guardOk y.guard && y.dst == 0

/-- Nothing but GUARD and the given bits of IMM24. -/
def okM0 (y : Syl) (imm : Bool) : Bool := okM y && y.srca == 0 && y.srcb == 0 && imm

def okM1 (y : Syl) (imm : Bool) : Bool := okM y && selX y.srca && y.srcb == 0 && imm

def okM2 (y : Syl) (imm : Bool) : Bool := okM y && selX y.srca && selX y.srcb && imm

/-- MCHKR (R185). -/
def okMchkr (y : Syl) : Bool :=
  guardOk y.guard && dstX y.dst && y.dst != 0x80 && y.srca == 0 && y.srcb == 0 && y.im 23 8 == 0

/-- EPCFG (R182). -/
def okEpcfg (y : Syl) : Bool :=
  okM2 y ((y.ty == 0 || y.ty == 2 || (8 ≤ y.ty && y.ty ≤ 13)) && y.rnd ≤ 5 && y.im 11 8 ≤ 2 && y.im 7 0 == 0)

/-! ## L and S slots (R202, R207, R208, R213, R214, R316) -/

/-- Guard and base. -/
def okL (y : Syl) : Bool := guardOk y.guard && aReg y.srca

def okLd (y : Syl) (anyScope : Bool) : Bool :=
  okL y && dstA y.dst && y.srcb == 0 && (anyScope || y.scope == 0) && !(y.aux == 7)

def okVld (y : Syl) : Bool := okL y && dstLq y.dst && y.srcb == 0 && y.scope == 0 && y.aux == 0

def okVlds (y : Syl) : Bool := okL y && dstLq y.dst && aReg y.srcb && y.scope == 0 && y.aux % 2 == 0

def okVldx (y : Syl) : Bool := okL y && dstLq y.dst && y.srcb == 0 && y.scope == 0 && 2 ≤ y.aux / 2

def okVldt (y : Syl) : Bool :=
  okL y && dstLq y.dst && y.os && y.scope == 0 && y.aux == 0 && y.srcb.toNat / 16 ≤ 14 && y.srcb.toNat % 16 ≤ 3

def okLdn (y : Syl) : Bool := okL y && dstLq y.dst && y.srcb == 0 && !y.os && y.scope == 0 && 1 ≤ y.aux

def okPft (y : Syl) : Bool := okL y && y.dst == 0 && y.srcb == 0 && !y.os && y.scope == 0

def okVldb (y : Syl) : Bool := okL y && dstLq y.dst && y.srcb == 0 && y.scope == 0 && y.aux % 2 == 0

def okSt (y : Syl) (anyScope : Bool) : Bool :=
  okL y && y.dst == 0 && selA y.srcb && (anyScope || y.scope == 0) && y.aux % 2 == 0

def okVst (y : Syl) : Bool := okL y && y.dst == 0 && sqSel y.srcb && y.scope == 0 && y.aux == 0

def okVsts (y : Syl) : Bool := okL y && aReg y.dst && sqSel y.srcb && y.scope == 0 && y.aux % 2 == 0

def okVstx (y : Syl) : Bool := okL y && y.dst == 0 && sqSel y.srcb && y.scope == 0 && 2 ≤ y.aux / 2

def okClrt (y : Syl) : Bool :=
  okL y && y.dst == 0 && y.os && y.scope == 0 && y.aux ≤ 1
    && (if y.aux = 1 then y.srcb.toNat / 16 ≤ 14 && y.srcb.toNat % 16 ≤ 3 else y.srcb == 0)

def okStnt (y : Syl) : Bool := okVst y && !y.os

def okDefer (y : Syl) : Bool := okL y && y.dst == 0 && sqSel y.srcb && !y.os && y.aux == 0

/-! ## Y slot: arithmetic, loops, barriers, ordering (R91–R94, R229–R246) -/

def okY (y : Syl) : Bool := guardOk y.guard

def okA2 (y : Syl) : Bool := okY y && dstA y.dst && selA y.srca && selA y.srcb && y.imm == 0

def okAI (y : Syl) : Bool := okY y && dstA y.dst && selA y.srca && y.srcb == 0

def okAcmp (y : Syl) : Bool :=
  okY y && y.dst == 0x44 && selA y.srca && selA y.srcb && y.im 23 8 == 0 && y.im 3 3 == 0 && y.im 7 4 ≤ 9

def okKset (y : Syl) : Bool :=
  okY y && y.dst == 0 && y.srcb == 0 && (if y.imm.getLsbD 21 then y.srca == 0 else selA y.srca && y.im 20 0 == 0)

def okLoop (y : Syl) : Bool := okY y && y.dst == 0 && y.srca == 0 && y.srcb == 0

/-- BINIT, its immediate target in 1–8,191 (R244). -/
def okBinit (y : Syl) : Bool :=
  okY y && y.dst == 0 && y.srcb == 0 && y.im 3 0 == 0
    && (if y.imm.getLsbD 10 then y.srca == 0 && y.im 23 11 != 0 else selA y.srca && y.im 23 11 == 0)

def okBarv (y : Syl) : Bool :=
  okY y && y.dst == 0 && y.srca == 0 && y.im 12 10 == 0 && y.im 3 0 == 0
    && (if y.imm.getLsbD 13 then y.srcb == 0 else selA y.srcb && y.im 23 14 == 0)

/-- The remote BARV's address may be in any register or queue that the access stream reads: R63 and R244 name no file for it
(log 127). -/
def okBarvRemote (y : Syl) : Bool :=
  okY y && y.dst == 0 && selA y.srca && y.imm.getLsbD 10 && y.im 12 11 != 0 && y.im 8 4 == 0 && y.im 3 0 == 0
    && (if y.imm.getLsbD 13 then y.srcb == 0 else selA y.srcb && y.im 23 14 == 0)

def okBwait (y : Syl) : Bool :=
  okY y && y.srca == 0 && y.srcb == 0 && y.im 23 11 == 0 && y.im 3 3 == 0
    && (if y.imm.getLsbD 10 then y.dst == 0x44 else y.dst == 0 && y.im 2 0 == 0)

def okBtest (y : Syl) : Bool := okY y && y.dst == 0x44 && y.srca == 0 && y.srcb == 0 && y.im 23 10 == 0 && y.im 3 3 == 0

def okFence (y : Syl) : Bool :=
  okY y && y.dst == 0 && y.srca == 0 && y.srcb == 0 && y.im 23 6 == 0 && y.im 1 0 != 0 && y.im 5 2 != 0

def okDrain (y : Syl) : Bool :=
  okY y && y.dst == 0 && y.srca == 0 && y.srcb == 0 && y.im 23 23 == 0 && y.im 20 0 == 0

def okAmo (y : Syl) : Bool :=
  okY y && dstA y.dst && aReg y.srca && selA y.srcb && y.im 13 0 == 0 && y.im 17 14 ≤ 9 && !(y.os && y.scope != 0)

def okCas (y : Syl) : Bool :=
  okY y && dstA y.dst && aReg y.srca && selA y.srcb && y.im 17 8 == 0 && selA (y.imm.setWidth 8)
    && !(y.os && y.scope != 0)

/-- BANK: i32, i64, n32, n64, bf16, f32, f64; and, or, xor on integers (R238). -/
def okBank (y : Syl) : Bool :=
  okY y && y.dst == 0 && aReg y.srca && sqSel y.srcb && !y.os && y.im 11 0 == 0
    && [2, 3, 6, 7, 9, 10, 11].contains (y.im 18 15) && y.im 14 12 ≤ 6
    && !(3 ≤ y.im 14 12 && y.im 14 12 ≤ 5 && tF (y.im 18 15))

def okRres (y : Syl) : Bool := okY y && dstA y.dst && aReg y.srca && y.srcb == 0 && y.imm == 0

def okRpub (y : Syl) : Bool :=
  okY y && dstA y.dst && aReg y.srca && selA y.srcb && y.im 23 23 == 0 && y.im 20 0 == 0

/-- DST an a register, SRCA a register, SRCB and IMM24 as given. -/
def okAd (y : Syl) (rest : Bool) : Bool := okY y && aReg y.dst && rest

/-- Nothing but GUARD and `rest`. -/
def okBare (y : Syl) (rest : Bool) : Bool := okY y && y.dst == 0 && y.srca == 0 && y.srcb == 0 && rest

/-! ## C slot (R218, R219, R249, R250) -/

/-- CPY and CPYG. -/
def okCpy (y : Syl) : Bool :=
  okY y && aReg y.dst && aReg y.srca && aReg y.srcb && (y.im 20 17 == 0 || 8 ≤ y.im 20 17)
    && !(y.imm.getLsbD 7 && (y.imm.getLsbD 23 || y.im 20 17 != 0))

/-! ## Every instruction -/

/-- The syllable, micro-op or event is well formed: the encoding checks of its slot. A field that a mode bit leaves without a use,
and that no rule calls reserved, may hold any value (R53, log 128). -/
def legal : Instr → Bool
  | .add y | .sub y | .mul y | .mulhi y | .mulhn y | .div y | .divn y | .rem y | .remn y | .and y | .or y | .xor y
  | .andn y | .shl y | .shr y | .sra y | .rot y | .min y | .max y | .minn y | .maxn y => okX2 y
  | .clz y | .ctz y | .popc y => okX1 y
  | .extr y => guardOk y.guard && dstX y.dst && selX y.srca && y.srcb == 0 && okBits y
  | .ins y => guardOk y.guard && dstX y.dst && selX y.srca && selX y.srcb && okBits y && !y.imm.getLsbD 13
  | .sel y => guardOk y.guard && dstX y.dst && selX y.srca && selX y.srcb && y.im 23 4 == 0
  | .cmpCc y => guardOk y.guard && y.dst == 0x44 && selX y.srca && selX y.srcb && y.im 23 8 == 0 && y.fn ≤ 9
  | .addi y | .lim y | .andi y | .ori y | .xori y => okXI y
  | .lit y => okXI y && y.im 23 16 == 0
  | .li y => okXI y && y.srca == 0
  | .br y | .trap y | .svc y => okImm y
  | .call y => guardOk y.guard && y.dst.toNat < 0x40 && y.srca == 0 && y.srcb == 0
  | .ret y => guardOk y.guard && y.dst == 0 && selX y.srca && y.srcb == 0 && y.imm == 0
  | .jr y => guardOk y.guard && y.dst == 0 && selX y.srca && y.srcb == 0
  | .eret y | .endStep y | .nop y => okNone y
  | .csrr y => okCsr y && y.srca == 0
  | .csrw y | .csrs y | .csrc y => okCsr y && selX y.srca
  | .time y | .cyc y | .rndw y => okX0 y
  | .hint y => okImm y && y.im 23 2 == 0
  | .pair y => okPair y
  | .vadd _ y | .vsub _ y | .vmul _ y => okArith y
  | .vfma _ y | .vfms _ y => okFma y
  | .vmin _ y | .vmax _ y => okV2 y (tINF y.ty)
  | .vabs _ y | .vneg _ y => okVabs y
  | .vadds _ y | .vsubs _ y | .vmulh _ y | .vshl _ y | .vshr _ y | .vsra _ y => okV2 y (tIN y.ty)
  | .vdot2 _ y => okDot y [1, 5, 8, 9]
  | .vdot4 _ y => okDot y [0, 4, 12, 13]
  | .vand _ y | .vor _ y | .vxor _ y | .vandn _ y => okV2 y (tW y.ty)
  | .vclz _ y | .vpopc _ y => okV1 y (tIN y.ty)
  | .vcmpCc _ y => okVcmp y
  | .vsel _ y => okVselect y true
  | .mand _ y | .mor _ y | .mxor _ y => okMask y true
  | .mnot _ y => okMask y false
  | .mpopc _ y | .mfirst _ y => okMcount y
  | .vred _ y => okRed y 5
  | .vscan _ y => okRed y 2
  | .vperm _ y => okVperm y
  | .vrot _ y => okVscalar y true
  | .vbcast _ y => okVscalar y false
  | .vins _ y => okVindex y true
  | .vext _ y => okVindex y false
  | .vcomp _ y | .vexpd _ y => okVselect y false
  | .viota _ y => okViota y
  | .vzip _ y | .vunzip _ y => okVzip y
  | .vcvt _ y => okVcvt y
  | .vnarrow _ y => okVnarrow y
  | .vwiden _ y => okVwiden y
  | .vscale _ y | .vdiv _ y => okVscale y
  | .vclass _ y => okV1 y (tF y.ty)
  | .vrcp _ y | .vrsq _ y | .vsqrt _ y => okVfun y (tF y.ty)
  | .vexp2 _ y | .vlog2 _ y | .vtanh _ y => okVfun y (tF3 y.ty)
  | .vmov _ y => okV1 y (tW y.ty)
  | .vli _ y => okVli y
  | .mcall y => okM0 y (y.im 23 13 == 0)
  | .mlds y => okM1 y (mFmt y.ty && y.im 19 16 ≤ 3 && y.im 15 0 == 0)
  | .mswp y | .mradv y => okM0 y (y.imm == 0)
  | .mpw y => okM1 y (y.im 23 3 == 0)
  | .mshape y => okM0 y (y.im 23 4 == 0 && y.im 3 0 != 0)
  | .mring y => okM0 y (y.im 23 6 == 0 && 2 ≤ y.im 4 0 && y.im 4 0 ≤ 16)
  | .epcfg y => okEpcfg y
  | .eprun y => okM1 y (y.im 23 6 == 0)
  | .mchkr y => okMchkr y
  | .mupld y => okM2 y (y.im 23 17 == 0)
  | .mflush y => okM0 y (y.im 23 7 == 0 && !y.imm.getLsbD 0)
  | .mflushDrop y => okM0 y (y.im 23 7 == 0 && y.imm.getLsbD 0)
  | .ld y => okLd y false
  | .lda y => okLd y true
  | .vld y => okVld y
  | .vlds y => okVlds y
  | .vldx y => okVldx y
  | .vldt y => okVldt y
  | .ldn y => okLdn y
  | .pft y => okPft y
  | .vldb y => okVldb y
  | .st y => okSt y false
  | .stl y => okSt y true
  | .vst y => okVst y
  | .vsts y => okVsts y
  | .vstx y => okVstx y
  | .defer y | .resolve y => okDefer y
  | .clrt y => okClrt y
  | .stnt y => okStnt y
  | .cpy y | .cpyg y => okCpy y
  | .shw y => okY y && y.dst == 0 && selA y.srca && y.srcb == 0 && y.im 23 5 == 0
  | .shwi y => okBare y (y.im 23 22 == 0)
  | .chwm y => okY y && dstA y.dst && y.srca == 0 && y.srcb == 0 && y.im 23 3 == 0
  | .chcfg y => okY y && y.dst == 0 && selA y.srca && selA y.srcb && y.im 23 4 == 0
  | .sopen y => okAd y (aReg y.srca && selA y.srcb && y.im 23 1 == 0)
  | .pub y => okAd y (aReg y.srca && y.srcb == 0 && y.im 23 23 == 0 && y.im 20 0 == 0)
  | .sdrop y => okAd y (aReg y.srca && y.srcb == 0 && y.imm == 0)
  | .vdec y => okAd y (aReg y.srca && y.srcb == 0 && y.im 23 7 == 0)
  | .rhnew y => okAd y (selA y.srca && selA y.srcb && y.im 23 3 == 0)
  | .rhset y => okAd y (selA y.srca && y.srcb == 0 && y.im 23 7 == 0 && y.im 3 0 ≤ 6)
  | .evpop y => okY y && dstA y.dst && y.srca == 0 && y.srcb == 0 && y.imm == 0
  | .bufn y => okBare y (y.im 23 6 == 0)
  | .ali y => okAI y && y.srca == 0
  | .alim y | .aaddi y | .aandi y => okAI y
  | .alit y => okAI y && y.im 23 16 == 0
  | .aadd y | .asub y | .amul y | .amin y | .amax y => okA2 y
  | .ashli y | .ashri y => okAI y && y.im 23 6 == 0
  | .acmpCc y => okAcmp y
  | .amovq y => okAI y && y.srca == 0 && y.imm == 0
  | .aq y => okY y && dstLq y.dst && selA y.srca && y.srcb == 0 && y.imm == 0
  | .kset y => okKset y
  | .loop y => okLoop y
  | .binit y => okBinit y
  | .barv y => okBarv y
  | .barvRemote y => okBarvRemote y
  | .bwait y => okBwait y
  | .btest y => okBtest y
  | .fence y => okFence y
  | .drain y => okDrain y
  | .amo y => okAmo y
  | .cas y => okCas y
  | .bank y => okBank y
  | .rres y => okRres y
  | .rpub y => okRpub y
  | .spawn y => okY y && y.dst == 0 && aReg y.srca && selA y.srcb && y.im 23 5 == 0 && y.im 4 0 ≤ 24
  | .tlaunch y => okAd y (aReg y.srca && y.srcb == 0 && y.imm == 0)
  | .twait y => okAd y (aReg y.srca && y.srcb == 0 && y.imm == 0)
  | .tstat y => okAd y (aReg y.srca && y.srcb == 0 && y.imm == 0)
  | .spalloc y => okAd y (selA y.srca && y.srcb == 0 && y.im 23 4 == 0)
  | .spfree y => okBare y (y.im 23 4 == 0)
  | .yield y => okBare y (y.imm == 0)
  | .sege y => okBare y (y.imm == 0)
  | .rdv y => okBare y (y.im 23 4 == 0)
  | .fuse y => okBare y (y.im 23 2 == 0 && (y.im 1 0 == 1 || y.im 1 0 == 2))
  | .decpl y => okBare y (y.imm == 0)
  | .rejoin y => okBare y (y.imm == 0)
  | .glaunch y => okAd y (aReg y.srca && aReg y.srcb && y.imm == 0)
  | .gcommit y => okAd y (aReg y.srca && y.srcb == 0 && y.im 23 1 == 0)
  | .winw y => okAd y (aReg y.srca && y.srcb == 0 && y.im 23 4 == 0)
  | .ringvoid y => okY y && dstA y.dst && aReg y.srca && selA y.srcb && y.imm == 0
  | .gswap y => okAd y (y.srca == 0 && y.srcb == 0 && y.imm == 0)
  -- micro-ops: the ranges of R188
  | .strm _ _ _ f s _ => mFmt f.toNat && s.toNat ≤ 3
  | .strc d _ _ _ _ s => d.toNat ≤ 5 && s.toNat ≤ 3
  | .lst _ f s => mFmt f.toNat && s.toNat ≤ 3
  | .arrb _ c => c != 0
  | .lp c => c != 0
  -- everything else has no field that could be illegal: the events' arguments name units
  | _ => true

end Machine
end Sys2Proof
end

