-- ==== Sys2Proof/WellFormed.lean ====
section
/-!
DEFINITION. Well-formed instructions: what the spec's encoding tables admit (R53). The checks themselves stand in
Machine/Legal.lean; a syllable that fails them traps with ILLOP (R62), a micro-op that fails them is never accepted into
a routine (R187).
-/
namespace Sys2Proof

/-- The instruction is one that the encoding tables admit. -/
def Instr.wf (i : Instr) : Bool := Machine.legal i

end Sys2Proof
end

