-- ==== Sys2Proof/Decode.lean ====
section
/-!
DEFINITION. The decoder: syllables (R52, R53, R68, R71–R76), micro-ops (R77 and the table's fields), bundles (R54–R56),
each total and rejecting by name; after it the encoder, written from the same layouts.
-/
namespace Sys2Proof

/-- Why bits are no instruction. -/
inductive DecodeErr where
  /-- the slot's map lists no such opcode (R71–R76): the syllable traps with ILLOP at its slot -/
  | opcode (slot opc : Nat)
  /-- micro-opcode 0xE or 0xF, or a nonzero reserved bit (R77) -/
  | micro (w : BitVec 32)
  deriving DecidableEq, Repr

/-- A field of a word: `n` bits from bit `lo` (R52). -/
def Word.part (w : Word) (lo n : Nat) : BitVec n := w.extractLsb' lo n

/-- The fields of R52 between OPC and the end, and GUARD. -/
def Syl.ofWord (w : Word) : Syl := ⟨w.part 56 4, w.part 40 8, w.part 32 8, w.part 24 8, w.part 0 24⟩

/-- The fields of R68. -/
def PairSyl.ofWord (w : Word) : PairSyl :=
  ⟨w.part 56 4, w.part 48 6, w.part 42 6, w.part 35 7, w.part 27 8, w.part 21 6, w.part 15 6, w.part 8 7, w.part 0 8⟩

/-- The map of the X slot (R71), pair syllables apart. -/
def opX (opc : Nat) (y : Syl) : Option Instr :=
  match opc with
  | 0x00 => some (.add y)
  | 0x01 => some (.sub y)
  | 0x02 => some (.mul y)
  | 0x03 => some (.mulhi y)
  | 0x04 => some (.mulhn y)
  | 0x05 => some (.div y)
  | 0x06 => some (.divn y)
  | 0x07 => some (.rem y)
  | 0x08 => some (.remn y)
  | 0x09 => some (.and y)
  | 0x0A => some (.or y)
  | 0x0B => some (.xor y)
  | 0x0C => some (.andn y)
  | 0x0D => some (.shl y)
  | 0x0E => some (.shr y)
  | 0x0F => some (.sra y)
  | 0x10 => some (.rot y)
  | 0x11 => some (.min y)
  | 0x12 => some (.max y)
  | 0x13 => some (.minn y)
  | 0x14 => some (.maxn y)
  | 0x15 => some (.clz y)
  | 0x16 => some (.ctz y)
  | 0x17 => some (.popc y)
  | 0x18 => some (.extr y)
  | 0x19 => some (.ins y)
  | 0x1A => some (.sel y)
  | 0x1B => some (.cmpCc y)
  | 0x20 => some (.addi y)
  | 0x21 => some (.li y)
  | 0x22 => some (.lim y)
  | 0x23 => some (.lit y)
  | 0x24 => some (.andi y)
  | 0x25 => some (.ori y)
  | 0x26 => some (.xori y)
  | 0x40 => some (.br y)
  | 0x41 => some (.call y)
  | 0x42 => some (.ret y)
  | 0x43 => some (.jr y)
  | 0x44 => some (.trap y)
  | 0x45 => some (.svc y)
  | 0x46 => some (.eret y)
  | 0x47 => some (.endStep y)
  | 0x48 => some (.nop y)
  | 0x60 => some (.csrr y)
  | 0x61 => some (.csrw y)
  | 0x62 => some (.csrs y)
  | 0x63 => some (.csrc y)
  | 0x64 => some (.time y)
  | 0x65 => some (.cyc y)
  | 0x66 => some (.rndw y)
  | 0x67 => some (.hint y)
  | _ => none

/-- The map of the V0 and V1 slots (R72); `hi` in V1. -/
def opV (opc : Nat) (hi : Bool) (y : Syl) : Option Instr :=
  match opc with
  | 0x00 => some (.vadd hi y)
  | 0x01 => some (.vsub hi y)
  | 0x02 => some (.vmul hi y)
  | 0x03 => some (.vfma hi y)
  | 0x04 => some (.vfms hi y)
  | 0x05 => some (.vmin hi y)
  | 0x06 => some (.vmax hi y)
  | 0x07 => some (.vabs hi y)
  | 0x08 => some (.vneg hi y)
  | 0x09 => some (.vadds hi y)
  | 0x0A => some (.vsubs hi y)
  | 0x0B => some (.vmulh hi y)
  | 0x0C => some (.vdot2 hi y)
  | 0x0D => some (.vdot4 hi y)
  | 0x10 => some (.vand hi y)
  | 0x11 => some (.vor hi y)
  | 0x12 => some (.vxor hi y)
  | 0x13 => some (.vandn hi y)
  | 0x14 => some (.vshl hi y)
  | 0x15 => some (.vshr hi y)
  | 0x16 => some (.vsra hi y)
  | 0x17 => some (.vclz hi y)
  | 0x18 => some (.vpopc hi y)
  | 0x20 => some (.vcmpCc hi y)
  | 0x21 => some (.vsel hi y)
  | 0x28 => some (.mand hi y)
  | 0x29 => some (.mor hi y)
  | 0x2A => some (.mxor hi y)
  | 0x2B => some (.mnot hi y)
  | 0x2C => some (.mpopc hi y)
  | 0x2D => some (.mfirst hi y)
  | 0x30 => some (.vred hi y)
  | 0x31 => some (.vscan hi y)
  | 0x32 => some (.vperm hi y)
  | 0x33 => some (.vrot hi y)
  | 0x34 => some (.vbcast hi y)
  | 0x35 => some (.vins hi y)
  | 0x36 => some (.vext hi y)
  | 0x37 => some (.vcomp hi y)
  | 0x38 => some (.vexpd hi y)
  | 0x39 => some (.viota hi y)
  | 0x3A => some (.vzip hi y)
  | 0x3B => some (.vunzip hi y)
  | 0x40 => some (.vcvt hi y)
  | 0x41 => some (.vnarrow hi y)
  | 0x42 => some (.vwiden hi y)
  | 0x43 => some (.vscale hi y)
  | 0x44 => some (.vclass hi y)
  | 0x48 => some (.vrcp hi y)
  | 0x49 => some (.vrsq hi y)
  | 0x4A => some (.vexp2 hi y)
  | 0x4B => some (.vlog2 hi y)
  | 0x4C => some (.vtanh hi y)
  | 0x4D => some (.vdiv hi y)
  | 0x4E => some (.vsqrt hi y)
  | 0x50 => some (.vmov hi y)
  | 0x51 => some (.vli hi y)
  | _ => none

/-- The map of the M slot (R73); MFLUSH with DROP is a row of its own (R190). -/
def opM (opc : Nat) (y : Syl) : Option Instr :=
  match opc with
  | 0x00 => some (.mcall y)
  | 0x01 => some (.mlds y)
  | 0x02 => some (.mswp y)
  | 0x03 => some (.mpw y)
  | 0x04 => some (.mshape y)
  | 0x05 => some (.mring y)
  | 0x06 => some (.mradv y)
  | 0x07 => some (.epcfg y)
  | 0x08 => some (.eprun y)
  | 0x09 => some (.mchkr y)
  | 0x0A => some (.mupld y)
  | 0x0B => if y.imm.getLsbD 0 then some (.mflushDrop y) else some (.mflush y)
  | _ => none

/-- The map of the L slot (R74). -/
def opL (opc : Nat) (y : Syl) : Option Instr :=
  match opc with
  | 0x00 => some (.ld y)
  | 0x02 => some (.vld y)
  | 0x03 => some (.vlds y)
  | 0x04 => some (.vldx y)
  | 0x05 => some (.vldt y)
  | 0x06 => some (.lda y)
  | 0x07 => some (.ldn y)
  | 0x08 => some (.pft y)
  | 0x09 => some (.vldb y)
  | _ => none

/-- The map of the S slot (R74). -/
def opS (opc : Nat) (y : Syl) : Option Instr :=
  match opc with
  | 0x00 => some (.st y)
  | 0x02 => some (.vst y)
  | 0x03 => some (.vsts y)
  | 0x04 => some (.vstx y)
  | 0x05 => some (.stl y)
  | 0x06 => some (.defer y)
  | 0x07 => some (.resolve y)
  | 0x08 => some (.clrt y)
  | 0x09 => some (.stnt y)
  | _ => none

/-- The map of the C slot (R75). -/
def opC (opc : Nat) (y : Syl) : Option Instr :=
  match opc with
  | 0x00 => some (.cpy y)
  | 0x01 => some (.cpyg y)
  | 0x02 => some (.shw y)
  | 0x03 => some (.shwi y)
  | 0x04 => some (.chwm y)
  | 0x05 => some (.chcfg y)
  | 0x06 => some (.sopen y)
  | 0x07 => some (.pub y)
  | 0x08 => some (.sdrop y)
  | 0x09 => some (.vdec y)
  | 0x0A => some (.rhnew y)
  | 0x0B => some (.rhset y)
  | 0x0C => some (.evpop y)
  | 0x0D => some (.bufn y)
  | _ => none

/-- The map of the Y slot (R76); BARV with R = 1 is a row of its own (R246). -/
def opY (opc : Nat) (y : Syl) : Option Instr :=
  match opc with
  | 0x00 => some (.ali y)
  | 0x01 => some (.alim y)
  | 0x02 => some (.alit y)
  | 0x03 => some (.aadd y)
  | 0x04 => some (.asub y)
  | 0x05 => some (.aaddi y)
  | 0x06 => some (.ashli y)
  | 0x07 => some (.ashri y)
  | 0x08 => some (.aandi y)
  | 0x09 => some (.amul y)
  | 0x0A => some (.amin y)
  | 0x0B => some (.amax y)
  | 0x0C => some (.acmpCc y)
  | 0x0D => some (.amovq y)
  | 0x0E => some (.aq y)
  | 0x10 => some (.kset y)
  | 0x11 => some (.loop y)
  | 0x18 => some (.binit y)
  | 0x19 => if y.imm.getLsbD 10 then some (.barvRemote y) else some (.barv y)
  | 0x1A => some (.bwait y)
  | 0x1B => some (.btest y)
  | 0x20 => some (.fence y)
  | 0x21 => some (.drain y)
  | 0x22 => some (.amo y)
  | 0x23 => some (.cas y)
  | 0x24 => some (.bank y)
  | 0x25 => some (.rres y)
  | 0x26 => some (.rpub y)
  | 0x30 => some (.spawn y)
  | 0x31 => some (.tlaunch y)
  | 0x32 => some (.twait y)
  | 0x33 => some (.tstat y)
  | 0x34 => some (.spalloc y)
  | 0x35 => some (.spfree y)
  | 0x36 => some (.yield y)
  | 0x38 => some (.sege y)
  | 0x39 => some (.rdv y)
  | 0x3C => some (.fuse y)
  | 0x3D => some (.decpl y)
  | 0x3E => some (.rejoin y)
  | 0x40 => some (.glaunch y)
  | 0x41 => some (.gcommit y)
  | 0x60 => some (.winw y)
  | 0x61 => some (.ringvoid y)
  | 0x62 => some (.gswap y)
  | _ => none

/-- The instruction of a syllable word, whatever its STOP bit (R52, R68, R71–R76). -/
def decodeSyllable (w : Word) : Except DecodeErr Instr :=
  let slot := (w.part 60 3).toNat
  let opc := (w.part 48 8).toNat
  let y := Syl.ofWord w
  let r := match slot with
    | 0 => if 0xC0 ≤ opc then some (.pair (PairSyl.ofWord w)) else opX opc y
    | 1 => opV opc false y
    | 2 => opV opc true y
    | 3 => opM opc y
    | 4 => opL opc y
    | 5 => opS opc y
    | 6 => opC opc y
    | _ => opY opc y
  match r with
  | some i => .ok i
  | none => .error (.opcode slot opc)

/-- A field of a micro-op word. -/
def mpart (w : BitVec 32) (lo n : Nat) : BitVec n := w.extractLsb' lo n

/-- The micro-op of a word (R77, R173–R189): the first row whose fixed bits it has. -/
def decodeMicro (w : BitVec 32) : Except DecodeErr Instr :=
  if w &&& 0xF0000000 = 0x00000000 then .ok (.strm (mpart w 25 3) (mpart w 20 5) (mpart w 15 5) (mpart w 11 4) (mpart w 7 4) (mpart w 0 7)) else
  if w &&& 0xF0000007 = 0x10000000 then .ok (.strc (mpart w 25 3) (mpart w 20 5) (mpart w 15 5) (mpart w 11 4) (mpart w 7 4) (mpart w 3 4)) else
  if w &&& 0xF001FFFF = 0x20000000 then .ok (.lst (mpart w 25 3) (mpart w 21 4) (mpart w 17 4)) else
  if w &&& 0xFFFFFFFF = 0x30000000 then .ok (.swp) else
  if w &&& 0xFFFFFFFF = 0x40000000 then .ok (.adv) else
  if w &&& 0xFFFFFFFF = 0x50000000 then .ok (.zero) else
  if w &&& 0xF03FFFFF = 0x60000000 then .ok (.waitb (mpart w 23 5) (mpart w 22 1)) else
  if w &&& 0xF0000000 = 0x70000000 then .ok (.arrb (mpart w 23 5) (mpart w 0 23)) else
  if w &&& 0xFFFF0000 = 0x80000000 then .ok (.lp (mpart w 0 16)) else
  if w &&& 0xF8FFFFFF = 0x88000000 then .ok (.lpReg (mpart w 24 3)) else
  if w &&& 0xFFFFFFFF = 0x90000000 then .ok (.el) else
  if w &&& 0xF0000000 = 0xA0000000 then .ok (.ainc (mpart w 25 3) (mpart w 20 5) (mpart w 0 20)) else
  if w &&& 0xF7FFFFFF = 0xB0000000 then .ok (.chk (mpart w 27 1)) else
  if w &&& 0xFFFFFFFF = 0xC0000000 then .ok (.nopm) else
  if w &&& 0xFFFFFFFF = 0xD0000000 then .ok (.retm) else
  .error (.micro w)

/-! ## Bundles (R54–R56) -/

/-- What lies at a bundle address. -/
inductive BundleAt where
  /-- the syllables in slot order, each with its instruction or none where its opcode is illegal -/
  | ok (syls : List (Nat × Option Instr))
  /-- a bundle-form fault (R56) -/
  | malformed
  /-- word `n` of the bundle lies in a line that has not been fetched (R57) -/
  | missing (n : Nat)
  deriving DecidableEq, Repr

/-- decode_bundle of R55 from its `n`th syllable on: `last` is the last tag plus one, `pair` as there, `fuel` the
syllables that may still come. -/
def decodeFrom (word : Nat → Option Word) : Nat → Nat → Nat → Bool → List (Nat × Option Instr) → BundleAt
  | 0, _, _, _, _ => .malformed
  | fuel + 1, n, last, pair, acc =>
    match word n with
    | none => .missing n
    | some w =>
      let tag := (w.part 60 3).toNat
      if tag < last then .malformed
      else if pair && tag == 1 then .malformed
      else
        let pair := pair || (tag == 0 && (w.part 54 2) == 0b11)
        let acc := acc ++ [(tag, (decodeSyllable w).toOption)]
        if w.getLsbD 63 then .ok acc
        else if tag = 7 then .malformed
        else decodeFrom word fuel (n + 1) (tag + 1) pair acc

/-- The bundle whose `n`th 64-bit word is `word n` (R55). -/
def decodeBundle (word : Nat → Option Word) : BundleAt := decodeFrom word 8 0 0 false []

/-- The instruction of a table row's bits, first word lowest: 32 bits are a micro-op, 64 a syllable. -/
def decodeTableWord (nbits w : Nat) : Option Instr :=
  if nbits ≤ 32 then (decodeMicro (BitVec.ofNat 32 w)).toOption
  else (decodeSyllable (BitVec.ofNat 64 w)).toOption

/-! ## The encoder -/

/-- The slot and the OPC of a syllable's constructor (R71–R76); none for a pair syllable, a micro-op and an event. -/
def Instr.slotOpc : Instr → Option (Nat × Nat × Syl)
  | .add y => some (0, 0x00, y)
  | .sub y => some (0, 0x01, y)
  | .mul y => some (0, 0x02, y)
  | .mulhi y => some (0, 0x03, y)
  | .mulhn y => some (0, 0x04, y)
  | .div y => some (0, 0x05, y)
  | .divn y => some (0, 0x06, y)
  | .rem y => some (0, 0x07, y)
  | .remn y => some (0, 0x08, y)
  | .and y => some (0, 0x09, y)
  | .or y => some (0, 0x0A, y)
  | .xor y => some (0, 0x0B, y)
  | .andn y => some (0, 0x0C, y)
  | .shl y => some (0, 0x0D, y)
  | .shr y => some (0, 0x0E, y)
  | .sra y => some (0, 0x0F, y)
  | .rot y => some (0, 0x10, y)
  | .min y => some (0, 0x11, y)
  | .max y => some (0, 0x12, y)
  | .minn y => some (0, 0x13, y)
  | .maxn y => some (0, 0x14, y)
  | .clz y => some (0, 0x15, y)
  | .ctz y => some (0, 0x16, y)
  | .popc y => some (0, 0x17, y)
  | .extr y => some (0, 0x18, y)
  | .ins y => some (0, 0x19, y)
  | .sel y => some (0, 0x1A, y)
  | .cmpCc y => some (0, 0x1B, y)
  | .addi y => some (0, 0x20, y)
  | .li y => some (0, 0x21, y)
  | .lim y => some (0, 0x22, y)
  | .lit y => some (0, 0x23, y)
  | .andi y => some (0, 0x24, y)
  | .ori y => some (0, 0x25, y)
  | .xori y => some (0, 0x26, y)
  | .br y => some (0, 0x40, y)
  | .call y => some (0, 0x41, y)
  | .ret y => some (0, 0x42, y)
  | .jr y => some (0, 0x43, y)
  | .trap y => some (0, 0x44, y)
  | .svc y => some (0, 0x45, y)
  | .eret y => some (0, 0x46, y)
  | .endStep y => some (0, 0x47, y)
  | .nop y => some (0, 0x48, y)
  | .csrr y => some (0, 0x60, y)
  | .csrw y => some (0, 0x61, y)
  | .csrs y => some (0, 0x62, y)
  | .csrc y => some (0, 0x63, y)
  | .time y => some (0, 0x64, y)
  | .cyc y => some (0, 0x65, y)
  | .rndw y => some (0, 0x66, y)
  | .hint y => some (0, 0x67, y)
  | .pair _ => none
  | .vadd hi y => some (if hi then 2 else 1, 0x00, y)
  | .vsub hi y => some (if hi then 2 else 1, 0x01, y)
  | .vmul hi y => some (if hi then 2 else 1, 0x02, y)
  | .vfma hi y => some (if hi then 2 else 1, 0x03, y)
  | .vfms hi y => some (if hi then 2 else 1, 0x04, y)
  | .vmin hi y => some (if hi then 2 else 1, 0x05, y)
  | .vmax hi y => some (if hi then 2 else 1, 0x06, y)
  | .vabs hi y => some (if hi then 2 else 1, 0x07, y)
  | .vneg hi y => some (if hi then 2 else 1, 0x08, y)
  | .vadds hi y => some (if hi then 2 else 1, 0x09, y)
  | .vsubs hi y => some (if hi then 2 else 1, 0x0A, y)
  | .vmulh hi y => some (if hi then 2 else 1, 0x0B, y)
  | .vdot2 hi y => some (if hi then 2 else 1, 0x0C, y)
  | .vdot4 hi y => some (if hi then 2 else 1, 0x0D, y)
  | .vand hi y => some (if hi then 2 else 1, 0x10, y)
  | .vor hi y => some (if hi then 2 else 1, 0x11, y)
  | .vxor hi y => some (if hi then 2 else 1, 0x12, y)
  | .vandn hi y => some (if hi then 2 else 1, 0x13, y)
  | .vshl hi y => some (if hi then 2 else 1, 0x14, y)
  | .vshr hi y => some (if hi then 2 else 1, 0x15, y)
  | .vsra hi y => some (if hi then 2 else 1, 0x16, y)
  | .vclz hi y => some (if hi then 2 else 1, 0x17, y)
  | .vpopc hi y => some (if hi then 2 else 1, 0x18, y)
  | .vcmpCc hi y => some (if hi then 2 else 1, 0x20, y)
  | .vsel hi y => some (if hi then 2 else 1, 0x21, y)
  | .mand hi y => some (if hi then 2 else 1, 0x28, y)
  | .mor hi y => some (if hi then 2 else 1, 0x29, y)
  | .mxor hi y => some (if hi then 2 else 1, 0x2A, y)
  | .mnot hi y => some (if hi then 2 else 1, 0x2B, y)
  | .mpopc hi y => some (if hi then 2 else 1, 0x2C, y)
  | .mfirst hi y => some (if hi then 2 else 1, 0x2D, y)
  | .vred hi y => some (if hi then 2 else 1, 0x30, y)
  | .vscan hi y => some (if hi then 2 else 1, 0x31, y)
  | .vperm hi y => some (if hi then 2 else 1, 0x32, y)
  | .vrot hi y => some (if hi then 2 else 1, 0x33, y)
  | .vbcast hi y => some (if hi then 2 else 1, 0x34, y)
  | .vins hi y => some (if hi then 2 else 1, 0x35, y)
  | .vext hi y => some (if hi then 2 else 1, 0x36, y)
  | .vcomp hi y => some (if hi then 2 else 1, 0x37, y)
  | .vexpd hi y => some (if hi then 2 else 1, 0x38, y)
  | .viota hi y => some (if hi then 2 else 1, 0x39, y)
  | .vzip hi y => some (if hi then 2 else 1, 0x3A, y)
  | .vunzip hi y => some (if hi then 2 else 1, 0x3B, y)
  | .vcvt hi y => some (if hi then 2 else 1, 0x40, y)
  | .vnarrow hi y => some (if hi then 2 else 1, 0x41, y)
  | .vwiden hi y => some (if hi then 2 else 1, 0x42, y)
  | .vscale hi y => some (if hi then 2 else 1, 0x43, y)
  | .vclass hi y => some (if hi then 2 else 1, 0x44, y)
  | .vrcp hi y => some (if hi then 2 else 1, 0x48, y)
  | .vrsq hi y => some (if hi then 2 else 1, 0x49, y)
  | .vexp2 hi y => some (if hi then 2 else 1, 0x4A, y)
  | .vlog2 hi y => some (if hi then 2 else 1, 0x4B, y)
  | .vtanh hi y => some (if hi then 2 else 1, 0x4C, y)
  | .vdiv hi y => some (if hi then 2 else 1, 0x4D, y)
  | .vsqrt hi y => some (if hi then 2 else 1, 0x4E, y)
  | .vmov hi y => some (if hi then 2 else 1, 0x50, y)
  | .vli hi y => some (if hi then 2 else 1, 0x51, y)
  | .mcall y => some (3, 0x00, y)
  | .mlds y => some (3, 0x01, y)
  | .mswp y => some (3, 0x02, y)
  | .mpw y => some (3, 0x03, y)
  | .mshape y => some (3, 0x04, y)
  | .mring y => some (3, 0x05, y)
  | .mradv y => some (3, 0x06, y)
  | .epcfg y => some (3, 0x07, y)
  | .eprun y => some (3, 0x08, y)
  | .mchkr y => some (3, 0x09, y)
  | .mupld y => some (3, 0x0A, y)
  | .mflush y => some (3, 0x0B, y)
  | .mflushDrop y => some (3, 0x0B, y)
  | .ld y => some (4, 0x00, y)
  | .vld y => some (4, 0x02, y)
  | .vlds y => some (4, 0x03, y)
  | .vldx y => some (4, 0x04, y)
  | .vldt y => some (4, 0x05, y)
  | .lda y => some (4, 0x06, y)
  | .ldn y => some (4, 0x07, y)
  | .pft y => some (4, 0x08, y)
  | .vldb y => some (4, 0x09, y)
  | .st y => some (5, 0x00, y)
  | .vst y => some (5, 0x02, y)
  | .vsts y => some (5, 0x03, y)
  | .vstx y => some (5, 0x04, y)
  | .stl y => some (5, 0x05, y)
  | .defer y => some (5, 0x06, y)
  | .resolve y => some (5, 0x07, y)
  | .clrt y => some (5, 0x08, y)
  | .stnt y => some (5, 0x09, y)
  | .cpy y => some (6, 0x00, y)
  | .cpyg y => some (6, 0x01, y)
  | .shw y => some (6, 0x02, y)
  | .shwi y => some (6, 0x03, y)
  | .chwm y => some (6, 0x04, y)
  | .chcfg y => some (6, 0x05, y)
  | .sopen y => some (6, 0x06, y)
  | .pub y => some (6, 0x07, y)
  | .sdrop y => some (6, 0x08, y)
  | .vdec y => some (6, 0x09, y)
  | .rhnew y => some (6, 0x0A, y)
  | .rhset y => some (6, 0x0B, y)
  | .evpop y => some (6, 0x0C, y)
  | .bufn y => some (6, 0x0D, y)
  | .ali y => some (7, 0x00, y)
  | .alim y => some (7, 0x01, y)
  | .alit y => some (7, 0x02, y)
  | .aadd y => some (7, 0x03, y)
  | .asub y => some (7, 0x04, y)
  | .aaddi y => some (7, 0x05, y)
  | .ashli y => some (7, 0x06, y)
  | .ashri y => some (7, 0x07, y)
  | .aandi y => some (7, 0x08, y)
  | .amul y => some (7, 0x09, y)
  | .amin y => some (7, 0x0A, y)
  | .amax y => some (7, 0x0B, y)
  | .acmpCc y => some (7, 0x0C, y)
  | .amovq y => some (7, 0x0D, y)
  | .aq y => some (7, 0x0E, y)
  | .kset y => some (7, 0x10, y)
  | .loop y => some (7, 0x11, y)
  | .binit y => some (7, 0x18, y)
  | .barv y => some (7, 0x19, y)
  | .barvRemote y => some (7, 0x19, y)
  | .bwait y => some (7, 0x1A, y)
  | .btest y => some (7, 0x1B, y)
  | .fence y => some (7, 0x20, y)
  | .drain y => some (7, 0x21, y)
  | .amo y => some (7, 0x22, y)
  | .cas y => some (7, 0x23, y)
  | .bank y => some (7, 0x24, y)
  | .rres y => some (7, 0x25, y)
  | .rpub y => some (7, 0x26, y)
  | .spawn y => some (7, 0x30, y)
  | .tlaunch y => some (7, 0x31, y)
  | .twait y => some (7, 0x32, y)
  | .tstat y => some (7, 0x33, y)
  | .spalloc y => some (7, 0x34, y)
  | .spfree y => some (7, 0x35, y)
  | .yield y => some (7, 0x36, y)
  | .sege y => some (7, 0x38, y)
  | .rdv y => some (7, 0x39, y)
  | .fuse y => some (7, 0x3C, y)
  | .decpl y => some (7, 0x3D, y)
  | .rejoin y => some (7, 0x3E, y)
  | .glaunch y => some (7, 0x40, y)
  | .gcommit y => some (7, 0x41, y)
  | .winw y => some (7, 0x60, y)
  | .ringvoid y => some (7, 0x61, y)
  | .gswap y => some (7, 0x62, y)
  | .strm _ _ _ _ _ _ => none
  | .strc _ _ _ _ _ _ => none
  | .lst _ _ _ => none
  | .swp => none
  | .adv => none
  | .zero => none
  | .waitb _ _ => none
  | .arrb _ _ => none
  | .lp _ => none
  | .lpReg _ => none
  | .el => none
  | .ainc _ _ _ => none
  | .chk _ => none
  | .nopm => none
  | .retm => none
  | .lineFetch _ _ => none
  | .fetchAhead _ _ => none
  | .resultLanding _ => none
  | .trapEntry _ => none
  | .groupSwitch _ => none
  | .rewind _ _ => none
  | .fusionJoin _ => none
  | .fusedEclipseTimeout _ => none
  | .arrayCommandStart _ => none
  | .mupldExec _ => none
  | .epilogueCommandStart _ => none
  | .epilogueRow _ => none
  | .bandGate _ _ => none
  | .bandPowerUp _ _ => none
  | .loadDataReturn _ _ => none
  | .remoteAccessPerform _ _ _ => none
  | .llcMissFill _ => none
  | .rhsetActionDone _ _ => none
  | .faultRecordWrite _ => none
  | .tokenFreeTake _ => none
  | .replay _ _ => none
  | .tlbinv _ _ => none
  | .tlbinvDone _ => none
  | .migcmdGo _ _ => none
  | .migrationPieceDone _ _ => none
  | .framepush _ _ => none
  | .frtailWrite _ _ => none
  | .cmsplitWrite _ _ => none
  | .cmsplitDone _ => none
  | .fwinEnable _ _ _ => none
  | .fwinDisable _ _ => none
  | .fwinFlush _ _ => none
  | .fwinBusyDone _ _ => none
  | .hotnessClear _ _ _ => none
  | .barrierArrival _ _ => none
  | .copyStart _ _ => none
  | .copyElement _ _ => none
  | .copyComplete _ _ => none
  | .shadowMergeDone _ _ => none
  | .vdecStart _ _ => none
  | .decodeFrame _ => none
  | .vdecComplete _ => none
  | .lrtailWrite _ _ => none
  | .launchRecordConsume _ => none
  | .overflowShareMove _ => none
  | .readinessRecheck _ => none
  | .readinessPoll _ => none
  | .schedulerTick _ => none
  | .stepStart _ => none
  | .groupEnd _ _ => none
  | .shareComplete _ => none
  | .allowExpiry _ => none
  | .abortSettle _ => none
  | .parentRestore _ => none
  | .firstTouch _ => none
  | .evaluatorRetry _ => none
  | .cellWake _ _ => none
  | .wakeMessage _ => none
  | .waitWatchdog _ _ => none
  | .ephSubmit => none
  | .ephVerdict => none
  | .utcoffWrite _ => none
  | .segmentChange => none
  | .curtailmentPark _ => none
  | .dieGate _ => none
  | .gradeLift => none
  | .dieUngate _ => none
  | .ballastTaper => none
  | .railSample => none
  | .allowanceRecompute => none
  | .perigeeReport => none
  | .leadTimeout => none
  | .trackingWindowEnd => none
  | .stallSample _ => none
  | .frequencySwitchDone _ => none
  | .voltageRampDone _ => none
  | .droopAlarm _ => none
  | .llcBankGate _ _ => none
  | .llcBankReenable _ _ => none
  | .ctxEnable _ _ => none
  | .ctxKill _ => none
  | .ctxKillDone _ => none
  | .ctxHalt _ _ => none
  | .gangSwitch _ => none
  | .slotRestore _ _ => none
  | .eccCorrected _ => none
  | .strongReencodeLine _ => none
  | .eccUncorrectable _ => none
  | .cleanRefetchDone _ _ => none
  | .scrubLine => none
  | .eclipseDealStop _ => none
  | .eclipseSlotStart _ => none
  | .scanPass _ => none
  | .scanFail _ => none
  | .confqQuery _ => none
  | .confqClear _ => none
  | .lifecmdGo _ => none
  | .lifeSnapshotDone => none
  | .hostMemAccess _ _ => none
  | .bar0Access _ _ => none
  | .regselWrite _ => none
  | .flitReceive _ _ => none
  | .laneShed _ => none
  | .laneRegain _ => none
  | .portDown _ => none
  | .portUp _ => none
  | .arm _ _ _ _ => none
  | .armOk _ _ => none
  | .armRefuse _ _ => none
  | .armTimeout _ => none
  | .disarm _ _ => none
  | .goWaitTimeout _ _ => none
  | .go _ _ _ => none
  | .gangStart _ _ => none
  | .goAck _ _ => none
  | .goTimeout _ => none
  | .gangbreak _ _ => none
  | .gangDone _ _ _ => none
  | .gangCommitMessage _ _ _ => none
  | .reset => none
  | .bootStageDone => none
  | .getMeasurements => none
  | .keyExchange _ => none
  | .vendorKeyUpdate _ => none
  | .registerWrite _ _ => none
  | .rbqRefill _ => none
  | .gcommitAck _ _ => none
  | .gcommitAckTimeout _ => none

/-- The word of a syllable from its fields (R52). -/
def sylWord (stop : Bool) (slot opc : Nat) (y : Syl) : Word :=
  BitVec.ofBool stop ++ BitVec.ofNat 3 slot ++ y.guard ++ BitVec.ofNat 8 opc ++ y.dst ++ y.srca ++ y.srcb ++ y.imm

/-- The word of a pair syllable from its fields (R68). -/
def pairWord (stop : Bool) (y : PairSyl) : Word :=
  BitVec.ofBool stop ++ 0#3 ++ y.guard ++ 0b11#2 ++ y.xop ++ y.xdst ++ y.xa ++ y.xb ++ y.vop ++ y.vdst ++ y.va ++ y.vb

/-- The syllable word of an instruction; none for a micro-op or an event, which no syllable encodes. -/
def encode (stop : Bool) (i : Instr) : Option Word :=
  match i with
  | .pair y => some (pairWord stop y)
  | i => match i.slotOpc with
    | some (slot, opc, y) => some (sylWord stop slot opc y)
    | none => none

/-- The word of a micro-op (R77); none for every other instruction. -/
def encodeMicro : Instr → Option (BitVec 32)
  | .strm a r w f s p => some (0#4 ++ a ++ r ++ w ++ f ++ s ++ p)
  | .strc d r w y x s => some (1#4 ++ d ++ r ++ w ++ y ++ x ++ s ++ 0#3)
  | .lst b f s => some (2#4 ++ b ++ f ++ s ++ 0#17)
  | .swp => some (805306368#32)
  | .adv => some (1073741824#32)
  | .zero => some (1342177280#32)
  | .waitb b p => some (6#4 ++ b ++ p ++ 0#22)
  | .arrb b c => some (7#4 ++ b ++ c)
  | .lp c => some (32768#16 ++ c)
  | .lpReg w => some (17#5 ++ w ++ 0#24)
  | .el => some (2415919104#32)
  | .ainc w h i => some (10#4 ++ w ++ h ++ i)
  | .chk e => some (11#4 ++ e ++ 0#27)
  | .nopm => some (3221225472#32)
  | .retm => some (3489660928#32)
  | _ => none

end Sys2Proof
end

