-- ==== Sys2Proof/Machine/Tab.lean ====
section
/-!
DEFINITION. Reading and writing a sparse table, and its one canonical form. Every register file, every memory and
every indexed unit of the device is held in such a table, so that the laws of Laws/Tab.lean serve them all.
-/
namespace Sys2Proof

/-- What key `k` holds: its entry, or the default `d`. -/
def Tab.get {α : Type} (d : α) : Tab α → Nat → α
  | [], _ => d
  | (j, x) :: t, k => if j = k then x else Tab.get d t k

/-- The table without key `k`. -/
def Tab.erase {α : Type} : Tab α → Nat → Tab α
  | [], _ => []
  | (j, x) :: t, k => if j = k then Tab.erase t k else (j, x) :: Tab.erase t k

/-- The table with the entry `(k, x)` put at its place in the rising order; `k` is not a key of the table. -/
def Tab.place {α : Type} : Tab α → Nat → α → Tab α
  | [], k, x => [(k, x)]
  | (j, y) :: t, k, x => if k < j then (k, x) :: (j, y) :: t else (j, y) :: Tab.place t k x

/-- Key `k` holds `x` from now on; holding the default means not being listed. -/
def Tab.set {α : Type} [DecidableEq α] (d : α) (t : Tab α) (k : Nat) (x : α) : Tab α :=
  if x = d then Tab.erase t k else Tab.place (Tab.erase t k) k x

/-- Key `k` holds `f` of what it held. -/
def Tab.modify {α : Type} [DecidableEq α] (d : α) (t : Tab α) (k : Nat) (f : α → α) : Tab α :=
  Tab.set d t k (f (Tab.get d t k))

/-- The canonical form: keys strictly rising and no entry equal to the default. -/
def Tab.wf {α : Type} [DecidableEq α] (d : α) : Tab α → Bool
  | [] => true
  | [(_, x)] => decide (x ≠ d)
  | (j, x) :: (k, y) :: t => decide (x ≠ d) && decide (j < k) && Tab.wf d ((k, y) :: t)

/-- The entries whose key satisfies `p` are dropped: their keys hold the default again. -/
def Tab.dropIf {α : Type} (p : Nat → Bool) (t : Tab α) : Tab α :=
  t.filter (fun e => !p e.1)

end Sys2Proof
end

