-- ==== Sys2Proof/Machine/Ops.lean ====
section
/-!
DEFINITION. The named operations over registers, queues, results in flight and bundles; what freezes a stream (R34);
taking a trap (R35, R37) and returning from it (R36).
-/
namespace Sys2Proof.Machine

/-! ## Cause codes (R12) -/

def ILLOP : BitVec 8 := 0x01
def PRIV : BitVec 8 := 0x02
def WINFAULT : BitVec 8 := 0x03
def PAGEFAIL : BitVec 8 := 0x05
def ALIGN : BitVec 8 := 0x06
def TAGFAULT : BitVec 8 := 0x07
def SPAWNBUSY : BitVec 8 := 0x08
def SELFDEP : BitVec 8 := 0x09
def CELLWR : BitVec 8 := 0x0A
def CELLFAIL : BitVec 8 := 0x0B
def CELLFMT : BitVec 8 := 0x0C
def WAITFULL : BitVec 8 := 0x0D
def DIVSTORE : BitVec 8 := 0x0E
def GRAIN : BitVec 8 := 0x0F
def EXHAUST : BitVec 8 := 0x10
def LATCHRUN : BitVec 8 := 0x11
def KILL : BitVec 8 := 0x12
def POISON : BitVec 8 := 0x13
def GANGBREAK : BitVec 8 := 0x14
def FETCHFAIL : BitVec 8 := 0x15
def TRAPC : BitVec 8 := 0x18
def SVCC : BitVec 8 := 0x19
def SHED : BitVec 8 := 0x1A
def DEPCYCLE : BitVec 8 := 0x1B
def GANG_INCOMPLETE : BitVec 8 := 0x1C
def SUSPECT : BitVec 8 := 0x1D

/-! ## Reaching the units -/

def State.core (s : State) (c : Nat) : Core := Tab.get {} s.cores c

def State.modCore (s : State) (c : Nat) (f : Core → Core) : State := { s with cores := Tab.modify {} s.cores c f }

def State.cluster (s : State) (c : Nat) : Cluster := Tab.get {} s.clusters c

def State.modCluster (s : State) (c : Nat) (f : Cluster → Cluster) : State :=
  { s with clusters := Tab.modify {} s.clusters c f }

def State.hdie (s : State) (h : Nat) : HDie := Tab.get {} s.hdies h

def State.modHdie (s : State) (h : Nat) (f : HDie → HDie) : State := { s with hdies := Tab.modify {} s.hdies h f }

def State.ctx (s : State) (x : Nat) : Ctx := Tab.get {} s.ctxs x

def State.modCtx (s : State) (x : Nat) (f : Ctx → Ctx) : State := { s with ctxs := Tab.modify {} s.ctxs x f }

def Core.bank (k : Core) (b : Bool) : Option Group := if b then k.bank1 else k.bank0

def Core.setBank (k : Core) (b : Bool) (g : Option Group) : Core :=
  if b then { k with bank1 := g } else { k with bank0 := g }

def State.bank (s : State) (c : Nat) (b : Bool) : Option Group := (s.core c).bank b

def State.setBank (s : State) (c : Nat) (b : Bool) (g : Option Group) : State := s.modCore c (·.setBank b g)

/-- The group of a bank, if it holds one, changed by `f`. -/
def State.modBank (s : State) (c : Nat) (b : Bool) (f : Group → Group) : State :=
  s.modCore c (fun k => k.setBank b ((k.bank b).map f))

/-- The front group of a core (R40). -/
def State.front (s : State) (c : Nat) : Option Group := s.bank c (s.core c).front

/-- The front group of the core whose syllable is under way. -/
def State.me (s : State) : Group := (s.front s.here.core).getD {}

/-- The group whose syllable is under way, changed by `f`. -/
def State.upd (f : Group → Group) (s : State) : State := s.modBank s.here.core (s.core s.here.core).front f

/-- The cluster of the syllable under way (R15). -/
def State.myCluster (s : State) : Nat := s.here.core / 4

def State.newId (s : State) : Nat × State := (s.fresh, { s with fresh := s.fresh + 1 })

/-- A share, a task by identifier. -/
def State.share (s : State) (i : Nat) : Option Share := s.shares.find? (fun x => x.id == i)

def State.modShare (s : State) (i : Nat) (f : Share → Share) : State :=
  { s with shares := s.shares.map (fun x => if x.id = i then f x else x) }

def State.task (s : State) (i : Nat) : Option Task := s.tasks.find? (fun x => x.id == i)

def State.modTask (s : State) (i : Nat) (f : Task → Task) : State :=
  { s with tasks := s.tasks.map (fun x => if x.id = i then f x else x) }

/-- The cores of a fusion of width code `fw` that core `c` belongs to (R48, R305). -/
def fusionSet (c : Nat) (fw : BitVec 2) : List Nat :=
  if fw = 2 then (upTo 4).map (fun k => 4 * (c / 4) + k) else [2 * (c / 2), 2 * (c / 2) + 1]

/-- The cores of the fused group that core `c` runs in, itself alone when it is not fused (R48). -/
def State.fusedSet (s : State) (c : Nat) : List Nat :=
  match s.front c with
  | none => [c]
  | some g => if g.gstat.fused then fusionSet c g.gstat.fwidth else [c]

/-- The cores that issue in lock-step with core `c`: a member in its trap handler runs alone (R48, R49). -/
def State.members (s : State) (c : Nat) : List Nat :=
  match s.front c with
  | none => [c]
  | some g => if g.gstat.valid then [c] else s.fusedSet c

def coresOf (cl : Nat) : List Nat := (upTo 4).map (4 * cl + ·)

/-- The core whose fetch buffer core `c` issues from: a fused group shares one (R58). -/
def State.fetcher (s : State) (c : Nat) : Nat := (s.members c).headD c

/-! ## Registers (R25) -/

def Group.rdA (g : Group) (n : Nat) : Word := Tab.get 0 g.a n

def Group.rdS (g : Group) (n : Nat) : Word := if n = 0 then 0 else Tab.get 0 g.s n

def Group.rdV (g : Group) (n : Nat) : VReg := Tab.get 0 g.v n

/-- m0 reads all ones (R25, R133). -/
def Group.rdM (g : Group) (n : Nat) : Mask := if n = 0 then BitVec.allOnes 256 else Tab.get 0 g.m n

/-- g0 reads all ones (R203). -/
def Group.rdG (g : Group) (n : Nat) : Word := if n = 0 then BitVec.allOnes 64 else Tab.get 0 g.g n

def Group.rdLt (g : Group) (n : Nat) : VReg := Tab.get 0 g.lt n

def Group.rdK (g : Group) (n : Nat) : BitVec 32 := Tab.get 0 g.k n

def Group.wrA (g : Group) (n : Nat) (w : Word) : Group := { g with a := Tab.set 0 g.a n w }

/-- A write to s0 is discarded (R24). -/
def Group.wrS (g : Group) (n : Nat) (w : Word) : Group := if n = 0 then g else { g with s := Tab.set 0 g.s n w }

def Group.wrV (g : Group) (n : Nat) (x : VReg) : Group := { g with v := Tab.set 0 g.v n x }

def Group.wrM (g : Group) (n : Nat) (x : Mask) : Group := if n = 0 then g else { g with m := Tab.set 0 g.m n x }

def Group.wrG (g : Group) (n : Nat) (w : Word) : Group := if n = 0 then g else { g with g := Tab.set 0 g.g n w }

def Group.wrK (g : Group) (n : Nat) (w : BitVec 32) : Group := { g with k := Tab.set 0 g.k n w }

/-! ## Queues (R26, R27) -/

/-- Queue numbers: lq0–lq3 are 0–3, sq0 and sq1 4 and 5, xq 6, iq 7. -/
def qDepth (q : Nat) : Nat := if q = 7 then 4 else 8

/-- The queue set in use (R35). -/
def Group.qs (g : Group) : QueueSet := if g.trapSel then g.tq else g.nq

def Group.setQs (g : Group) (x : QueueSet) : Group := if g.trapSel then { g with tq := x } else { g with nq := x }

def Group.queue (g : Group) (q : Nat) : List QEntry := Tab.get [] g.qs.q q

def Group.setQueue (g : Group) (q : Nat) (l : List QEntry) : Group :=
  g.setQs { g.qs with q := Tab.set [] g.qs.q q l }

/-- pop(q): the oldest entry, removed (R10). The bundle has been held until it is there (R27). -/
def Group.pop (g : Group) (q : Nat) : VReg × Group :=
  match g.queue q with
  | [] => (0, g)
  | e :: t => (e.data.getD 0, g.setQueue q t)

/-- The oldest entry left, not removed (R27). -/
def Group.peek (g : Group) (q : Nat) : VReg :=
  match g.queue q with
  | [] => 0
  | e :: _ => e.data.getD 0

/-- An entry reserved at the end of a queue, by its number (R27). -/
def Group.reserve (g : Group) (q : Nat) : Nat × Group :=
  (g.nextId, { g.setQueue q (g.queue q ++ [{ id := g.nextId, data := none }]) with nextId := g.nextId + 1 })

def fillEntry (id : Nat) (v : VReg) (l : List QEntry) : List QEntry :=
  l.map (fun e => if e.id = id then { e with data := some v } else e)

def QueueSet.fill (x : QueueSet) (q id : Nat) (v : VReg) : QueueSet :=
  { x with q := Tab.set [] x.q q (fillEntry id v (Tab.get [] x.q q)) }

/-- The data enters its reserved entry, of whichever queue set holds it (R27, R35). -/
def Group.fill (g : Group) (q id : Nat) (v : VReg) : Group :=
  { g with nq := g.nq.fill q id v, tq := g.tq.fill q id v }

/-- push(q, v) of a value that is there at once. -/
def Group.push (g : Group) (q : Nat) (v : VReg) : Group :=
  let (id, g) := g.reserve q
  g.fill q id v

/-! ## Results in flight (R31–R34) -/

/-- The latch of an execute slot (R33); none for M. -/
def latchOf (slot : Nat) : Option Nat := if slot ≤ 2 then some slot else none

/-- The bits that landing `f` leaves in its slot's latch: the merge with what the latch holds, or the mask register's new
value if any bit of it is written; lt0 is 64 bits wide (R33, R61, R89, R134, R136). -/
def landedLatch (base : Tab Mask) (f : Flight) (old : VReg) : VReg :=
  let v := match f.dst with
    | .mreg n => if f.en = 0 then old else
      (merge (f.en.setWidth 256) (f.val.setWidth 256)
        (if n = 0 then BitVec.allOnes 256 else Tab.get 0 base n)).setWidth 2048
    | _ => merge f.en f.val old
  if f.slot = 0 then zx (lo64 v) else v

/-- A result lands: `base` holds the m registers as they stood before the landings of this cycle (R33, R134, R136). Disabled
elements of a v register keep what it holds as the result lands, that of a lower slot in the same cycle among it: the rule gives
the base before the cycle for masks alone (log 129). -/
def Group.land (base : Tab Mask) (g : Group) (f : Flight) : Group :=
  let g := match latchOf f.slot with
    | none => g
    | some l =>
      { g with
        lt := Tab.set 0 g.lt l (landedLatch base f (g.rdLt l))
        live := if f.en = 0 then g.live else if f.nwb then g.live ||| BitVec.twoPow 3 l else g.live &&& ~~~ BitVec.twoPow 3 l }
  match f.dst with
  | .latch => g
  | .sreg n => g.wrS n (lo64 f.val)
  | .vreg n => g.wrV n (merge f.en f.val (g.rdV n))
  | .mreg n => g.wrM n (merge (f.en.setWidth 256) (f.val.setWidth 256) (Tab.get 0 base n))
  | .mpreg n => { g with mp := Tab.set 0 g.mp n (lo64 f.val) }
  | .queue q id => g.fill q id (if q = 6 then zx (lo64 (f.val &&& f.en)) else f.val &&& f.en)

/-- Slots in ascending order: of two results of one cycle the higher slot stands (R24). -/
def bySlot (l : List Flight) : List Flight :=
  (upTo 4).flatMap (fun n => l.filter (fun f => f.slot == n))

/-- The end of one execute cycle: the results due land, the others come one cycle nearer (R31). -/
def Group.tick (g : Group) : Group :=
  let due := bySlot (g.flight.filter (fun f => f.left ≤ 1))
  let rest := (g.flight.filter (fun f => !(f.left ≤ 1))).map (fun f => { f with left := f.left - 1 })
  let base := g.m
  due.foldl (fun g f => g.land base f) { g with flight := rest, holdLeft := g.holdLeft - 1 }

/-- A result of the syllable under way, `lat` execute cycles from issue (R31). -/
def Group.launch (g : Group) (f : Flight) : Group := { g with flight := g.flight ++ [f] }

/-- The execute stream has issued END, all of its bundle (R98). -/
def Group.endedX (g : Group) : Bool := g.endX && g.slotX == 0

/-- A latch-live boundary (R41); what a syllable with no element enabled has launched is no result (R61). -/
def Group.latchLive (g : Group) : Bool := g.live != 0 || (g.flight ++ g.snap).any (fun f => f.en != 0)

/-- Freeze and restart of the execute stream move the results to and from the snapshot registers (R34). -/
def Group.freezeX (g : Group) : Group := { g with snap := g.snap ++ g.flight, flight := [] }

def Group.thawX (g : Group) : Group := { g with flight := g.snap ++ g.flight, snap := [] }

/-! ## Bundles at hand (R55, R57, R58) -/

/-- The 64-bit word at a virtual address in a core's fetch buffer. -/
def State.fetched (s : State) (c : Nat) (va : Word) : Option Word :=
  let line := va.toNat / 64 * 64
  match (s.core (s.fetcher c)).fetch.find? (fun l => l.va == line && l.data.isSome) with
  | some l => l.data.map (fun (d : BitVec 512) => (d >>> (8 * (va.toNat % 64))).setWidth 64)
  | none => none

def State.bundle (s : State) (c : Nat) (addr : Word) : BundleAt :=
  decodeBundle (fun n => s.fetched c (addr + BitVec.ofNat 64 (8 * n)))

/-- The line that a bundle still lacks. -/
def missingLine (addr : Word) (n : Nat) : Nat := (addr + BitVec.ofNat 64 (8 * n)).toNat / 64 * 64

/-! ## What a bundle asks of its stream (R27–R30, R44, R45) -/

/-- The slots of a stream (R23). -/
def ownSlot (access : Bool) (slot : Nat) : Bool := if access then slot ≥ 4 else slot < 4

/-- Queue use of a selector: the queue and whether it is a pop (true) or a peek (R63). -/
def selUse (access : Bool) (sel : BitVec 8) : List (Nat × Bool) :=
  let n := sel.toNat
  let base := if access then 4 else 0
  if 0x44 ≤ n ∧ n ≤ 0x47 then [(base + (n - 0x44), true)]
  else if 0x48 ≤ n ∧ n ≤ 0x4B then [(base + (n - 0x48), false)]
  else []

/-- The queue that a DST pushes to (R65). -/
def dstPush (access : Bool) (dst : BitVec 8) : List Nat :=
  let n := dst.toNat
  if 0x40 ≤ n ∧ n ≤ 0x43 then [if access then n - 0x40 else n - 0x40 + 4] else []

/-- Pops and peeks of a well-formed syllable, in order (R27, R63, R211, R92, R235). -/
def queueUse : Instr → List (Nat × Bool)
  | .pair y => selUse false (y.xa.setWidth 8) ++ selUse false y.xb ++ selUse false (y.va.setWidth 8) ++ selUse false y.vb
  | .vli _ _ => []
  | .vldx y => selUse true y.srca ++ [(7, true)]
  | .vstx y => selUse true y.srca ++ selUse true y.srcb ++ [(7, true)]
  | .vldt y => selUse true y.srca
  | .clrt y => selUse true y.srca
  | .amovq _ => [(6, true)]
  | .cas y => selUse true y.srca ++ selUse true y.srcb ++ selUse true (y.imm.setWidth 8)
  | i => match i.slotOpc with
    | none => []
    | some (slot, _, y) =>
      selUse (slot ≥ 4) y.srca ++ selUse (slot ≥ 4) y.srcb
        ++ (if slot = 1 ∨ slot = 2 then selUse false (y.imm.extractLsb' 9 8) else [])

/-- Pushes of a well-formed syllable (R27, R65). -/
def queuePush : Instr → List Nat
  | .pair _ => []
  | .vsts _ => []
  | i => match i.slotOpc with
    | none => []
    | some (slot, _, y) => dstPush (slot ≥ 4) y.dst

/-- The pops and peeks are served in slot order: true when each finds its entry with its data (R27). -/
def Group.canUse (g : Group) : List (Nat × Bool) → List Nat → Bool
  | [], _ => true
  | (q, pop) :: rest, popped =>
    let k := popped.countP (· == q)
    match (g.queue q)[k]? with
    | some e => e.data.isSome && g.canUse rest (if pop then q :: popped else popped)
    | none => false

/-- Every push has a free entry (R27). -/
def Group.canPush (g : Group) (ps : List Nat) : Bool :=
  ps.all (fun q => (g.queue q).length + ps.countP (· == q) ≤ qDepth q)

/-- The selectors that an access-slot syllable reads its operands through: fields that a form reserves, or that hold data,
are none (R30, R63, R202). -/
def aOperands : Instr → List (BitVec 8)
  | .ld y | .lda y | .vld y | .vldx y | .vldt y | .ldn y | .pft y | .vldb y | .clrt y => [y.srca]
  | .vlds y | .st y | .stl y | .vst y | .vstx y | .stnt y | .defer y | .resolve y => [y.srca, y.srcb]
  | .vsts y => [y.srca, y.dst]
  | .cpy y | .cpyg y => [y.dst, y.srca, y.srcb]
  | .shw y | .pub y | .sdrop y | .vdec y | .rhset y => [y.srca]
  | .chcfg y | .sopen y | .rhnew y => [y.srca, y.srcb]
  | .alim y | .alit y | .aaddi y | .aandi y | .ashli y | .ashri y | .aq y => [y.srca]
  | .aadd y | .asub y | .amul y | .amin y | .amax y | .acmpCc y => [y.srca, y.srcb]
  | .kset y => if y.imm.getLsbD 21 then [] else [y.srca]
  | .binit y => if y.imm.getLsbD 10 then [] else [y.srca]
  | .barv y => if y.imm.getLsbD 13 then [] else [y.srcb]
  | .barvRemote y => if y.imm.getLsbD 13 then [y.srca] else [y.srca, y.srcb]
  | .amo y | .bank y | .rpub y | .ringvoid y | .glaunch y => [y.srca, y.srcb]
  | .cas y => [y.srca, y.srcb, y.imm.setWidth 8]
  | .rres y | .tlaunch y | .twait y | .tstat y | .spalloc y | .gcommit y | .winw y => [y.srca]
  | .spawn y => [y.srca, y.srcb] ++ (upTo 8).map (fun i => BitVec.ofNat 8 (field y.imm.toNat 4 0 + i))
  | _ => []

/-- The a registers that an access-slot syllable reads (R30). -/
def aReads (i : Instr) : List Nat := ((aOperands i).map (·.toNat)).filter (· < 0x20)

/-- The non-idempotent operations (R44). -/
def nonIdem : Instr → Bool
  | .amo _ | .cas _ | .bank _ | .rres _ | .rpub _ | .defer _ | .resolve _ | .pub _ | .vdec _ | .tlaunch _ | .spawn _
  | .glaunch _ | .evpop _ | .rhnew _ | .rhset _ => true
  | _ => false

/-- Before these the access stream waits for the execute stream to have issued every earlier bundle (R45, R229, R307). -/
def meets : Instr → Bool
  | .sege _ | .twait _ => true
  | .fence y => y.imm.getLsbD 5
  | i => nonIdem i

/-- An X-slot control transfer, END included (R29, R98). -/
def isXctl : Instr → Bool
  | .br _ | .call _ | .ret _ | .jr _ | .endStep _ => true
  | _ => false

/-- Syllables of the X slot behind which the access stream issues nothing until the execute stream has resolved them: the
transfers (R29, R96), and ERET, which sets APC (R36; the spec does not say so of ERET, log 96). -/
def resolvesApc : Instr → Bool
  | .eret _ => true
  | i => isXctl i

def isLoop : Instr → Bool
  | .loop _ => true
  | _ => false

/-- Instructions of a bundle's own slots from `first` on, those that issue at all (R62, R78). -/
def ownInstrs (access : Bool) (first : Nat) (l : List (Nat × Option Instr)) : List Instr :=
  l.filterMap (fun x => if ownSlot access x.1 && first ≤ x.1 then x.2.filter legal else none)

def anyInstr (p : Instr → Bool) (l : List (Nat × Option Instr)) : Bool :=
  l.any (fun x => match x.2 with
    | some i => p i
    | none => false)

/-! ## Ordering (R225, R230, R231) -/

/-- A piece has performed at a scope; pieces that have performed leave their access (R225). -/
def Piece.at (p : Piece) (scope : Nat) : Bool :=
  match p.place with
  | .os _ _ => false
  | .ring _ => false
  | .dev _ => scope = 0
  | .far _ => scope = 0 || (scope = 1 && p.sent)
  | .host _ => scope = 0 || (scope ≤ 2 && p.sent)

/-- The accesses of a group still on their way. -/
def State.mine (s : State) (core : Nat) (gid : Nat) : List Acc :=
  (s.cluster (core / 4)).outbound.filter (fun a => a.gid == gid && !a.done)

/-- The access `id` has performed at a scope. -/
def State.performedAt (s : State) (core scope id : Nat) : Bool :=
  (s.cluster (core / 4)).outbound.all (fun a => !(a.id == id) || a.done || a.pieces.all (·.at scope))

/-- The access `id` has performed at its serving point (R223). -/
def State.performed (s : State) (core id : Nat) : Bool :=
  (s.cluster (core / 4)).outbound.all (fun a => !(a.id == id) || a.done || a.pieces.isEmpty)

/-- Every earlier access of the group has performed at the scope (R230). -/
def State.drained (s : State) (core scope : Nat) (gid : Nat) : Bool :=
  (s.mine core gid).all (fun a => a.pieces.all (·.at scope))

/-- The scope of the drain that an operation begins with: releases (R231), the launches of R234, DEFER and RESOLVE
(R317, R318). -/
def drainScope : Instr → Option Nat
  | .stl y => some (field y.imm.toNat 22 21)
  | .amo y | .cas y | .bank y => if y.imm.getLsbD 20 then some (field y.imm.toNat 22 21) else none
  | .rpub y => some (field y.imm.toNat 22 21)
  | .barv _ => some 0
  | .defer y | .resolve y => some (field y.imm.toNat 22 21)
  | .barvRemote y => some (field y.imm.toNat 12 11)
  | .tlaunch _ | .spawn _ => some 1
  | _ => none

/-! ## Guards (R60, R61) -/

/-- Bit `b` of the guard an execute slot names. -/
def Group.guardX (g : Group) (sel : BitVec 4) (b : Nat) : Bool :=
  if sel = 0 then true else ((g.rdM (sel.toNat % 8)).getLsbD b) != sel.getLsbD 3

/-- Bit `b` of the guard an access slot names. -/
def Group.guardA (g : Group) (sel : BitVec 4) (b : Nat) : Bool :=
  if sel = 0 then true else ((g.rdG (sel.toNat % 8)).getLsbD b) != sel.getLsbD 3

/-- Words that a syllable of an execute bundle pops from RBQ: RNDW with its guard true, a V syllable whose rounding
resolves to SR whatever its guard (R106, R118). -/
def Group.rbqPops (g : Group) : Instr → Nat
  | .rndw y => bool1 (g.guardX y.guard 0)
  | i => match i.slotOpc with
    | some (slot, opc, y) =>
      let r := y.imm.extractLsb' 17 3
      if (slot = 1 ∨ slot = 2) ∧ opc ≠ 0x51 ∧ (r = 4 ∨ (r = 5 ∧ g.rmode = 4)) then 1 else 0
    | none => 0

/-! ## What freezes a stream (R34) -/

/-- A hold's code. -/
def Hold.code : Hold → Nat
  | .rdv _ => 3
  | .fuse _ _ _ => 3
  | .twait _ _ => 3
  | .retwait _ _ => 3
  | .adopted _ _ => 3
  | .barrier _ _ => 3
  | .refetch _ => 4
  | _ => 8

/-- The core's rewind-pending flag: a group has rewound on it, and has neither issued an RDV nor reached a segment entry since,
while its share goes on (R418, log 100). -/
def Core.rewindPend (k : Core) : Bool := !k.rewound.isEmpty

/-- A rewind of a group sets the flag; its own RDV or segment entry takes its part of it away. -/
def Core.setRewind (g : Group) (k : Core) : Core :=
  { k with rewound := k.rewound.filter (fun x => x.1 != g.gid) ++ [(g.gid, g.share)] }
def Core.clearRewind (gid : Nat) (k : Core) : Core := { k with rewound := k.rewound.filter (fun x => x.1 != gid) }

/-- A partner that RDV waits on: a front group of the same share whose core has its rewind-pending flag set (R419). -/
def State.rdvWaits (s : State) (c : Nat) (g : Group) (mask : BitVec 4) : Bool :=
  (upTo 4).any (fun k =>
    let d := 4 * (c / 4) + k
    d != c && mask.getLsbD k && (s.core d).rewindPend
      && (match s.front d with
          | some p => p.share == g.share
          | none => false))

/-- A barrier of the group's cluster and context (R242, R246). -/
def State.bar (s : State) (cl ctx b : Nat) : Barrier := Tab.get {} (s.cluster cl).bars (32 * ctx + b)

/-- A TWAIT on the task would not freeze at once: the task has completed, or a share of it may be adopted (R307). -/
def State.twaitActs (s : State) (t : Nat) : Bool :=
  !(s.tasks.any (fun x => x.id == t && x.live)) || s.shares.any (fun h => h.task == t && (h.state == .ready || h.state == .waiting))

/-- What a hold waits for has come about. The others are ended by the event they wait for (R305, R307, R440). -/
def State.holdOver (s : State) (c : Nat) (g : Group) : Hold → Bool
  | .accs ids => ids.all (s.performed c)
  | .drain scope ids => ids.all (s.performedAt c scope)
  | .fenceI ids => ids.all (s.performed c)
  | .rdv mask => !s.rdvWaits c g mask
  | .barrier b ph => (s.bar (c / 4) g.ctx b).phase != ph
  | .refetch slot => !(s.cluster (c / 4)).refetch.contains slot
  | .retwait t _ => s.twaitActs t
  | _ => false

/-- The FUSE or REJOIN that a group has asked for. -/
def Group.fuseHold (g : Group) : Option (BitVec 2 × Word × Bool) :=
  (g.holds.filterMap (fun h => match h with
    | .fuse fw a r => some (fw, a, r)
    | _ => none)).head?

/-- Every member of the fusion that the group has asked for has issued the FUSE: the execute streams alone are awaited (R34,
R305). -/
def State.allFused (s : State) (c : Nat) (g : Group) : Bool :=
  match g.fuseHold with
  | some (fw, a, r) => (fusionSet c fw).all (fun k => (s.front k).any (fun h => h.fuseHold == some (fw, a, r)))
  | none => false

/-- A load that the group issued before has met a cell as it performed, and waits for it (R323); a handler runs on. -/
def State.lateWait (s : State) (c : Nat) (g : Group) : Bool :=
  !g.gstat.valid && (s.cluster (c / 4)).outbound.any (fun a => a.gid == g.gid && a.parked.isSome && !a.done)

/-- The access stream's freeze code before its next bundle by what the group itself waits on; 0 for none. -/
def State.waits (s : State) (c : Nat) (g : Group) : Nat :=
  if g.pageWait.isSome then 5
  else if g.parked.isSome || s.lateWait c g then 6
  else match g.holds.filter (fun h => !s.holdOver c g h) with
    | .fuse _ _ _ :: _ => if s.allFused c g then 9 else 3
    | h :: _ => h.code
    | [] => 0

/-- The group's guard lets the syllable act: in any element of a BANK, else by bit 0 (R60, R203). -/
def Group.takesPart (g : Group) (i : Instr) : Bool :=
  match i, i.slotOpc with
  | .bank y, _ => (upTo 64).any (g.guardA y.guard)
  | _, some (_, _, y) => g.guardA y.guard 0
  | _, none => true

/-- The phase that a BWAIT waits for has yet to complete; an arrival that completed it has woken the group (R243, R245). -/
def State.barPending (s : State) (c : Nat) (g : Group) (y : Syl) : Bool :=
  let b := field y.imm.toNat 8 4
  g.bwoken != some b && (s.bar (c / 4) g.ctx b).phase == y.imm.getLsbD 9

/-- What one instruction of the access stream waits for before its bundle, beside queues and operands (R34). -/
def State.instrWait (s : State) (c : Nat) (g : Group) (i : Instr) : Nat :=
  if !g.takesPart i then 0
  else match i with
    | .bwait y => if s.barPending c g y then 3 else 0
    | .cpy _ | .cpyg _ =>
      -- every member that takes part issues a command of its own (R48)
      let n := ((s.members c).filter (fun k => (s.front k).any (fun h => h.takesPart i))).length
      if ((s.cluster (c / 4)).copies.filter (fun x => x.merge.isNone)).length + n > 64 then 2 else 0
    | i => match drainScope i with
      | some sc => if s.drained c sc g.gid then 0 else 8
      | none => 0

/-- The address of the access stream's next bundle, the outcome of the last transfer followed if it is there (R29). -/
def Group.apcNext (g : Group) : Word :=
  match g.awaitBqe, g.qs.bqe with
  | true, o :: _ => if o.taken then o.target else g.apc
  | _, _ => g.apc

/-- The first nonzero code. -/
def firstCode : List Nat → Nat
  | [] => 0
  | x :: t => if x = 0 then firstCode t else x

/-- A line that is not at hand: 5 while its fetch is in page-fault service, else 11 (R57). -/
def State.fetchCode (s : State) (c line : Nat) : Nat :=
  if (s.core (s.fetcher c)).fetch.any (fun l => l.va == line && l.token.isSome) then 5 else 11

/-- The fetch of this line has failed (R57). -/
def State.fetchFailed (s : State) (c line : Nat) : Bool :=
  (s.core (s.fetcher c)).fetch.any (fun l => l.va == line && l.failed)

/-- Why the access stream of core `c` cannot issue its next bundle, as R34's code; 0 when it can, or would fault. -/
def State.freezeA1 (s : State) (c : Nat) : Nat :=
  match s.front c with
  | none => 0
  | some g =>
    let mid := g.midA
    let w := s.waits c g
    if g.endA then 0
    else if w ≠ 0 then w
    else if g.awaitBqe && g.qs.bqe.isEmpty then 1
    else if g.awaitBqe && g.qs.bqe.head?.any (·.isEnd) then 0
    else
      let apc := g.apcNext
      if !mid && g.hist.length ≥ 64 then 9
      else match s.bundle c apc with
        | .malformed => 0
        | .missing n => if s.fetchFailed c (missingLine apc n) then 0 else s.fetchCode c (missingLine apc n)
        | .ok l =>
          let is := ownInstrs true g.slotA l
          if !mid && !g.hist.isEmpty && (g.segNext || anyInstr meets l) then 9
          else if !g.canUse (is.flatMap queueUse) [] then 1
          else if !g.canPush (is.flatMap queuePush) then 2
          else if anyInstr isLoop l && g.qs.bqa.length ≥ 16 then 2
          else if (is.flatMap aReads).any (fun n => g.busy.any (fun b => b.1 == n)) then 10
          else firstCode (is.map (s.instrWait c g))

/-- The barriers that a BWAIT of the next bundle has frozen the front group's access stream on (R34, R245). -/
def State.bwaits (s : State) (c : Nat) (g : Group) : List Nat :=
  if s.freezeA1 c ≠ 3 then []
  else match s.bundle c g.apcNext with
    | .ok l => (ownInstrs true g.slotA l).filterMap (fun i => match i with
      | .bwait y => if g.takesPart i && s.barPending c g y then some (field y.imm.toNat 8 4) else none
      | _ => none)
    | _ => []

/-- Why the execute stream of core `c` cannot issue its next bundle; 0 when it can, or would fault. -/
def State.freezeX1 (s : State) (c : Nat) : Nat :=
  match s.front c with
  | none => 0
  | some g =>
    if g.endedX then 0
    else if g.hist.isEmpty && g.slotX == 0 then 9
    else match s.bundle c g.xpc with
      | .malformed => 0
      | .missing n => if s.fetchFailed c (missingLine g.xpc n) then 0 else s.fetchCode c (missingLine g.xpc n)
      | .ok l =>
        let is := ownInstrs false g.slotX l
        let mat := is.filter (fun i => match i.slotOpc with
          | some (3, opc, y) => g.guardX y.guard 0 && !(opc == 3 || opc == 5 || opc == 6 || opc == 9)
              && !(opc == 11 && y.imm.getLsbD 0)
          | _ => false)
        if !g.canUse (is.flatMap queueUse) [] then 1
        else if anyInstr isLoop l && g.qs.bqa.isEmpty then 1
        else if (is.map g.rbqPops).sum > g.rbq.length then 1
        else if !g.canPush (is.flatMap queuePush) then 2
        else if g.slotX == 0 && anyInstr isXctl l && g.qs.bqe.length ≥ 16 then 2
        else if !mat.isEmpty && (s.core c).mat.queue.length ≥ 16 then 2
        else 0

/-- The execute stream is held by a blocking result (R32). -/
def State.held (s : State) (c : Nat) : Bool := (s.front c).any (fun g => g.holdLeft != 0 && g.slotX == 0)

/-- A fused partner in its trap handler, or about to enter it, freezes the others (R49). -/
def State.partnerTraps (s : State) (c : Nat) : Bool :=
  match s.front c with
  | none => false
  | some g => !g.gstat.valid && (s.fusedSet c).any (fun k => k != c && (match s.front k with
      | some p => p.gstat.valid || p.trapPend.isSome
      | none => false))

/-- A core of the fused set whose front group is not a member: no bundle can issue in lock-step (R48, R51). -/
def State.memberAway (s : State) (c : Nat) : Bool :=
  (s.members c).any (fun k => (s.front k).map (fun p => (p.share, p.gstat.fused, p.gstat.fwidth))
    != (s.front c).map (fun p => (p.share, p.gstat.fused, p.gstat.fwidth)))

/-- The code of a stream of core `c` when `own` gives that of each member by itself: a fused partner's freeze is code 7,
and a hold of any member is no freeze (R32, R34, R48). -/
def State.codeOf (s : State) (c : Nat) (access : Bool) (own : Nat → Nat) : Nat :=
  if !access && (s.members c).any s.held then 0
  else if own c ≠ 0 then own c
  else if s.partnerTraps c || s.memberAway c || (s.members c).any (fun k => own k != 0) then 7
  else 0

/-- The freeze code of a stream before its next bundle, found without issuing it (R34, R48). -/
def State.frozen (s : State) (c : Nat) (access : Bool) : Nat :=
  s.codeOf c access (fun k => if access then s.freezeA1 k else s.freezeX1 k)

/-- The stream has stopped, so that a trap of the other can be taken (R35): frozen, at its end, or before a bundle
that would fault. -/
def State.stopped (s : State) (c : Nat) (access : Bool) : Bool :=
  match s.front c with
  | none => true
  | some g =>
    if access then g.endA || g.heldA || g.stallCode != 0 || s.frozen c true != 0
    else (g.endedX && g.flight.isEmpty) || g.heldX || g.stallX != 0 || (!g.endedX && s.frozen c false != 0)

/-- The freeze code that GSTAT shows for a group of core `c`: what was found when the bundle was last tried counts too. A
group out of issue shows what it waits for (R34, R38, R43). -/
def State.frz (s : State) (c : Nat) (g : Group) (access : Bool) : Nat :=
  if (s.front c).map (·.gid) = some g.gid then
    s.codeOf c access (fun k => firstCode [if access then s.freezeA1 k else s.freezeX1 k,
      ((s.front k).map (fun h => if access then h.stallCode else h.stallX)).getD 0])
  else if access then s.waits c g else 0

/-- GSTAT as it reads now: the bank, the shadow bank and the freeze codes are those of the core (R38). -/
def State.gstatNow (s : State) (c : Nat) (g : Group) : Gstat :=
  let k := s.core c
  { g.gstat with
    bank := k.front
    shadow := (k.bank (!k.front)).isSome
    frza := BitVec.ofNat 4 (s.frz c g true)
    frzx := BitVec.ofNat 4 (s.frz c g false) }

/-! ## Traps (R35–R37, R49) -/

/-- trap_entry of R35, once the other stream has stopped. -/
def Group.enterTrap (cause : BitVec 8) (access : Bool) (slot : Nat) (g : Group) : Group :=
  let st := { g.gstat with cause := cause, slotResume := BitVec.ofNat 3 slot, stream := access }
  { g with
    gstat := { st with lrun := 0, valid := true, mode := true }
    savApc := g.apc
    savXpc := g.xpc
    savStat := st
    trapSave := g.snap ++ g.flight
    trapLt := g.lt
    trapLive := g.live
    snap := [], flight := [], lt := [], live := 0
    trapSel := true, tq := {}
    apc := g.tvec
    xpc := g.tvec
    saved := some { apc := g.apc, xpc := g.xpc, hist := g.hist, awaitBqe := g.awaitBqe, segNext := g.segNext,
                    needQuiet := g.needQuiet, xNext := g.xNext, endX := g.endX, endA := g.endA,
                    slotA := g.slotA, slotX := g.slotX, midA := g.midA, holdLeft := g.holdLeft, counted := g.counted
                    atEntry := g.atEntry, holds := g.holds, bundle := g.bundles, lateFault := g.lateFault }
    holds := [], lateFault := none
    hist := [], awaitBqe := false, segNext := false, needQuiet := false, xNext := none, endX := false, endA := false
    slotA := 0, slotX := 0, midA := false, holdLeft := 0, counted := false, atEntry := false
    stallCode := 0, stallX := 0, pageWait := none, parked := none, frozenAt := none
    trapPend := none, heldA := false, heldX := false }

/-- Every line of a core's fetch buffer is discarded (R58). -/
def State.flushFetch (s : State) (c : Nat) : State := s.modCore (s.fetcher c) (fun k => { k with fetch := [] })

/-- A fused member that did not trap freezes at the slot the lowest fault names (R49). -/
def Group.atSlot (access : Bool) (slot : Nat) (g : Group) : Group :=
  let g := { g with gstat := { g.gstat with slotResume := BitVec.ofNat 3 slot, stream := access } }
  if access then { g with slotA := slot } else { g with slotX := slot }

/-- A double trap ends the group at once; nothing of it is saved (R37). -/
def Group.die (cause : BitVec 8) (g : Group) : Group :=
  { g with dead := some (cause, g.gstat.cause), trapPend := none, endX := true, endA := true, slotX := 0, flight := []
           snap := [], holds := [], pageWait := none, parked := none }

/-- Entries of a cluster's wait table that a group gives up (R323). -/
def State.leaveWait (s : State) (c gid : Nat) : State :=
  s.modCluster (c / 4) (fun k => { k with wait := k.wait.filter (fun w => !(w.gid == gid && !w.spilled)) })

/-- The trap that is pending on core `c` is taken, if the other stream has stopped (R35). What the access stream waited
for before its bundle it asks for again after ERET (log 101). -/
def State.takeTrap (s : State) (c : Nat) : State :=
  match s.front c with
  | none => s
  | some g =>
    match g.trapPend with
    | none => s
    | some (cause, access, slot) =>
      if !s.stopped c (!access) then s
      else
        let st := s.gstatNow c g
        ((s.modBank c (s.core c).front (fun g => Group.enterTrap cause access slot { g with gstat := st })).leaveWait c g.gid).flushFetch c

/-- trap(cause) of the syllable under way, to resume at `slot` (R10, R35). In a handler it is a double trap (R37). While
another trap is pending the bundle that would fault is held unissued (R35). Behind a CSR write of a lower slot the trap is
taken once that write is in force, at the end of the execute cycle: the handler runs under the new value (R101, log 98). -/
def raiseAt (cause : BitVec 8) (slot : Nat) (s : State) : State :=
  let a := s.here.access
  let s := { s with here := { s.here with off := s.here.core :: s.here.off, resume := slot } }
  if s.me.gstat.valid then s.upd (Group.die cause)
  else if s.me.trapPend.isSome then
    s.upd (fun g => if a then { g with heldA := true } else { g with heldX := true })
  else
    let s := s.upd (fun g => { g with trapPend := some (cause, a, slot) })
    if s.me.csrw.isEmpty then s.takeTrap s.here.core else s

/-- trap(cause) at the slot of the syllable under way. -/
def raise (cause : BitVec 8) (s : State) : State := raiseAt cause s.here.slot s

/-- The bundle cannot issue now (R34): nothing of it stands. -/
def stallWith (t : Stall) (s : State) : State := { s with here := { s.here with off := s.here.core :: s.here.off, stall := some t } }

/-- eret of R36. The handler's own results are in flight on, on which the spec is silent: those due in ERET's cycle land with
it (R31), the others later (log 99). -/
def Group.eret (g0 : Group) : Group :=
  let g := g0.tick
  let st := g.gstat
  let sv := g.savStat
  let acc := sv.stream
  let k := g.saved.getD { apc := g.savApc, xpc := g.savXpc, hist := [], awaitBqe := false, segNext := false,
                          needQuiet := false, xNext := none, endX := false, endA := false, slotA := 0, slotX := 0, midA := false,
                          holdLeft := 0, counted := false, atEntry := false }
  let am := g.savApc != k.apc
  let xm := g.savXpc != k.xpc
  -- what the access stream has issued ahead, after a handler has moved a saved PC (R28, R36)
  let hist :=
    if am then
      if xm then []
      else if k.midA then k.hist else k.hist ++ [k.apc]
    else k.hist.dropWhile (fun a => xm && a != g.savXpc)
  let n := sv.slotResume.toNat
  { g with
    tq := {}, trapSel := false
    snap := g.trapSave ++ g.snap, trapSave := []
    lt := g.trapLt, trapLt := [], live := g.trapLive, trapLive := 0
    gstat := { st with cause := sv.cause, slotResume := sv.slotResume, stream := sv.stream, mode := sv.mode,
                       lrun := sv.lrun, valid := false, scopeMiss := sv.scopeMiss || st.scopeMiss }
    apc := g.savApc
    xpc := g.savXpc
    saved := none
    hist := hist
    awaitBqe := k.awaitBqe && !hist.isEmpty && !am
    segNext := k.segNext && !am
    needQuiet := k.needQuiet && !xm
    xNext := if xm then none else k.xNext
    endX := k.endX && !xm && (acc || n != 0)
    endA := k.endA && !am
    slotA := if acc then n else if am then 0 else k.slotA
    slotX := if acc then (if xm then 0 else k.slotX) else n
    midA := k.midA && !am
    holdLeft := k.holdLeft, counted := k.counted, atEntry := k.atEntry && !am
    holds := k.holds ++ g.holds
    lateFault := (k.lateFault.map (fun f => if am then (f.1, none) else f)).or g.lateFault
    stallCode := 0, stallX := 0, frozenAt := none, trapPend := none, heldA := false, heldX := false }

/-! ## Following a transfer (R29, R96, R98) -/

/-- The access stream pops the outcome of its last transfer, if it is there, and moves APC. -/
def Group.follow (g : Group) : Group :=
  match g.qs.bqe with
  | [] => g
  | o :: t =>
    let g := { (g.setQs { g.qs with bqe := t }) with awaitBqe := false, followed := true }
    if o.isEnd then { g with endA := true, stallCode := 0 } else if o.taken then { g with apc := o.target } else g

/-! ## Landing in the access stream (R24, R30) -/

/-- A result of an access-slot syllable, landing at the end of its bundle: file 0 a, 1 g, 2 k (R24). A load that still owes
the register a value lands later, and its value then stands. -/
def Group.later (g : Group) (file n : Nat) (w : Word) : Group := { g with awr := g.awr ++ [(file, n, w)] }

def Group.landA (g : Group) : Group :=
  let g' := g.awr.foldl (fun g x =>
    match x.1 with
    | 0 => g.wrA x.2.1 x.2.2
    | 1 => g.wrG x.2.1 x.2.2
    | _ => g.wrK x.2.1 (x.2.2.setWidth 32)) g
  { g' with awr := [] }

end Sys2Proof.Machine
end

