-- ==== Sys2Proof/Machine/Operands.lean ====
section
/-!
DEFINITION. Every operand form: the source selectors of both streams (R63, R64, R135), the destinations (R65, R66,
R136), the guards (R60, R61, R133, R203), and the shape every syllable's meaning has (R62, R78).
-/
namespace Sys2Proof.Machine

/-- What a source selector names in an execute slot (R63). -/
inductive Src where
  | reg (n : Nat)
  | latch (n : Nat)
  | pop (q : Nat)
  | peek (q : Nat)
  | lane | fidx | core | clu | zero
  | imm (k : Int)
  deriving DecidableEq, Repr

/-- The selector column of the execute slots (R63); none is illegal. -/
def Src.ofX (sel : BitVec 8) : Option Src :=
  let n := sel.toNat
  if n < 0x40 then some (.reg n)
  else if n < 0x43 then some (.latch (n - 0x40))
  else if 0x44 ≤ n ∧ n ≤ 0x47 then some (.pop (n - 0x44))
  else if 0x48 ≤ n ∧ n ≤ 0x4B then some (.peek (n - 0x48))
  else match n with
    | 0x50 => some .lane
    | 0x51 => some .fidx
    | 0x52 => some .core
    | 0x53 => some .clu
    | 0x54 => some .zero
    | _ => if n ≥ 0x80 then some (.imm (signed 7 n)) else none

/-- The selector column of the access slots (R63); queues as Ops numbers them. -/
def Src.ofA (sel : BitVec 8) : Option Src :=
  let n := sel.toNat
  if n < 0x20 then some (.reg n)
  else if 0x44 ≤ n ∧ n ≤ 0x46 then some (.pop (n - 0x40))
  else if 0x48 ≤ n ∧ n ≤ 0x4A then some (.peek (n - 0x44))
  else match n with
    | 0x50 => some .lane
    | 0x51 => some .fidx
    | 0x52 => some .core
    | 0x53 => some .clu
    | 0x54 => some .zero
    | _ => if n ≥ 0x80 then some (.imm (signed 7 n)) else none

/-- The value of a special or an immediate; the lane index is 0 outside vector operations (R63). -/
def Src.const (o : Src) (c : Nat) (g : Group) : Int :=
  match o with
  | .fidx => if g.gstat.fused then (g.gstat.fidx.toNat : Int) else 0
  | .core => (c % 4 : Nat)
  | .clu => (c / 4 : Nat)
  | .imm k => k
  | _ => 0

/-- A 64-bit source of the syllable under way: `file` reads its register file (R24, R63). Pops take their entry. -/
def readSel (file : Group → Nat → Word) (o : Option Src) (s : State) : Word × State :=
  let g := s.me
  match o with
  | none => (0, s)
  | some (.reg n) => (file g n, s)
  | some (.latch n) => (lo64 (g.rdLt n), s)
  | some (.pop q) => let (v, g') := g.pop q; (lo64 v, s.upd (fun _ => g'))
  | some (.peek q) => (lo64 (g.peek q), s)
  | some o => (word (o.const s.here.core g), s)

/-- A scalar source of the X and M slots. -/
def readX (sel : BitVec 8) (s : State) : Word × State := readSel Group.rdS (Src.ofX sel) s

/-- A source of an access slot. -/
def readA (sel : BitVec 8) (s : State) : Word × State := readSel Group.rdA (Src.ofA sel) s

/-- Two X sources in order (R27). -/
def readX2 (a b : BitVec 8) (s : State) : Word × Word × State :=
  let (x, s) := readX a s
  let (y, s) := readX b s
  (x, y, s)

def readA2 (a b : BitVec 8) (s : State) : Word × Word × State :=
  let (x, s) := readA a s
  let (y, s) := readA b s
  (x, y, s)

/-- A vector source (R135). -/
def readV (sel : BitVec 8) (s : State) : VOpnd × State :=
  let g := s.me
  match Src.ofX sel with
  | none => (.splat 0, s)
  | some (.reg n) => (.reg (g.rdV n), s)
  | some (.latch n) => (.reg (g.rdLt n), s)
  | some (.pop q) => let (v, g') := g.pop q; (.reg v, s.upd (fun _ => g'))
  | some (.peek q) => (.reg (g.peek q), s)
  | some .lane => (.lane, s)
  | some o => (.splat (o.const s.here.core g), s)

/-- A whole entry of sq0 or sq1: the data of a vector store or of a BANK, DEFER or RESOLVE (R208, R238, R316). -/
def readEntry (sel : BitVec 8) (s : State) : VReg × State :=
  let g := s.me
  match Src.ofA sel with
  | some (.pop q) => let (v, g') := g.pop q; (v, s.upd (fun _ => g'))
  | some (.peek q) => (g.peek q, s)
  | _ => (0, s)

/-! ## Destinations -/

/-- A result of an execute slot for DST: s, v by slot, a queue, or the latch alone (R33, R65, R66). A push reserves its
entry now (R27). -/
def finish (lat : Nat) (dst : BitVec 8) (val en : VReg) (s : State) : State :=
  let slot := s.here.slot
  let f : Flight := { left := lat, slot := slot, dst := .latch, val := val, en := en }
  s.upd (fun g =>
    let n := dst.toNat
    if n ≥ 0x80 then g.launch { f with nwb := true }
    else match dstPush false dst with
      | q :: _ => let (id, g) := g.reserve q; g.launch { f with dst := .queue q id }
      | [] =>
        if slot = 1 ∨ slot = 2 then g.launch { f with dst := .vreg (n % 64) }
        else g.launch { f with dst := .sreg (n % 64) })

/-- A scalar result (R84): the whole latch and, pushed, bits 63:0 of a zero-extended entry. -/
def finishS (lat : Nat) (dst : BitVec 8) (w : Word) (s : State) : State :=
  finish lat dst (zx w) (BitVec.allOnes 2048) s

/-- A result in mask register `n`, its `en` bits; zero-extended in the latch (R89, R136). -/
def finishM (lat : Nat) (n : Nat) (val : VReg) (en : VReg) (s : State) : State :=
  s.upd (·.launch { left := lat, slot := s.here.slot, dst := .mreg n, val := val, en := en })

/-- A value for DST of an access slot, at the end of the bundle: an a register or an lq (R65, R91). -/
def finishA (dst : BitVec 8) (w : Word) (s : State) : State :=
  s.upd (fun g => match dstPush true dst with
    | q :: _ => g.push q (zx w)
    | [] => g.later 0 dst.toNat w)

/-- A value for predicate `n` at the end of the bundle (R92). -/
def finishG (n : Nat) (on : Bool) (s : State) : State :=
  s.upd (·.later 1 n (if on then BitVec.allOnes 64 else 0))

/-- A push that a guarded-off syllable still makes: zero (R61). -/
def pushZero (access : Bool) (dst : BitVec 8) (s : State) : State :=
  match dstPush access dst with
  | q :: _ => s.upd (·.push q 0)
  | [] => s

/-- The queue traffic of a guarded-off syllable: pops removed, pushes of zero (R61). -/
def traffic (i : Instr) (s : State) : State :=
  let s := (queueUse i).foldl (fun s x => if x.2 then s.upd (fun g => (g.pop x.1).2) else s) s
  (queuePush i).foldl (fun s q => s.upd (·.push q 0)) s

/-! ## The shape of a syllable's meaning (R62, R78) -/

/-- U mode (R385). -/
def State.userMode (s : State) : Bool := !s.me.gstat.mode

/-- A syllable whose guard is bit 0: ILLOP for an encoding error whatever the guard, then nothing but its queue
traffic when the guard is false, else `act` (R61, R62, R78). -/
def syllable (i : Instr) (y : Syl) (act : State → State) (s : State) : Out :=
  if !i.wf then .next (raise ILLOP s)
  else
    let on := if s.here.slot < 4 then s.me.guardX y.guard 0 else s.me.guardA y.guard 0
    if on then .next (act s) else .next (traffic i s)

/-- A syllable that applies its guard per element, so `act` always runs (R61). -/
def perElement (i : Instr) (act : State → State) (s : State) : Out :=
  if !i.wf then .next (raise ILLOP s) else .next (act s)

/-- A privileged syllable: PRIV in U after the encoding checks, only with the guard true (R62, R78, R386). -/
def privileged (act : State → State) (s : State) : State :=
  if s.userMode then raise PRIV s else act s

end Sys2Proof.Machine
end

