-- ==== Sys2Proof/Machine/Scalar.lean ====
section
/-!
DEFINITION. The scalar forms of the X slot (R84–R90), device time, the cycle counter, random words and hints
(R105, R106, R362).
-/
namespace Sys2Proof.Machine

/-! ## Shapes -/

/-- Two sources, one result (R84). -/
def alu2 (i : Instr) (y : Syl) (lat : Nat) (f : Word → Word → Word) (s : State) : Out :=
  syllable i y (fun s => let (a, b, s) := readX2 y.srca y.srcb s; finishS lat y.dst (f a b) s) s

/-- One source, one result. -/
def alu1 (i : Instr) (y : Syl) (f : Word → Word) (s : State) : Out :=
  syllable i y (fun s => let (a, s) := readX y.srca s; finishS 1 y.dst (f a) s) s

/-- No source. -/
def alu0 (i : Instr) (y : Syl) (f : State → Word) (s : State) : Out :=
  syllable i y (fun s => finishS 1 y.dst (f s) s) s

/-- The execute stream is held until a blocking result has landed (R32). -/
def block (lat : Nat) (s : State) : State := s.upd (fun g => { g with holdLeft := max g.holdLeft lat })

/-- A blocking division: 18 execute cycles (R85, R86). -/
def divide (i : Instr) (y : Syl) (f : Word → Word → Word) (s : State) : Out :=
  syllable i y (fun s => let (a, b, s) := readX2 y.srca y.srcb s; block 18 (finishS 18 y.dst (f a b) s)) s

/-! ## Results (R85–R87) -/

def mulHigh (a b : Int) : Word := word (a * b / 2 ^ 64)

def sdiv (a b : Word) : Word := if b = 0 then BitVec.allOnes 64 else word (a.toInt.tdiv b.toInt)
def udiv (a b : Word) : Word := if b = 0 then BitVec.allOnes 64 else a / b
def srem (a b : Word) : Word := if b = 0 then a else word (a.toInt.tmod b.toInt)
def urem (a b : Word) : Word := if b = 0 then a else a % b

/-- EXTR of R87. -/
def extract (y : Syl) (a : Word) : Word :=
  let pos := y.im 5 0
  let len := y.im 12 6
  let f := (a.toNat >>> pos) % 2 ^ len
  if y.imm.getLsbD 13 then sext64 len f else BitVec.ofNat 64 f

/-- INS of R87. -/
def insert (y : Syl) (a b : Word) : Word :=
  let pos := y.im 5 0
  let m := BitVec.ofNat 64 ((2 ^ y.im 12 6 - 1) <<< pos)
  (b &&& ~~~ m) ||| ((a <<< pos) &&& m)

/-- LIM and ALIM (R90, R92). -/
def lim (y : Syl) (a : Word) : Word := (a &&& 0xFFFF000000FFFFFF) ||| (y.imm.setWidth 64 <<< 24)

/-- LIT and ALIT (R90, R92). -/
def lit (y : Syl) (a : Word) : Word := (a &&& 0x0000FFFFFFFFFFFF) ||| ((y.imm.setWidth 64 &&& 0xFFFF) <<< 48)

/-! ## Register forms (R85) -/

def execAdd (y : Syl) (s : State) : Out := alu2 (.add y) y 1 (· + ·) s
def execSub (y : Syl) (s : State) : Out := alu2 (.sub y) y 1 (· - ·) s
def execMul (y : Syl) (s : State) : Out := alu2 (.mul y) y 3 (· * ·) s
def execMulhi (y : Syl) (s : State) : Out := alu2 (.mulhi y) y 3 (fun a b => mulHigh a.toInt b.toInt) s
def execMulhn (y : Syl) (s : State) : Out := alu2 (.mulhn y) y 3 (fun a b => mulHigh a.toNat b.toNat) s
def execDiv (y : Syl) (s : State) : Out := divide (.div y) y sdiv s
def execDivn (y : Syl) (s : State) : Out := divide (.divn y) y udiv s
def execRem (y : Syl) (s : State) : Out := divide (.rem y) y srem s
def execRemn (y : Syl) (s : State) : Out := divide (.remn y) y urem s
def execAnd (y : Syl) (s : State) : Out := alu2 (.and y) y 1 (· &&& ·) s
def execOr (y : Syl) (s : State) : Out := alu2 (.or y) y 1 (· ||| ·) s
def execXor (y : Syl) (s : State) : Out := alu2 (.xor y) y 1 (· ^^^ ·) s
def execAndn (y : Syl) (s : State) : Out := alu2 (.andn y) y 1 (fun a b => a &&& ~~~ b) s
def execShl (y : Syl) (s : State) : Out := alu2 (.shl y) y 1 (fun a b => a <<< (b.toNat % 64)) s
def execShr (y : Syl) (s : State) : Out := alu2 (.shr y) y 1 (fun a b => a >>> (b.toNat % 64)) s
def execSra (y : Syl) (s : State) : Out := alu2 (.sra y) y 1 (fun a b => a.sshiftRight (b.toNat % 64)) s
def execRot (y : Syl) (s : State) : Out := alu2 (.rot y) y 1 (fun a b => a.rotateLeft (b.toNat % 64)) s
def execMin (y : Syl) (s : State) : Out := alu2 (.min y) y 1 (fun a b => if a.sle b then a else b) s
def execMax (y : Syl) (s : State) : Out := alu2 (.max y) y 1 (fun a b => if a.sle b then b else a) s
def execMinn (y : Syl) (s : State) : Out := alu2 (.minn y) y 1 (fun a b => if a.ule b then a else b) s
def execMaxn (y : Syl) (s : State) : Out := alu2 (.maxn y) y 1 (fun a b => if a.ule b then b else a) s
def execClz (y : Syl) (s : State) : Out := alu1 (.clz y) y (fun a => BitVec.ofNat 64 (clz 64 a.toNat)) s
def execCtz (y : Syl) (s : State) : Out := alu1 (.ctz y) y (fun a => BitVec.ofNat 64 (ctzFrom 64 a.toNat 0)) s
def execPopc (y : Syl) (s : State) : Out := alu1 (.popc y) y (fun a => BitVec.ofNat 64 (popCount 64 a.toNat)) s
def execExtr (y : Syl) (s : State) : Out := alu1 (.extr y) y (extract y) s
def execIns (y : Syl) (s : State) : Out := alu2 (.ins y) y 1 (insert y) s

/-- SEL: a where bit 0 of the mask register is 1 (R89). -/
def execSel (y : Syl) (s : State) : Out :=
  alu2 (.sel y) y 1 (fun a b => if (s.me.rdM (y.im 3 0)).getLsbD 0 then a else b) s

/-- CMP.cc: every bit of the mask register, and lt0 (R89). -/
def execCmpCc (y : Syl) (s : State) : Out :=
  syllable (.cmpCc y) y (fun s =>
    let (a, b, s) := readX2 y.srca y.srcb s
    finishM 1 (y.im 3 0) (if scalarCond y.fn a b then BitVec.allOnes 2048 else 0) (BitVec.allOnes 2048) s) s

/-! ## Immediate forms (R90) -/

def execAddi (y : Syl) (s : State) : Out := alu1 (.addi y) y (· + y.simm) s
def execLi (y : Syl) (s : State) : Out := alu0 (.li y) y (fun _ => y.simm) s
def execLim (y : Syl) (s : State) : Out := alu1 (.lim y) y (lim y) s
def execLit (y : Syl) (s : State) : Out := alu1 (.lit y) y (lit y) s
def execAndi (y : Syl) (s : State) : Out := alu1 (.andi y) y (· &&& y.simm) s
def execOri (y : Syl) (s : State) : Out := alu1 (.ori y) y (· ||| y.simm) s
def execXori (y : Syl) (s : State) : Out := alu1 (.xori y) y (· ^^^ y.simm) s

/-! ## Time, cycles, random words, hints (R105, R106, R362) -/

/-- TIME: device time when the bundle issues. -/
def execTime (y : Syl) (s : State) : Out := alu0 (.time y) y (fun s => BitVec.ofNat 64 s.time) s

/-- CYC: the core's cycle counter. -/
def execCyc (y : Syl) (s : State) : Out := alu0 (.cyc y) y (fun s => (s.core s.here.core).cyc) s

/-- A pop of RBQ: W(K, RCTR), then WORD + 1 modulo 2^21 (R118). -/
def popRbq (s : State) : VReg × State :=
  let g := s.me
  (g.rbq.headD 0, s.upd (fun g =>
    { g with rbq := g.rbq.tail, rctr := putField g.rctr 20 0 ((fld21 g.rctr + 1) % 2 ^ 21) }))
where
  fld21 (w : Word) : Nat := field w.toNat 20 0

def execRndw (y : Syl) (s : State) : Out :=
  syllable (.rndw y) y (fun s => let (r, s) := popRbq s; finishS 1 y.dst (lo64 r) s) s

def execHint (y : Syl) (s : State) : Out :=
  syllable (.hint y) y (fun s => s.upd (fun g => { g with hint := BitVec.ofNat 2 (y.im 1 0) })) s

end Sys2Proof.Machine
end

