-- ==== Sys2Proof/Machine/Access.lean ====
section
/-!
DEFINITION. Access-side arithmetic (R91, R92) and counted loops (R93, R94).
-/
namespace Sys2Proof.Machine

/-! ## Arithmetic (R92) -/

def acc2 (i : Instr) (y : Syl) (f : Word → Word → Word) (s : State) : Out :=
  syllable i y (fun s => let (a, b, s) := readA2 y.srca y.srcb s; finishA y.dst (f a b) s) s

def acc1 (i : Instr) (y : Syl) (f : Word → Word) (s : State) : Out :=
  syllable i y (fun s => let (a, s) := readA y.srca s; finishA y.dst (f a) s) s

def execAli (y : Syl) (s : State) : Out := syllable (.ali y) y (finishA y.dst y.simm) s
def execAlim (y : Syl) (s : State) : Out := acc1 (.alim y) y (lim y) s
def execAlit (y : Syl) (s : State) : Out := acc1 (.alit y) y (lit y) s
def execAadd (y : Syl) (s : State) : Out := acc2 (.aadd y) y (· + ·) s
def execAsub (y : Syl) (s : State) : Out := acc2 (.asub y) y (· - ·) s
def execAaddi (y : Syl) (s : State) : Out := acc1 (.aaddi y) y (· + y.simm) s
def execAshli (y : Syl) (s : State) : Out := acc1 (.ashli y) y (· <<< y.im 5 0) s
def execAshri (y : Syl) (s : State) : Out := acc1 (.ashri y) y (· >>> y.im 5 0) s
def execAandi (y : Syl) (s : State) : Out := acc1 (.aandi y) y (· &&& y.simm) s
def execAmul (y : Syl) (s : State) : Out := acc2 (.amul y) y (· * ·) s
def execAmin (y : Syl) (s : State) : Out := acc2 (.amin y) y (fun a b => if a.sle b then a else b) s
def execAmax (y : Syl) (s : State) : Out := acc2 (.amax y) y (fun a b => if a.sle b then b else a) s

/-- ACMP.cc: all ones or zero in gMD (R92). -/
def execAcmpCc (y : Syl) (s : State) : Out :=
  syllable (.acmpCc y) y (fun s =>
    let (a, b, s) := readA2 y.srca y.srcb s
    finishG (y.im 2 0) (scalarCond y.fn a b) s) s

/-- AMOVQ: the oldest entry of xq; the bundle has waited for it (R27). -/
def execAmovq (y : Syl) (s : State) : Out :=
  syllable (.amovq y) y (fun s =>
    let (v, g) := s.me.pop 6
    finishA y.dst (lo64 v) (s.upd (fun _ => g))) s

def execAq (y : Syl) (s : State) : Out := acc1 (.aq y) y id s

/-! ## Counted loops (R93, R94) -/

def execKset (y : Syl) (s : State) : Out :=
  syllable (.kset y) y (fun s =>
    let kn := y.im 23 22
    if y.imm.getLsbD 21 then s.upd (·.later 2 kn (BitVec.ofNat 64 (y.im 20 0)))
    else let (a, s) := readA y.srca s; s.upd (·.later 2 kn a)) s

/-- The outcome of a LOOP into bqa; the access stream follows it at the end of its bundle (R29, R94). -/
def pushBqa (o : BOut) (s : State) : State :=
  let s := s.upd (fun g => g.setQs { g.qs with bqa := g.qs.bqa ++ [o] })
  { s with here := { s.here with aNext := if o.taken then some o.target else none } }

def execLoop (y : Syl) (s : State) : Out :=
  let next := s.here.addr + BitVec.ofNat 64 s.here.size
  if !(Instr.loop y).wf then .next (raise ILLOP s)
  else if !s.me.guardA y.guard 0 then .next (pushBqa { taken := false, target := next } s)
  else
    let kn := y.im 23 22
    let k := s.me.rdK kn
    let there := s.here.addr + sext64 22 (y.im 21 0) * 8
    if k.toNat > 1 then
      .next (pushBqa { taken := true, target := there } (s.upd (·.later 2 kn ((k - 1).setWidth 64))))
    else .next (pushBqa { taken := false, target := next } (s.upd (·.later 2 kn 0)))

end Sys2Proof.Machine
end

