-- ==== Sys2Proof/Machine/Mem.lean ====
section
/-!
DEFINITION. Device memory: the map of R195, the memory-side caches with their read counts (R194, R198, R215), the format
windows that decode and re-encode lines (R121–R131), and the one way every agent reads or writes bytes at the serving
point (R223). Offsets here are physical.
-/
namespace Sys2Proof.Machine

/-! ## The map (R195) -/

/-- Where the lines of other devices stand in this model's numbering: by intermediate address, from here on (R199,
R331). -/
def farBase : Nat := 2 ^ 46

def farLine (ia : Nat) : Nat := farBase + ia / 64

def isFarLine (ln : Nat) : Bool := farBase ≤ ln

/-- The address that stands for an intermediate address of another device. -/
def farAddr (ia : Nat) : Nat := 2 ^ 52 + ia

/-- What lies behind a device offset. -/
inductive Region where
  | hbm (s : Nat)
  | lp6 (c : Nat)
  | commons (h n : Nat)
  | regs (h : Nat)
  | hole
  deriving DecidableEq, Repr

/-- An address of another device counts by its offset there. -/
def Region.of (addr : Nat) : Region :=
  let off := if 2 ^ 52 ≤ addr then addr % 2 ^ 42 else addr
  if off < 2 ^ 39 then .hbm (off / 2 ^ 36)
  else if off < 2 ^ 40 then .hole
  else if off < 2 ^ 41 then .lp6 ((off - 2 ^ 40) / 2 ^ 36)
  else if off < 2 ^ 41 + 2 ^ 29 then .commons ((off - 2 ^ 41) / 2 ^ 28) ((off - 2 ^ 41) % 2 ^ 28 / 2 ^ 22)
  else if 3 * 2 ^ 40 ≤ off ∧ off < 3 * 2 ^ 40 + 2 ^ 37 then .regs ((off - 3 * 2 ^ 40) / 2 ^ 36)
  else .hole

/-- The owning H-die (R18, R195). -/
def ownerOf (off : Nat) : Nat :=
  match Region.of off with
  | .hbm s => s / 4
  | .lp6 c => c / 8
  | .commons h _ => h
  | .regs h => h
  | .hole => 0

/-- Kind of memory that a page may map to: 0 HBM or LP6, 1 commons, 2 registers, 3 none (R393). -/
def regionKind (off : Nat) : Nat :=
  match Region.of off with
  | .hbm _ => 0
  | .lp6 _ => 0
  | .commons _ _ => 1
  | .regs _ => 2
  | .hole => 3

/-- A line of HBM, park tier or commons: it carries a tag, a stamp and a poison bit (R314, R408). -/
def tagged (p : Nat) : Bool := regionKind p ≤ 1

def isCommons (off : Nat) : Bool :=
  match Region.of off with
  | .commons _ _ => true
  | _ => false

def isHbm (off : Nat) : Bool :=
  match Region.of off with
  | .hbm _ => true
  | _ => false

def isPark (off : Nat) : Bool :=
  match Region.of off with
  | .lp6 _ => true
  | _ => false

/-- Memory stands behind the offset on this part: 48 GB of each fitted stack, what the module maker fitted of each
channel, and every commons bank and register (R1, R21, R195). Which stacks and channels a part lacks is the part's own, and each
one's aperture is then unpopulated (R426); MCFG gives their number alone (log 34). -/
def State.populated (s : State) (off : Nat) : Bool :=
  match Region.of off with
  | .hbm n => !s.board.hbmOff.contains n && off % 2 ^ 36 < 48 * 10 ^ 9
  | .lp6 n => !s.board.lp6Off.contains n && off % 2 ^ 36 < min (Tab.get lp6Full s.board.lp6Cap n) lp6Full
  | .commons _ _ => true
  | .regs _ => true
  | .hole => false

/-! ## Bytes and lines -/

def memBytes (m : List Host.Cell) (a n : Nat) : List Byte := (upTo n).map (fun i => Tab.get 0 m (a + i))

/-- Bytes written from address `a` on; none leaves its byte as it is. -/
def memPut (m : List Host.Cell) (a : Nat) : List (Option Byte) → List Host.Cell
  | [] => m
  | none :: bs => memPut m (a + 1) bs
  | some b :: bs => memPut (Tab.set 0 m a b) (a + 1) bs

/-- Bytes of this device's memory, or of another's, at an address. -/
def State.memByte (s : State) (a : Nat) : Byte :=
  if 2 ^ 52 ≤ a then Tab.get 0 s.far (a - 2 ^ 52) else Tab.get 0 s.mem a

def State.memAt (s : State) (a n : Nat) : List Byte := (upTo n).map (fun i => s.memByte (a + i))

def State.memWrite (s : State) (a : Nat) (bs : List (Option Byte)) : State :=
  if 2 ^ 52 ≤ a then { s with far := memPut s.far (a - 2 ^ 52) bs } else { s with mem := memPut s.mem a bs }

def lineBytes (d : BitVec 512) : List Byte := leBytes 64 d.toNat

def lineOf (bs : List Byte) : BitVec 512 := BitVec.ofNat 512 (leNat bs)

/-- Bytes `bs` over those of `old` from index `o` on. -/
def overlay : List Byte → Nat → List (Option Byte) → List Byte
  | [], _, _ => []
  | b :: t, 0, [] => b :: t
  | b :: t, 0, x :: xs => x.getD b :: overlay t 0 xs
  | b :: t, o + 1, xs => b :: overlay t o xs

def State.lineMeta (s : State) (ln : Nat) : LineMeta := Tab.get {} s.tags ln

def State.modMeta (s : State) (ln : Nat) (f : LineMeta → LineMeta) : State :=
  { s with tags := Tab.modify {} s.tags ln f }

/-- The line as its owning LLC holds it. -/
def State.cached (s : State) (ln : Nat) : Option LLine := Tab.get none (s.hdie (ownerOf (64 * ln))).llc ln

def State.setCached (s : State) (ln : Nat) (x : Option LLine) : State :=
  s.modHdie (ownerOf (64 * ln)) (fun h => { h with llc := Tab.set none h.llc ln x })

/-- A byte as a plain line holds it, in the LLC or in memory: the form in which encoded ranges are read (R131). -/
def State.rawByte (s : State) (a : Nat) : Byte :=
  match s.cached (a / 64) with
  | some l => ((lineBytes l.data)[a % 64]?).getD 0
  | none => Tab.get 0 s.mem a

/-- Bytes of a plain range, written to memory and to a line that holds them. -/
def State.rawPut (s : State) (a : Nat) : List Byte → State
  | [] => s
  | b :: bs =>
    let s := { s with mem := Tab.set 0 s.mem a b }
    let s := match s.cached (a / 64) with
      | some l => s.setCached (a / 64) (some { l with data := lineOf (overlay (lineBytes l.data) (a % 64) [some b]) })
      | none => s
    s.rawPut (a + 1) bs

/-! ## Format windows (R121–R131) -/

/-- Decoded element size (R127). -/
def Fwin.d (w : Fwin) : Nat := if w.tgt then 4 else 2

/-- The decode target (R126). -/
def Fwin.target (w : Fwin) : Fmt := if w.tgt then f32 else bf16

def Fwin.base (w : Fwin) : Nat := w.img.toNat * 65536

def Fwin.bytes (w : Fwin) : Nat := w.units.toNat * 65536

def Fwin.encAt (w : Fwin) : Nat := w.enc.toNat * 64

def Fwin.auxAt (w : Fwin) : Nat := w.aux.toNat * 32

/-- Bytes of the encoded range and of the AUX range (R127). -/
def Fwin.encBytes (w : Fwin) : Nat := if w.fmt = 0 then w.bytes / (2 * w.d) else w.bytes / w.d

def Fwin.auxBytes (w : Fwin) : Nat := if w.fmt = 0 then 32 else w.bytes / (32 * w.d)

/-- The enabled window whose image holds a physical offset. -/
def State.fwinAt (s : State) (off : Nat) : Option (Nat × Fwin) :=
  let h := ownerOf off
  ((s.hdie h).fwin.find? (fun e => e.2.en && e.2.base ≤ off && off < e.2.base + e.2.bytes))

/-- Element format of a scaled window; none for si8 and cb4 (R123). -/
def Fwin.elemFmt (w : Fwin) : Option Fmt := if w.fmt = 1 then some e4m3 else if w.fmt = 2 then some e5m2 else none

/-- Element `i` of a window's image, decoded from memory (R123, R125): from the bytes that stand there now, also where software
has written them while the window is enabled (log 105). -/
def State.fwinDecode (s : State) (w : Fwin) (i : Nat) : Nat :=
  if w.fmt = 0 then
    let b := (s.rawByte (w.encAt + i / 2)).toNat
    cbDecode w.tgt w.book.toNat (if i % 2 = 0 then b % 16 else b / 16)
  else
    let sc := (s.rawByte (w.auxAt + i / 32)).toNat
    let b := (s.rawByte (w.encAt + i)).toNat
    let t := w.target
    if sc = 255 then t.nanOf false
    else
      let k : Int := (sc : Int) - 127
      match w.elemFmt with
      | some f => match f.dec b with
        | .nan n => t.nanOf n
        | .inf n => t.infOf n
        | .fin n m e => t.round .rne false n m (e + k) false
      | none => let v := signed 8 b; t.round .rne false (decide (v < 0)) v.natAbs k false

/-- mix64 of R121. -/
def mix64 (x : Word) : Word :=
  let x := x ^^^ (x >>> 30)
  let x := x * 0xBF58476D1CE4E5B9
  let x := x ^^^ (x >>> 27)
  let x := x * 0x94D049BB133111EB
  x ^^^ (x >>> 31)

/-- r_j of R121. -/
def draw16 (g : Word) (j : Nat) : Nat := (g.rotateLeft (5 * j % 64)).toNat % 65536

/-- A block's 32 decoded elements re-encoded: the scale byte, none for cb4, and the elements' codes (R124, R125). -/
def Fwin.encode (w : Fwin) (block : Nat) (xs : List Nat) : Option Nat × List Nat :=
  let g := mix64 (w.seed + BitVec.ofNat 64 block)
  let sr := w.rnd == 4
  let t := w.target
  let idx := xs.zip (upTo xs.length)
  if w.fmt = 0 then
    (none, idx.map (fun x => cbEncode t w.book.toNat (if sr then some (draw16 g x.2, 16) else none) x.1))
  else
    let fin := xs.all (fun x => match t.dec x with
      | .fin _ _ _ => true
      | _ => false)
    if !fin then (some 255, xs.map (fun _ => 0))
    else
      let top := xs.foldl (fun m x => max m (t.mag x)) 0
      let p : Int := if w.fmt = 1 then 8 else if w.fmt = 2 then 15 else 6
      let lg : Int := match t.dec top with
        | .fin _ m e => if m = 0 then 0 else (bitLen 64 m : Int) - 1 + e - p
        | _ => 0
      let sc : Nat := (min (max (lg + 127) 0) 254).toNat
      let k : Int := (sc : Int) - 127
      (some sc, idx.map (fun x =>
        let md := if sr then Mode.sr (draw16 g x.2) 16 else .rne
        match t.dec x.1 with
        | .fin n m e => match w.elemFmt with
          | some f => f.round md true n m (e - k) false
          | none => wrap 8 ((Ty.int 8).ofFp md (.fin n m (e - k)))
        | _ => 0))

/-- The lines of one block: two for an f32 target (R129). -/
def Fwin.lines (w : Fwin) (ln : Nat) : List Nat := if w.tgt then [ln / 2 * 2, ln / 2 * 2 + 1] else [ln]

/-- A line as memory gives it: decoded in an image, plain elsewhere (R129). -/
def State.backing (s : State) (ln : Nat) : BitVec 512 :=
  match s.fwinAt (64 * ln) with
  | none => lineOf (s.memAt (64 * ln) 64)
  | some (_, w) =>
    let n := 64 / w.d
    let i := (64 * ln - w.base) / w.d
    lineOf ((upTo n).flatMap (fun k => leBytes w.d (s.fwinDecode w (i + k))))

/-- The dirty block of an image re-encoded into its ranges (R130). -/
def State.fwinWriteBack (s : State) (w : Fwin) (ln : Nat) : State :=
  let ls := w.lines ln
  let bytes := ls.flatMap (fun l => lineBytes ((s.cached l).elim (s.backing l) (·.data)))
  let xs := (upTo 32).map (fun i => leNat ((bytes.drop (i * w.d)).take w.d))
  let b := (64 * (ls.headD ln) - w.base) / (32 * w.d)
  let (sc, codes) := w.encode b xs
  let s := match sc with
    | some k => s.rawPut (w.auxAt + b) [BitVec.ofNat 8 k]
    | none => s
  if w.fmt = 0 then
    s.rawPut (w.encAt + 16 * b) ((upTo 16).map (fun i => BitVec.ofNat 8 ((codes[2 * i]?).getD 0 + 16 * (codes[2 * i + 1]?).getD 0)))
  else s.rawPut (w.encAt + 32 * b) (codes.map (BitVec.ofNat 8))

/-- A dirty line is written back and is clean from now on (R130, R198). -/
def State.writeBack (s : State) (ln : Nat) : State :=
  match s.cached ln with
  | none => s
  | some l =>
    if !l.dirty then s
    else match s.fwinAt (64 * ln) with
      | none =>
        { s with mem := memPut s.mem (64 * ln) ((lineBytes l.data).map some) }.setCached ln (some { l with dirty := false })
      | some (_, w) =>
        (w.lines ln).foldl (fun s k => match s.cached k with
          | some x => s.setCached k (some { x with dirty := false })
          | none => s) (s.fwinWriteBack w ln)

/-- The lines that are installed and leave together with `ln` (R129). -/
def State.block (s : State) (ln : Nat) : List Nat :=
  match s.fwinAt (64 * ln) with
  | some (_, w) => w.lines ln
  | none => [ln]

/-- Written back and invalidated; the two lines of an f32 block go together (R129, R198). -/
def State.evictLine (s : State) (ln : Nat) : State :=
  let ls := s.block ln
  ls.foldl (fun s k => s.setCached k none) (ls.foldl State.writeBack s)

/-- Invalidated without write-back (R219). -/
def State.dropLine (s : State) (ln : Nat) : State := (s.block ln).foldl (fun s k => s.setCached k none) s

/-! ## Reading and writing at the serving point (R223) -/

/-- A line as every reader sees it now. -/
def State.lineNow (s : State) (ln : Nat) : BitVec 512 := (s.cached ln).elim (s.backing ln) (·.data)

/-- A byte as every reader sees it now. -/
def State.byteNow (s : State) (a : Nat) : Byte :=
  match s.cached (a / 64), s.fwinAt a with
  | none, none => s.memByte a
  | _, _ => ((lineBytes (s.lineNow (a / 64)))[a % 64]?).getD 0

def State.bytesNow (s : State) (a n : Nat) : List Byte := (upTo n).map (fun i => s.byteNow (a + i))

def State.wordNow (s : State) (a : Nat) : Word := BitVec.ofNat 64 (leNat (s.bytesNow a 8))

/-- The lines of a range. -/
def linesIn (a n : Nat) : List Nat := if n = 0 then [] else (upTo ((a + n - 1) / 64 + 1 - a / 64)).map (· + a / 64)

/-- A plain store clears the stamp of its lines (R232), and a whole or partial overwrite leaves poison as it stands. -/
def State.clearStamps (s : State) (a n : Nat) : State :=
  (linesIn a n).foldl (fun s l => s.modMeta l (fun m => { m with stamp := none })) s

/-! ## Operand store (R178, R200) -/

/-- The physical offset of logical offset `o` of a slot (R178, R271). -/
def swz (code o : Nat) : Nat :=
  match code with
  | 1 => o - field o 8 7 * 2 ^ 7 + (field o 8 7 ^^^ field o 11 10) * 2 ^ 7
  | 2 => o - bool1 (bit o 11) * 2 ^ 11 - bool1 (bit o 5) * 2 ^ 5 + bool1 (bit o 5) * 2 ^ 11 + bool1 (bit o 11) * 2 ^ 5
  | 3 =>
    let r := field o 11 6
    r % 2 * 2 ^ 11 + r / 2 * 2 ^ 6 + o % 64
  | _ => o

/-- The address behind logical operand-store address `a` under a swizzle. -/
def swzAddr (code a : Nat) : Nat := a / 4096 * 4096 + swz code (a % 4096)

/-- Plain accesses read operand store as addressed (R201). -/
def Cluster.osBytes (k : Cluster) (a n : Nat) : List Byte := memBytes k.os a n

def State.osBytes (s : State) (cl a n : Nat) : List Byte := memBytes (s.cluster cl).os a n

def State.osPut (s : State) (cl a : Nat) (bs : List (Option Byte)) : State :=
  s.modCluster cl (fun k => { k with os := memPut k.os a bs })

/-- The tag of an operand-store slot (R178). -/
def State.tag (s : State) (cl slot : Nat) : Tag := Tab.get {} (s.cluster cl).tags slot

def State.setTag (s : State) (cl slot : Nat) (t : Tag) : State :=
  s.modCluster cl (fun k => { k with tags := Tab.set {} k.tags slot t })

end Sys2Proof.Machine
end

