-- ==== Sys2Proof/Machine/Walk.lean ====
section
/-!
DEFINITION. From a virtual address to the place that serves it: windows (R390, R391), page tables and the translation
caches (R393, R394), pages in migration (R401), and the tokens of outstanding page faults (R395, R398).
-/
namespace Sys2Proof.Machine

/-! ## Windows (R390) -/

/-- What an access needs of its window. -/
structure Need where
  r : Bool := false
  w : Bool := false
  x : Bool := false
  deriving DecidableEq, Repr

def Need.read : Need := { r := true }
def Need.write : Need := { w := true }
def Need.both : Need := { r := true, w := true }
def Need.fetch : Need := { x := true }

def Window.low (w : Window) : Nat := w.base.toNat * 65536

def Window.high (w : Window) : Nat := w.limit.toNat * 65536 + 0xFFFF

/-- The enabled window that matches a virtual address. -/
def Ctx.windowAt (x : Ctx) (va : Nat) : Option Window :=
  ((upTo 16).map (Tab.get {} x.win)).find? (fun w => w.en && w.low ≤ va && va ≤ w.high)

/-- The barrier aperture of H-die 0 (R246). -/
def inAperture (off : Nat) : Bool := 3 * 2 ^ 40 + 0x20000 ≤ off && off < 3 * 2 ^ 40 + 0x25000

/-- A window admits the access (R390). -/
def Window.admits (w : Window) (smode : Bool) (n : Need) : Bool :=
  (!n.r || w.r) && (!n.w || w.w) && (!n.x || w.x) && (!w.so || smode)

/-- The intermediate address that a window gives (R390): 52 bits. -/
def Window.ia (w : Window) (va : Nat) : Nat := (w.xlat.toNat * 65536 + (va - w.low)) % 2 ^ 52

/-- Where an address goes by the windows alone; none is WINFAULT (R202, R390). -/
def State.place (s : State) (ctx : Nat) (smode : Bool) (n : Need) (va : Nat) : Option Place :=
  if 2 ^ 56 ≤ va then none
  else match (s.ctx ctx).windowAt va with
    | none => none
    | some w =>
      if !w.admits smode n then none
      else
        let ia := w.ia va
        let off := ia % 2 ^ 42
        if w.host then some (.host ia)
        else if regionKind off == 2 && !w.so && !inAperture off then none
        else if ia / 2 ^ 42 != s.board.devid.toNat then some (.far ia)
        else some (.dev off)

def State.route (s : State) (d : Nat) : Route := Tab.get {} s.board.routes d

def State.port (s : State) (p : Nat) : Port := Tab.get {} s.board.ports p

def State.modPort (s : State) (p : Nat) (f : Port → Port) : State :=
  { s with board := { s.board with ports := Tab.modify {} s.board.ports p f } }

/-- A route to a device exists, and not every port of it is DOWN (R432). -/
def State.routed (s : State) (d : Nat) : Bool :=
  let r := s.route d
  s.board.domEn && r.v && ((s.port r.pri.toNat).state != 0 || (r.av && (s.port r.alt.toNat).state != 0))

/-- An address of another device of the domain (R390, R432). -/
def State.inDomain (s : State) (ia : Nat) : Bool := s.routed (ia / 2 ^ 42)

/-- The port that a request to a device uses (R432). -/
def State.portTo (s : State) (d : Nat) : Nat :=
  let r := s.route d
  if (s.port r.pri.toNat).state = 2 || !r.av then r.pri.toNat else r.alt.toNat

/-- One more flit leaves through a port: the replay buffer holds the last 256 (R431). -/
def Port.sendFlit (d : Nat) (c : Cargo) (p : Port) : Port :=
  let l := p.replay ++ [(p.txSeq, d, c)]
  { p with txSeq := p.txSeq + 1, replay := l.drop (l.length - 256) }

/-- A flit to device `d` leaves through port `p`. -/
def State.flitOut (s : State) (p d : Nat) (c : Cargo) : State :=
  let s : State := { s with board := { s.board with wire := (p, (s.port p).txSeq, d, c) :: s.board.wire } }
  s.modPort p (Port.sendFlit d c)

def State.transmit (s : State) (d : Nat) (c : Cargo) : State := s.flitOut (s.portTo d) d c

/-- A message leaves for another device, or for the host; the newest stands first. -/
def State.send (s : State) (m : Msg) : State := { s with board := { s.board with outbox := m :: s.board.outbox } }

/-- What hardware would have sent to a device without a route is counted at the primary port (R432). -/
def State.countDrop (s : State) (d : Nat) : State := s.modPort (s.route d).pri.toNat (fun p => { p with drop := min 65535 (p.drop + 1) })

/-- A message that hardware sends to a device: dropped and counted where there is no route (R432). -/
def State.sendTo (s : State) (d : Nat) (m : Msg) : State :=
  if d = s.board.devid.toNat then s.send m
  else if s.routed d then (s.transmit d (.message m)).send m
  else s.countDrop d

/-! ## Page tables (R393) -/

/-- What the walk of an offset finds. -/
inductive Walked where
  | leaf (e : TlbEnt)
  | invalid
  | malformed
  deriving DecidableEq, Repr

/-- Bits of a page table entry. -/
def pteValid (e : Word) : Bool := e.getLsbD 0
def pteLeaf (e : Word) : Bool := e.getLsbD 1
def pteP64 (e : Word) : Bool := e.getLsbD 2
def pteRo (e : Word) : Bool := e.getLsbD 3
def pteFrame (e : Word) : Nat := field e.toNat 41 12 * 4096
def pteReserved (e : Word) : Bool := field e.toNat 63 42 != 0 || field e.toNat 11 4 != 0

/-- A frame of `size` bytes that an entry for offset page `page` may name: aligned, populated, of the owner, and of the
region's kind; commons and registers map to themselves (R393). -/
def State.frameOk (s : State) (page frame size : Nat) : Bool :=
  frame % size == 0 && s.populated frame && s.populated (frame + size - 1)
    && ownerOf frame == ownerOf page && ownerOf (frame + size - 1) == ownerOf page
    && regionKind frame == regionKind page && regionKind (frame + size - 1) == regionKind page
    && (regionKind page == 0 || frame == page)

/-- The page table entry that maps an offset, by its address, and its level: a leaf, or where the walk ends (R393). The
list holds the levels still to walk: shift and whether the level is L0. -/
def State.walkFrom (s : State) (ctx off : Nat) : List Nat → Nat → Walked
  | [], _ => .malformed
  | sh :: rest, table =>
    let e := s.wordNow (table + 8 * (off / 2 ^ sh % (if sh = 39 then 8 else 512)))
    let size := 2 ^ sh
    if !pteValid e then .invalid
    else if pteReserved e then .malformed
    else if sh != 12 && pteP64 e then .malformed
    else if !pteLeaf e then
      if sh = 12 then .malformed
      else
        let t := pteFrame e
        if s.populated t && regionKind t == 0 && ownerOf t == ownerOf off then s.walkFrom ctx off rest t else .malformed
    else if sh = 39 then .malformed
    else if sh = 12 then
      -- the sixteen entries of the aligned group agree about P64 (R393)
      let first := table + 8 * (off / 65536 * 16 % 512)
      let group := (upTo 16).map (fun i => s.wordNow (first + 8 * i))
      if pteP64 e then
        let page := off / 65536 * 65536
        if group.all (fun x => x == e) && s.populated page && s.populated (page + 65535) && s.frameOk page (pteFrame e) 65536
        then .leaf { ctx := ctx, page := page, frame := pteFrame e, size := 65536, ro := pteRo e }
        else .malformed
      else
        let page := off / 4096 * 4096
        if group.all (fun x => !pteP64 x) && s.populated page && s.populated (page + 4095)
            && s.frameOk page (pteFrame e) 4096
        then .leaf { ctx := ctx, page := page, frame := pteFrame e, size := 4096, ro := pteRo e }
        else .malformed
    else
      let page := off / size * size
      if s.populated page && s.populated (page + size - 1) && s.frameOk page (pteFrame e) size
      then .leaf { ctx := ctx, page := page, frame := pteFrame e, size := size, ro := pteRo e }
      else .malformed

def ptroot (x : Ctx) (h : Nat) : Nat := (if h = 0 then x.ptroot0 else x.ptroot1).toNat / 64 * 64 % 2 ^ 52

/-- The entry that the owning H-die uses: the one it has cached, else the one the walk finds (R393, R394). -/
def State.lookup (s : State) (ctx off : Nat) : Walked :=
  let h := ownerOf off
  match (s.hdie h).tlb.find? (fun e => e.ctx == ctx && e.page ≤ off && off < e.page + e.size) with
  | some e => .leaf e
  | none => s.walkFrom ctx off [39, 30, 21, 12] (ptroot (s.ctx ctx) h)

/-- The outcome of translating an intermediate offset of this device. -/
inductive Page where
  | ok (p : Nat)
  /-- a page fault (R393) -/
  | fault
  /-- PAGEFAIL with no record (R196, R393) -/
  | bad
  /-- the piece is MIGRATING, its commons or window is changing, its line is under re-encoding, or another device has its
  fault in service: the access waits (R128, R196, R199, R401, R410) -/
  | moving
  deriving DecidableEq, Repr

/-- The migration of the page that holds an offset (R401). -/
def State.migrOf (s : State) (ctx off : Nat) : Option Migr :=
  (s.hdie (ownerOf off)).migr.find? (fun m => m.ctx == ctx && m.page ≤ off && off < m.page + m.size)

/-- The line of a physical offset is under re-encoding (R410). -/
def State.recoding (s : State) (p : Nat) : Bool := s.board.ecc.any (fun e => e.2.coding == some (p / 64))

/-- The physical place of an offset once its page is known: pieces already moved are served from the new frame (R401). -/
def State.settle (s : State) (e : TlbEnt) (off : Nat) : Page :=
  let p := e.frame + (off - e.page)
  let moved : Page := match s.migrOf e.ctx off with
    | none => .ok p
    | some m =>
      let k := (off - m.page) / 4096
      if k = m.next then .moving else if k < m.next then .ok (m.dst + (off - m.page)) else .ok p
  match moved with
  | .ok p =>
    let there : Page := match Region.of p with
      | .commons h n => if (s.hdie h).splitBusy then .moving else if n < 8 * (s.hdie h).nstep then .ok p else .bad
      | _ => .ok p
    match there, s.fwinAt p with
    | .ok p, some (_, w) => if (w.busy && w.closing) || s.recoding p then .moving else .ok p
    | .ok p, none => if s.recoding p then .moving else .ok p
    | x, _ => x
  | x => x

/-- The physical offset behind an intermediate offset of this device (R393). -/
def State.phys (s : State) (ctx off : Nat) (write : Bool) : Page :=
  if regionKind off == 3 then .bad
  else match s.lookup ctx off with
    | .invalid => .fault
    | .malformed => .bad
    | .leaf e => if write && e.ro then .fault else s.settle e off

/-- What an intermediate address of another device answers: PAGEFAIL with no route or no memory there, else what page
service at the target makes of it (R199, R432). -/
def State.farPhys (s : State) (ia : Nat) (write : Bool) : Page :=
  if !s.inDomain ia || regionKind (farAddr ia) == 3 then .bad
  else match Tab.get .there s.farPages (ia / 4096) with
    | .there => .ok (farAddr ia)
    | .waits => .moving
    | .fails => .bad
    | .readOnly => if write then .moving else .ok (farAddr ia)

/-- The H-die keeps the entry that an access used (R393). -/
def State.learn (s : State) (ctx off : Nat) : State :=
  let h := ownerOf off
  if (s.hdie h).tlb.any (fun e => e.ctx == ctx && e.page ≤ off && off < e.page + e.size) then s
  else match s.walkFrom ctx off [39, 30, 21, 12] (ptroot (s.ctx ctx) h) with
    | .leaf e => s.modHdie h (fun d => { d with tlb := d.tlb ++ [e] })
    | _ => s

/-! ## Tokens (R395, R398) -/

/-- The lowest free token; none while all 8,192 are held. -/
def HDie.freeToken (h : HDie) : Option Nat :=
  if h.tokens.length ≥ 8192 then none
  else least (fun n => h.tokens.all (fun t => t.num != n)) (h.tokens.length + 1)

/-- A fault on a page joins the token the page holds, else takes one, else waits for one under a number of its own at or
above 8,192 (R395). The number that the access waits on is returned. -/
def State.pageFault (s : State) (h ctx page kind : Nat) : Nat × State :=
  let d := s.hdie h
  match d.tokens.find? (fun t => t.ctx == ctx && t.page == page) with
  | some t =>
    (t.num, s.modHdie h (fun d => { d with tokens := d.tokens.map (fun u =>
      if u.num = t.num then { u with count := u.count + 1 } else u) }))
  | none =>
    match d.noToken.find? (fun r => r.ctx == ctx && r.page == page) with
    | some r =>
      (r.token, s.modHdie h (fun d => { d with noToken := d.noToken.map (fun u =>
        if u.token = r.token then { u with count := u.count + 1 } else u) }))
    | none =>
      let gen := (s.ctx ctx).gen
      -- faults that wait already come first
      match if d.noToken.isEmpty then d.freeToken else none with
      | some n =>
        (n, s.modHdie h (fun d =>
          { d with
            tokens := d.tokens ++ [{ num := n, ctx := ctx, gen := gen, page := page, kind := kind, count := 1, time := s.time }]
            recs := d.recs ++ [{ page := page, kind := kind, ctx := ctx, gen := gen, count := 1, token := n, time := s.time }] }))
      | none =>
        let n := 8192 + s.fresh
        (n, { s.modHdie h (fun d => { d with noToken := d.noToken ++
          [{ page := page, kind := kind, ctx := ctx, gen := gen, count := 1, token := n, time := s.time }] }) with
              fresh := s.fresh + 1 })

/-- The token that each waiting agent waits on, renamed or released by `f` (R395, R398). -/
def State.mapTokens (f : Nat × Nat → Option (Nat × Nat)) (s : State) : State :=
  let grp := fun (g : Group) => { g with pageWait := g.pageWait.bind f }
  { s with
    cores := s.cores.map (fun e => (e.1, { e.2 with
      bank0 := e.2.bank0.map grp
      bank1 := e.2.bank1.map grp
      mat := { e.2.mat with epRun := e.2.mat.epRun.map (fun r => ({ r.1 with token := r.1.token.bind f }, r.2)) }
      fetch := e.2.fetch.map (fun l => { l with token := l.token.bind f }) }))
    clusters := s.clusters.map (fun e => (e.1, { e.2 with
      outbound := e.2.outbound.map (fun a => { a with token := a.token.bind f })
      copies := e.2.copies.map (fun c => { c with token := c.token.bind f }) }))
    tags := s.tags.map (fun e => (e.1, { e.2 with eval := e.2.eval.map (fun v => { v with token := v.token.bind f }) }))
    hdies := s.hdies.map (fun e => (e.1, { e.2 with held := e.2.held.map (fun r => { r with token := r.token.bind f }) }))
    ctxs := s.ctxs.map (fun e => (e.1, { e.2 with lrToken := e.2.lrToken.bind f }))
    shares := s.shares.map (fun h => { h with token := h.token.bind f })
    tasks := s.tasks.map (fun t => { t with token := t.token.bind f })
    decodes := s.decodes.map (fun d => { d with token := d.token.bind f }) }

/-- The page of a fault: 4 KiB of the intermediate space (R395, R397). -/
def pageOf (off : Nat) : Nat := off / 4096 * 4096

/-! ## Hardware's own accesses for a context (R451) -/

/-- What a read or write on behalf of a context meets at one address. -/
inductive Reach where
  /-- memory of this device, or of another at its `farAddr` -/
  | dev (p : Nat)
  | host (a : Nat)
  /-- page service: H-die and page -/
  | wait (h page : Nat)
  /-- MIGRATING -/
  | moving
  | fail (cause : BitVec 8)
  deriving DecidableEq, Repr

/-- The place behind a virtual address, windows and pages together. -/
def State.reach (s : State) (ctx : Nat) (smode : Bool) (n : Need) (va : Nat) : Reach :=
  let found := fun (off : Nat) (p : Page) => match p with
    | .ok p => Reach.dev p
    | .fault => .wait (ownerOf off) (pageOf off)
    | .bad => .fail PAGEFAIL
    | .moving => .moving
  match s.place ctx smode n va with
  | some (.host a) => .host a
  | some (.far ia) => found ia (s.farPhys ia n.w)
  | some (.dev off) => found off (s.phys ctx off n.w)
  | _ => .fail WINFAULT

end Sys2Proof.Machine
end

