-- ==== Sys2Proof/Machine/Cache.lean ====
section
/-!
DEFINITION. The memory-side caches at work (R194, R198): banks and ways (R196, R359), tensors and the victim order
(R198, R217–R219), read counts (R215), STNT (R210), image lines (R129), and every agent's reads and writes through them.
-/
namespace Sys2Proof.Machine

/-! ## Cells of a line (R314) -/

/-- Cell tags of R314. -/
def cVALUE : BitVec 2 := 0
def cSUSPENDED : BitVec 2 := 1
def cEVALUATING : BitVec 2 := 2
def cFAILED : BitVec 2 := 3

def State.cell (s : State) (ln : Nat) : BitVec 2 := (s.lineMeta ln).cell

/-- The tag of a line, of this device or of another. The line of an enabled format window's image holds only VALUE
(R129, R314, R331). -/
def State.cellOf (s : State) (ln : Nat) : BitVec 2 :=
  if isFarLine ln then Tab.get 0 s.farTags (ln - farBase)
  else if (s.fwinAt (64 * ln)).isSome then cVALUE else s.cell ln

/-- A line that hardware's own accesses may read: VALUE and not poisoned (R451). -/
def State.plainLine (s : State) (p : Nat) : Bool := s.cellOf (p / 64) == cVALUE && !(s.lineMeta (p / 64)).poison

/-! ## Tensors (R217) -/

/-- The intermediate offset of an address that lies in one window with the rest of its range, on this device. -/
def State.tensorOff (s : State) (ctx base len : Nat) : Option Nat :=
  match (s.ctx ctx).windowAt base with
  | some w =>
    if w.high < base + len - 1 || w.host || w.ia base / 2 ^ 42 != s.board.devid.toNat then none else some (w.ia base % 2 ^ 42)
  | none => none

/-- The mapped pages of offsets `off` up to `stop`. -/
def State.pagesFrom (s : State) (ctx stop : Nat) : Nat → Nat → List TlbEnt
  | 0, _ => []
  | fuel + 1, off =>
    if stop ≤ off then []
    else match s.walkFrom ctx off [39, 30, 21, 12] (ptroot (s.ctx ctx) (ownerOf off)) with
      | .leaf e => e :: s.pagesFrom ctx stop fuel (e.page + e.size)
      | _ => s.pagesFrom ctx stop fuel (off / 4096 * 4096 + 4096)

def State.tensorPages (s : State) (ctx : Nat) (h : Handle) : List TlbEnt :=
  match s.tensorOff ctx h.base h.len with
  | some off => s.pagesFrom ctx (off + h.len) (h.len / 4096 + 1) off
  | none => []

/-- The frames of a page: while it moves, the new one too. -/
def State.framesOf (s : State) (e : TlbEnt) : List Nat :=
  match s.migrOf e.ctx e.page with
  | some m => [e.frame, m.dst]
  | none => [e.frame]

/-- Resident lines of a tensor. -/
def State.tensorLines (s : State) (ctx : Nat) (h : Handle) : List Nat :=
  match s.tensorOff ctx h.base h.len with
  | none => []
  | some off =>
    let pages := s.tensorPages ctx h
    let inside := fun (ln : Nat) => pages.any (fun e => (s.framesOf e).any (fun f =>
      f ≤ 64 * ln && 64 * ln < f + e.size && off ≤ e.page + (64 * ln - f) && e.page + (64 * ln - f) < off + h.len))
    ((s.hdies.flatMap (fun d => d.2.llc.map (·.1))).filter inside)

/-- The handle that a line lies under: context, number, priority. -/
def State.handleOf (s : State) (ln : Nat) : Option (Nat × Nat × Nat) :=
  (s.ctxs.flatMap (fun x => (x.2.handles.filter (fun h => h.2.used)).filterMap (fun h =>
    if (s.tensorLines x.1 h.2).contains ln then some (x.1, h.1, h.2.prio.toNat) else none))).head?

def State.modHandle (s : State) (ctx n : Nat) (f : Handle → Handle) : State :=
  s.modCtx ctx (fun x => { x with handles := Tab.modify {} x.handles n f })

def State.handle (s : State) (ctx n : Nat) : Handle := Tab.get {} (s.ctx ctx).handles n

/-- Written back and invalidated, line by line. -/
def State.evictLines (s : State) (l : List Nat) : State := l.foldl State.evictLine s

/-! ## Banks and ways (R196, R198, R359) -/

/-- Banks of an H-die that serve as LLC and are powered: a bank that a change of split moves serves as neither. -/
def HDie.poweredBanks (d : HDie) : List Nat :=
  let n := if d.splitBusy then max d.nstep d.nstepNew else d.nstep
  ((upTo 64).filter (8 * n ≤ ·)).filter (fun b => !d.gatedBanks.contains b)

/-- Resident lines of the set of `ln`. -/
def HDie.setOf (d : HDie) (ln : Nat) : List (Nat × LLine) :=
  (d.llc.filterMap (fun e => e.2.map (fun l => (e.1, l)))).filter (fun e => Config.llcSet e.1 == Config.llcSet ln)

/-- Banks with a free way in the set of `ln`. -/
def HDie.freeBanks (d : HDie) (ln : Nat) : List Nat :=
  d.poweredBanks.filter (fun b => ((d.setOf ln).filter (fun e => e.2.bank == some b)).length < Config.llcWays)

/-- The set of `ln` has `n` free ways; an LLC of fewer lines than banks always has, since a set has a way in each bank. -/
def HDie.room (d : HDie) (ln n : Nat) : Bool :=
  d.llc.length + n ≤ d.poweredBanks.length || (d.setOf ln).length + n ≤ Config.llcWays * d.poweredBanks.length

/-- The bank that takes `ln`. -/
def HDie.bankFor (d : HDie) (ln : Nat) : Option Nat :=
  if d.room ln 1 then
    let l := d.freeBanks ln
    some ((l[Config.llcBank ln % l.length]?).getD 0)
  else none

/-! ## Victims (R198, R219) -/

/-- The place of a line in the victim order: lines that STNT hit, read counts, no handle, then handles by priority. A tensor
of priority 7 comes last of all, its streaming lines too. -/
def State.victimClass (s : State) (ln : Nat) : Nat :=
  match s.cached ln with
  | none => 0
  | some l =>
    let p := (s.handleOf ln).map (·.2.2)
    if p = some 7 then 10
    else if l.first then 0
    else if l.rc.isSome then 1
    else match p with
      | none => 2
      | some p => 3 + p

/-- The first in the victim order among the set of `ln`, the lines `keep` apart: class, then least recently used. -/
def State.victim (s : State) (ln : Nat) (keep : List Nat) : Option Nat :=
  (((s.hdie (ownerOf (64 * ln))).setOf ln).filter (fun e => !keep.contains e.1)).foldl (fun b e => match b with
    | none => some e.1
    | some j =>
      let older := e.2.lru < ((s.cached j).map (·.lru)).getD 0
      if s.victimClass e.1 < s.victimClass j || (s.victimClass e.1 == s.victimClass j && older) then some e.1 else b) none

/-- A victim leaves: a handle's line takes its whole tensor along (R198, R219). -/
def State.evictVictim (s : State) (k : Nat) : State :=
  match s.handleOf k with
  | some (x, n, _) => s.evictLines (s.tensorLines x (s.handle x n))
  | none => s.evictLine k

/-- Victims leave until the set of `ln` takes those lines of `ls` that are of it. -/
def State.fitSet (s : State) (ls : List Nat) (ln : Nat) : Nat → State
  | 0 => s
  | fuel + 1 =>
    let d := s.hdie (ownerOf (64 * ln))
    if d.llc.length + ls.length ≤ d.poweredBanks.length
        || d.room ln (ls.filter (fun k => Config.llcSet k == Config.llcSet ln)).length then s
    else match s.victim ln ls with
      | some k => (s.evictVictim k).fitSet ls ln fuel
      | none => s

/-! ## Fills (R129, R198, R215) -/

/-- Whether a write that misses allocates its line (R198, R210). -/
inductive Fill where
  /-- a store or an atomic: it allocates -/
  | yes
  /-- a copy's write, the host's or hardware's own: it does not -/
  | no
  /-- STNT: it does not, and a line that it hits goes first in the victim order -/
  | last
  deriving DecidableEq, Repr

/-- A line that no LLC holds: another device's, and commons but for an image there (R129, R197, R199). -/
def State.uncached (s : State) (ln : Nat) : Bool :=
  isFarLine ln || (isCommons (64 * ln) && (s.fwinAt (64 * ln)).isNone)

/-- One line is installed where its set has room. -/
def State.install (s : State) (rc : Option Nat) (ln : Nat) : State :=
  s.setCached ln (some { data := s.backing ln, rc := rc, bank := (s.hdie (ownerOf (64 * ln))).bankFor ln })

/-- The line becomes resident, with a read count if it is filled for one: its set gives up its victims first (R198,
R215). -/
def State.fillLine (s : State) (ln : Nat) (rc : Option Nat) : State :=
  if s.uncached ln || (s.cached ln).isSome then s
  else
    let ls := (s.block ln).filter (fun k => (s.cached k).isNone)
    let s := ls.foldl (fun s k => s.fitSet ls k ((s.hdie (ownerOf (64 * k))).llc.length)) s
    ls.foldl (fun s k => s.install rc k) s

/-- A line for which no way was free leaves after its access, with the rest of its block. -/
def State.spillLine (s : State) (ln : Nat) : State :=
  if (s.block ln).any (fun k => (s.cached k).any (fun l => l.bank.isNone)) then s.evictLine ln else s

/-- An access, in the tenth of a millisecond in which it falls; twenty tenths are kept (R359). -/
def HDie.countLine (tenth : Nat) (hit : Option LLine) (h : HDie) : HDie :=
  let add := fun (x : LlcStat) => { x with
    accesses := x.accesses + 1
    misses := x.misses + bool1 hit.isNone
    hits := match hit with
      | some l => Tab.modify 0 x.hits (l.bank.getD 0) (· + 1)
      | none => x.hits }
  { h with llcStat := (match h.llcStat with
    | x :: t => if x.tenth = tenth then add x :: t else add { tenth := tenth } :: x :: t
    | [] => [add { tenth := tenth }]).take 20 }

/-- The tenths of the millisecond that ends where tenth `g` begins (R359). -/
def HDie.lastMs (g : Nat) (h : HDie) : List LlcStat := h.llcStat.filter (fun x => g ≤ x.tenth + 10 && x.tenth < g)

/-- An access of a line: the figures of R359. -/
def State.noteLine (s : State) (ln : Nat) : State :=
  if s.uncached ln then s
  else
    let hit := s.cached ln
    s.modHdie (ownerOf (64 * ln)) (HDie.countLine (s.time / 100000) hit)

/-- The line was used just now. -/
def State.usedLine (s : State) (ln : Nat) : State :=
  match s.cached ln with
  | some l => { s.setCached ln (some { l with lru := s.fresh, first := false }) with fresh := s.fresh + 1 }
  | none => s

/-- The line is there for an access, if it may be. -/
def State.touchLine (s : State) (ln : Nat) (rc : Option Nat) : State := ((s.noteLine ln).fillLine ln rc).usedLine ln

/-! ## Reading and writing at the serving point (R223) -/

/-- The read of a line by any agent: a miss fills it, and the access's last read of it takes one from its count (R198,
R215). -/
def State.readLine (s : State) (ln : Nat) (rc : Option Nat) (last : Bool) : State :=
  if s.uncached ln then s
  else
    let s := s.touchLine ln rc
    let s := match s.cached ln with
      | some l => match l.rc with
        | some n => if !last then s else if n ≤ 1 then s.evictLine ln else s.setCached ln (some { l with rc := some (n - 1) })
        | none => s
      | none => s
    s.spillLine ln

/-- Bytes read by an agent: their values, and what the read does to the lines (R215, R223). -/
def State.devRead (s : State) (a n : Nat) (rc : Option Nat) (last : Bool := true) : List Byte × State :=
  (s.bytesNow a n, (linesIn a n).foldl (fun s l => s.readLine l rc last) s)

/-- A line of code: an instruction fetch allocates nothing (R198). -/
def State.codeRead (s : State) (a : Nat) : List Byte × State :=
  if (s.cached (a / 64)).isSome then s.devRead a 64 none else (s.bytesNow a 64, s.noteLine (a / 64))

/-- Bytes of one line written by an agent (R198, R210, R215, R223). -/
def State.putLine (s : State) (a : Nat) (bs : List (Option Byte)) (fill : Fill) : State :=
  let ln := a / 64
  let miss := (s.cached ln).isNone && (s.fwinAt (64 * ln)).isNone
  if s.uncached ln then s.memWrite a bs
  else if miss && fill != Fill.yes then (s.noteLine ln).memWrite a bs
  else
    let hit := (s.cached ln).isSome
    let s := s.touchLine ln none
    let s := match s.cached ln with
      | some l =>
        s.setCached ln (some { l with data := lineOf (overlay (lineBytes l.data) (a % 64) bs), dirty := true, rc := none
                                      first := hit && fill == Fill.last })
      | none => s
    s.spillLine ln

/-- Bytes written by an agent from `a` on, line by line. -/
def State.devPut : Nat → State → Nat → List (Option Byte) → Fill → State
  | 0, s, _, _, _ => s
  | fuel + 1, s, a, bs, fill =>
    match bs with
    | [] => s
    | _ =>
      let n := 64 - a % 64
      devPut fuel (s.putLine a (bs.take n) fill) (a + n) (bs.drop n) fill

/-- Every line that a write takes up. -/
def State.devWrite (s : State) (a : Nat) (bs : List (Option Byte)) (fill : Fill := .yes) : State :=
  State.devPut (bs.length / 64 + 2) s a bs fill

/-- A read-modify-write takes a line's read count even where it writes nothing (R215). -/
def State.uncount (s : State) (ln : Nat) : State :=
  match s.cached ln with
  | some l => s.setCached ln (some { l with rc := none })
  | none => s

end Sys2Proof.Machine
end

