-- ==== Sys2Proof/Machine/Launch.lean ====
section
/-!
DEFINITION. Task blocks and launches: the block's layout and validity (R282–R285), the choice of an operating point
(R343), the cut into shares and their places (R288, R289), task identifiers and lineage (R306, R320), readiness (R290).
-/
namespace Sys2Proof.Machine

/-! ## The task block (R282–R284) -/

/-- A little-endian field of `n` bytes at offset `o`. -/
def bytesAt (bs : List Byte) (o n : Nat) : Nat := leNat ((bs.drop o).take n)

def Block.ndim (b : Block) : Nat := field b.claim.toNat 47 46
def Block.npred (b : Block) : Nat := field b.claim.toNat 45 43
def Block.nops (b : Block) : Nat := field b.claim.toNat 42 40
/-- The axis at policy position `p`. -/
def Block.axis (b : Block) (p : Nat) : Nat := field b.claim.toNat (2 * p + 33) (2 * p + 32)
def Block.groups (b : Block) : Nat := field b.claim.toNat 30 27
def Block.ringt (b : Block) : Nat := field b.claim.toNat 26 22
def Block.osslots (b : Block) : Nat := field b.claim.toNat 21 11
def Block.osbase (b : Block) : Nat := field b.claim.toNat 10 0
def Block.home (b : Block) : Nat := field b.sched.toNat 19 13
def Block.dcore (b : Block) : Nat := field b.sched.toNat 12 11
def Block.fixed (b : Block) : Bool := b.sched.getLsbD 10
def Block.vary (b : Block) : Bool := b.sched.getLsbD 9
def Block.divisible (b : Block) : Bool := b.sched.getLsbD 8
def Block.cwsc (b : Block) : Nat := field b.sched.toNat 7 6
def Block.eclass (b : Block) : Nat := field b.sched.toNat 5 3
def Block.prio (b : Block) : Nat := field b.sched.toNat 2 0

/-- Fields of operating point `i` (R284). -/
def Block.op (b : Block) (i : Nat) : Nat := ((b.ops[i]?).getD 0).toNat
def Block.stepns (b : Block) (i : Nat) : Nat := field (b.op i) 63 32
def Block.pwr (b : Block) (i : Nat) : Nat := field (b.op i) 31 16
def Block.tiles (b : Block) (i : Nat) : Nat := field (b.op i) 12 6
def Block.variant (b : Block) (i : Nat) : Nat := field (b.op i) 5 4
def Block.level (b : Block) (i : Nat) : Nat := field (b.op i) 3 0

/-- The entry of a format variant (R282). -/
def Block.entryOf (b : Block) (v : Nat) : Word :=
  if v = 0 then b.entry else b.entry + 8 * word (signed 32 ((b.alt[v - 1]?).getD 0).toNat)

/-- A dimension's bounds, step and grain; above NDIM one step of extent 1 at coordinate 0 (R285). -/
def Block.loAt (b : Block) (d : Nat) : Int := if d ≤ b.ndim then (b.lo[d]?).getD 0 else 0
def Block.hiAt (b : Block) (d : Nat) : Int := if d ≤ b.ndim then (b.hi[d]?).getD 0 else 1
def Block.stepAt (b : Block) (d : Nat) : Nat := if d ≤ b.ndim then (b.step[d]?).getD 0 else 1
def Block.grainAt (b : Block) (d : Nat) : Nat := if d ≤ b.ndim then (b.grain[d]?).getD 0 else 0

/-- The 256 bytes of a block, as captured at launch (R282). -/
def Block.ofBytes (bs : List Byte) : Block :=
  let w := fun o => BitVec.ofNat 64 (bytesAt bs o 8)
  let four := upTo 4
  { entry := w 0
    alt := (upTo 3).map (fun i => BitVec.ofNat 32 (bytesAt bs (8 + 4 * i) 4))
    allow := bytesAt bs 0x14 4
    claim := w 0x18
    sched := w 0x20
    deadline := bytesAt bs 0x28 8
    parent := 0
    argp := w 0x38
    ops := (upTo 8).map (fun i => w (0x40 + 8 * i))
    lo := four.map (fun d => signed 32 (bytesAt bs (0x80 + 8 * d) 4))
    hi := four.map (fun d => signed 32 (bytesAt bs (0x84 + 8 * d) 4))
    step := four.map (fun d => bytesAt bs (0xA0 + 4 * d) 4)
    grain := four.map (fun d => bytesAt bs (0xB0 + 4 * d) 4)
    pred := four.map (fun d => bytesAt bs (0xC0 + 8 * d) 8)
    pval := four.map (fun d => bytesAt bs (0xE0 + 4 * d) 4)
    cwaddr := bytesAt bs 0xF0 8
    cwseq := w 0xF8 }

/-! ## Clusters (R2, R15, R21) -/

/-- Enabled: present on the part and not fenced (R21, R423). -/
def State.enabled (s : State) (c : Nat) : Bool := c < 72 && s.board.present.getLsbD c && !(s.cluster c).fenced

def State.clusterCount (s : State) : Nat := ((upTo 72).filter s.enabled).length

/-- The C-die of a cluster (R15). -/
def dieOf (c : Nat) : Nat := c / 9

/-- No cluster of the die is powered: a grade has gated it, or the device is not READY (R347, R442). -/
def State.dieGated (s : State) (c : Nat) : Bool := s.board.stage != 5 || s.gov.gated.contains (dieOf c)

/-- Enabled clusters in ascending order of (c − HOME) mod 72 (R288). -/
def State.clustersFrom (s : State) (home : Nat) : List Nat :=
  ((upTo 72).map (fun i => (home + i) % 72)).filter s.enabled

/-- Steps along an axis: ceil((HI − LO) ÷ STEP) (R288). -/
def stepsOf (lo hi : Int) (step : Nat) : Nat := ((hi - lo + step - 1) / step).toNat

/-- The context permits a scope (R387). -/
def Ctx.permits (x : Ctx) (scope : Nat) : Bool := x.scopes.getLsbD scope

/-- A block is valid (R285). -/
def State.blockValid (s : State) (ctx : Nat) (b : Block) : Bool :=
  let dims := upTo (b.ndim + 1)
  field b.claim.toNat 63 48 == 0 && !b.claim.getLsbD 31 && field b.sched.toNat 63 20 == 0
    && b.npred ≤ 4 && b.entry.toNat % 8 == 0
    && (upTo 8).all (fun i => field (b.op i) 15 13 == 0)
    && (upTo (b.nops + 1)).all (fun i =>
      1 ≤ b.tiles i && b.tiles i ≤ s.clusterCount
        && (b.variant i == 0 || ((b.alt[b.variant i - 1]?).getD 0) != 0))
    && dims.all (fun d => b.loAt d < b.hiAt d && 1 ≤ b.stepAt d && b.stepAt d < 2 ^ 31 && b.grainAt d % b.stepAt d == 0)
    && dims.all (fun d => (dims.filter (fun p => b.axis p == d)).length == 1)
    && (upTo 4).all (fun p => p ≤ b.ndim || b.axis p == 0)
    && b.osbase + b.osslots ≤ 1536 && 1 ≤ b.groups && b.groups ≤ 8 && b.ringt ≤ 16
    && s.enabled b.home
    && (upTo b.npred).all (fun n => ((b.pred[n]?).getD 0) % 16 == 0) && b.cwaddr % 16 == 0
    && (s.ctx ctx).permits b.cwsc

/-! ## Choosing an operating point (R343) -/

/-- Shares that `t` tiles cut the domain into: no more than it has steps along the axis at policy position 0 (R288). -/
def Block.sharesAt (b : Block) (t : Nat) : Nat :=
  let x := b.axis 0
  min (stepsOf (b.loAt x) (b.hiAt x) (b.stepAt x)) t

/-- Steps of the task's domain. -/
def Block.steps (b : Block) : Nat :=
  (upTo 4).foldl (fun n d => n * stepsOf (b.loAt d) (b.hiAt d) (b.stepAt d)) 1

/-- The cap of the default envelope, in 1/16 W: 1,200 W (R339). -/
def defaultCap : Nat := 19200

/-- The segment in force (R339). -/
def Governor.seg (g : Governor) : Option Segment :=
  match g.segNow, g.curve with
  | some st, some c => c.segs.find? (fun x => x.start == st)
  | _, _ => none

def Governor.cap (g : Governor) : Nat := (g.seg.map (·.cap)).getD defaultCap

/-- T at a device time: it moves toward the cap in force, or steps when the ramp field is 0 (R340). -/
def Governor.rampTarget (g : Governor) (now : Nat) : Nat :=
  let cap := g.cap
  let up := (g.seg.map (·.rup)).getD 0
  let dn := (g.seg.map (·.rdn)).getD 0
  let dt := now - g.rampAt
  if !g.live then g.target
  else if g.target ≤ cap then (if up = 0 then cap else min cap (g.target + up * dt / 10 ^ 6))
  else if dn = 0 then cap else max cap (g.target - dn * dt / 10 ^ 6)

/-- The target, lowered in a window that follows slope-excused energy (R358). -/
def Governor.targetAt (g : Governor) (now : Nat) : Nat := g.rampTarget now - g.reduce

def State.targetNow (s : State) : Nat := s.gov.targetAt s.time

/-- The cluster holds a running or ready share (R342). -/
def State.working (s : State) (c : Nat) : Bool :=
  s.shares.any (fun h => h.cluster == c && (h.state == .running || h.state == .ready))

/-- What a recomputation gives out in equal allowances: the target less the rest, which since the last recomputation has risen
no faster than the target (R340, R342, log 120). -/
def State.shareable (s : State) : Nat :=
  let t := s.targetNow
  match s.gov.given with
  | some (sum, old) => min (t - s.gov.prest) (sum + (t - old))
  | none => t - s.gov.prest

/-- The least allowance of the clusters that point `i` would use, in 1/16 W, with the new shares counted: the equal allowance,
and, where every one of those clusters has reached it, its part of what the others did not draw (R342, R343). -/
def State.allowanceFor (s : State) (b : Block) (i : Nat) : Nat :=
  let use := (s.clustersFrom b.home).take (b.sharesAt (b.tiles i))
  let cs := (upTo 72).filter (fun c => s.working c || use.contains c)
  let equal := s.shareable / max cs.length 1
  let drawn := fun (c : Nat) => (s.cluster c).dvfs.drawn
  let full := cs.filter (fun c => equal ≤ drawn c)
  let spare := cs.foldl (fun n c => n + (equal - drawn c)) 0
  equal + (if use.all full.contains then spare / max 1 full.length else 0)

/-- E_i of R343. -/
def Block.opTime (b : Block) (i : Nat) : Nat :=
  b.stepns i * ((b.steps + 4 * b.tiles i - 1) / (4 * b.tiles i))

/-- PWR × TILES × E_i: W_i of R343 up to one factor. -/
def Block.opEnergy (b : Block) (i : Nat) : Nat := b.pwr i * b.tiles i * b.opTime i

/-- The index with the least figure, the lower index on ties. -/
def leastBy (f : Nat → Nat) : List Nat → Option Nat
  | [] => none
  | i :: t => match leastBy f t with
    | none => some i
    | some j => if f j < f i then some j else some i

/-- The operating point chosen among `cand` (R343, R344). -/
def State.chooseAmong (s : State) (b : Block) (cand : List Nat) : Nat :=
  let free := ((upTo 72).filter (fun c => s.enabled c && !s.dieGated c)).length
  let feas := cand.filter (fun i => b.pwr i ≤ s.allowanceFor b i && b.level i ≤ s.gov.limit && b.tiles i ≤ free)
  let due := feas.filter (fun i => b.deadline == 0 || s.time + b.opTime i ≤ b.deadline)
  match leastBy b.opEnergy due with
  | some i => i
  | none => match leastBy b.opTime feas with
    | some i => i
    | none => (leastBy b.pwr cand).getD 0

def State.chooseOp (s : State) (b : Block) : Nat := s.chooseAmong b (upTo (b.nops + 1))

/-! ## Shares (R288, R289) -/

/-- The boxes of a task cut into T shares along the axis at policy position 0 (R288). -/
def Block.boxes (b : Block) (t : Nat) : List (List Int × List Int) :=
  let x := b.axis 0
  let st := b.stepAt x
  let n := stepsOf (b.loAt x) (b.hiAt x) st
  let lo := (upTo 4).map b.loAt
  let hi := (upTo 4).map b.hiAt
  let k := b.sharesAt t
  (upTo k).map (fun i =>
    let q0 := i * n / k
    let q1 := (i + 1) * n / k
    (lo.set x (b.loAt x + st * q0), hi.set x (min (b.loAt x + st * q1) (b.hiAt x))))

/-- Records that the context's overflow ring can hold (R387). -/
def Ctx.ovfRoom (x : Ctx) : Nat := 2 ^ (field x.lovf.toNat 4 0)

/-- Entries of a launch queue that are kept for gangs whose ARM this device has answered (R439). -/
def State.reserved (s : State) (c : Nat) : Nat :=
  (s.ctxs.flatMap (fun e => e.2.armed)).foldl (fun n a => n + a.cls.countP (· == c)) 0

/-- A cluster's launch queue, of 64 entries, has a free one (R289). -/
def State.queueRoom (s : State) (c : Nat) : Bool := (s.cluster c).launchQ.length + s.reserved c < 64

/-- A share placed at the front of a cluster's launch queue: the newest of a full queue moves to the overflow ring,
marked to return first; none when that ring is full (R289). -/
def State.placeFront (s : State) (c : Nat) (share ctx : Nat) : Option State :=
  let q := (s.cluster c).launchQ
  if s.queueRoom c then some (s.modCluster c (fun k => { k with launchQ := share :: q }))
  else
    match q.getLast? with
    | none => none
    | some last =>
      let owner := ((s.share last).map (·.ctx)).getD ctx
      let x := s.ctx owner
      if x.ovf.length < x.ovfRoom then
        some ((s.modCtx owner (fun x => { x with ovf := x.ovf ++ [{ share := last, cluster := c, first := true }] })).modCluster c
          (fun k => { k with launchQ := share :: q.dropLast }))
      else none

/-- The overflowed shares of a cluster, with their contexts: those marked to return first before the others. -/
def State.overflowed (s : State) (cl : Nat) : List (Nat × Ovf) :=
  let l := s.ctxs.flatMap (fun e => (e.2.ovf.filter (fun o => o.cluster == cl)).map (fun o => (e.1, o)))
  l.filter (·.2.first) ++ l.filter (fun e => !e.2.first)

/-- The oldest of a list by launch, those marked first ahead. -/
def State.oldestOvf (s : State) : List (Nat × Ovf) → Option (Nat × Ovf)
  | [] => none
  | e :: t =>
    let age := fun (x : Nat × Ovf) => ((s.share x.2.share).map (·.launchedAt)).getD 0
    match s.oldestOvf t with
    | none => some e
    | some f => if f.2.first == e.2.first && age f < age e then some f else some e

/-- Shares that a fence has put back without finding room at the front of their new cluster's queue: they are placed as room
appears, in their order (R289, R423). -/
def State.placeHeld (s : State) (cl : Nat) : State :=
  (s.shares.filter (fun h => h.heldBack && h.cluster == cl)).reverse.foldl (fun s h =>
    match s.placeFront cl h.id h.ctx with
    | some t => t.modShare h.id (fun h => { h with heldBack := false })
    | none => s) s

/-- Room in a cluster's launch queue is filled: by a share that a fence holds back, else by the oldest overflowed one. -/
def State.overflowMove (s : State) (cl : Nat) : State :=
  let s := s.placeHeld cl
  if !s.queueRoom cl then s
  else match s.oldestOvf (s.overflowed cl) with
    | none => s
    | some (x, o) =>
      (s.modCtx x (fun c => { c with ovf := c.ovf.filter (fun p => p.share != o.share) })).modCluster cl
        (fun k => { k with launchQ := k.launchQ ++ [o.share] })

/-- A share enters a launch queue, or the overflow ring when the queue is full or older shares of its context wait there; none
when the ring is full too. Overflowed shares of any context move into free entries before it (R289). -/
def State.enqueue (s : State) (sh : Share) : Option State :=
  let s := (upTo (64 - (s.cluster sh.cluster).launchQ.length)).foldl (fun s _ => s.overflowMove sh.cluster) s
  let x := s.ctx sh.ctx
  let older := x.ovf.any (fun o => o.cluster == sh.cluster)
  let s' := { s with shares := s.shares ++ [sh] }
  if s.queueRoom sh.cluster && !older then
    some (s'.modCluster sh.cluster (fun k => { k with launchQ := k.launchQ ++ [sh.id] }))
  else if x.ovf.length < x.ovfRoom then
    some (s'.modCtx sh.ctx (fun x => { x with ovf := x.ovf ++ [{ share := sh.id, cluster := sh.cluster, first := false }] }))
  else none

/-- A new share at the front of its cluster's launch queue (R289, R321). -/
def State.enqueueFront (s : State) (sh : Share) : Option State := ({ s with shares := s.shares ++ [sh] } : State).placeFront sh.cluster sh.id sh.ctx

/-- Every share finds room, or none is launched (R289). -/
def State.enqueueAll (put : State → Share → Option State) : List Share → State → Option State
  | [], s => some s
  | h :: t, s => (put s h).bind (State.enqueueAll put t)

/-! ## Readiness (R290) -/

/-- The SEQ of a predecessor word, if it can be read now (R290, R451). -/
def State.seqAt (s : State) (ctx va : Nat) : Option Nat :=
  match s.reach ctx true Need.read va with
  | .dev p => if tagged p && s.plainLine p then some (s.wordNow p).toNat else none
  | .host a => some (leNat (memBytes s.host a 8))
  | _ => none

/-- Every predecessor has reached its value. -/
def State.predsReached (s : State) (ctx : Nat) (b : Block) : Bool :=
  (upTo b.npred).all (fun n => match s.seqAt ctx ((b.pred[n]?).getD 0) with
    | some q => ((b.pval[n]?).getD 0) ≤ q
    | none => false)

/-- The first predecessor whose page is not there: its H-die and page. -/
def State.predFault (s : State) (ctx : Nat) (b : Block) : Option (Nat × Nat) :=
  ((upTo b.npred).filterMap (fun n => match s.reach ctx true Need.read ((b.pred[n]?).getD 0) with
    | .wait h p => some (h, p)
    | _ => none)).head?

/-- WAITING shares of a task whose predecessors have reached their values become READY (R290, R302). -/
def State.readyShare (s : State) (id : Nat) : State :=
  s.modShare id (fun h => if h.state = .waiting then { h with state := .ready, readyAt := s.time } else h)

/-! ## Launching (R288, R306, R320) -/

/-- What a launch is made for. -/
structure Cause where
  /-- lineage of the new task: ROOT (none: its own identifier), PATH, D -/
  root : Option Word
  path : List (BitVec 32)
  depth : Nat
  parent : Word := 0
  cell : Option Nat := none
  args : List Word := []
  cellVa : Nat := 0
  gang : Option (Nat × Nat) := none
  /-- the least class among the waiters that an evaluator is launched for (R322) -/
  lend : Nat := 7
  deriving DecidableEq, Repr

/-- A lineage: ROOT, PATH, D (R320). -/
abbrev Lineage := Word × List (BitVec 32) × Nat

/-- The lineage of a child that is number `n` of its parent's: one more level, of which at most sixteen are recorded (R320). -/
def childOf (n : Nat) (l : Lineage) : Lineage :=
  (l.1, if l.2.1.length < 16 then l.2.1 ++ [BitVec.ofNat 32 n] else l.2.1, min 255 (l.2.2 + 1))

def Task.lineage (t : Task) : Lineage := (t.root, t.path, t.depth)

/-- The lineage that the task's next launch or evaluation takes. -/
def Task.child (t : Task) : Lineage := childOf (t.ordinal + 1) t.lineage

/-- The lineage test of R320: q is a prefix of p. -/
def isPrefix (q p : Lineage) : Bool :=
  q.1 == p.1 && q.2.2 ≤ p.2.2 && q.2.1.take (min 16 q.2.2) == p.2.1.take (min 16 q.2.2)

/-- The next count of a context's launches, which skips 0 (R306). -/
def nextCount (n : Nat) : Nat := if (n + 1) % 2 ^ 58 = 0 then 1 else (n + 1) % 2 ^ 58

/-- A failure of a share enters the task: the first in device time, and of simultaneous ones that of the lowest cluster
(R298). -/
def Task.note (time cl : Nat) (st c2 : BitVec 8) (t : Task) : Task :=
  match t.status with
  | none => { t with status := some (time, cl, st, c2) }
  | some o => if time < o.1 ∨ (time = o.1 ∧ cl < o.2.1) then { t with status := some (time, cl, st, c2) } else t

/-- A captured block is launched in a context, as `tiles` shares at point `op` on the clusters given, each entering its launch
queue by `put`; the identifier is returned. None when the queues and the overflow ring are full (R288, R289). -/
def State.launchAt (s : State) (ctx : Nat) (b : Block) (va : Nat) (why : Cause) (op : Nat) (cls : List Nat) (one : Bool)
    (put : State → Share → Option State) :
    Option (Nat × State) :=
  let x := s.ctx ctx
  let count := nextCount x.launches
  let id := ctx * 2 ^ 58 + count
  let boxes := if one then [((upTo 4).map b.loAt, (upTo 4).map b.hiAt)] else b.boxes (b.tiles op)
  let cls7 := max b.eclass x.cmin.toNat
  let b := { b with parent := why.parent }
  let ready := b.npred == 0 || s.predsReached ctx b
  -- while a shed is in force, shares of its classes are dropped at launch (R346)
  let shed := s.gov.sthr != 0 && s.gov.sthr ≤ min cls7 why.lend
  let task : Task :=
    { id := id, ctx := ctx, block := b, blockVa := va
      prio := min b.prio x.pceil.toNat, cls := cls7, opidx := op, tiles := boxes.length
      root := why.root.getD (BitVec.ofNat 64 id), path := why.path, depth := why.depth
      cell := why.cell, args := why.args, cellVa := why.cellVa, gang := why.gang, home := b.home }
  let place := boxes.zip (cls.take boxes.length)
  let shares := (place.zip (upTo place.length)).map (fun e =>
    ({ id := s.fresh + e.2, task := id, ctx := ctx, cluster := e.1.2
       state := if ready then .ready else .waiting
       lo := e.1.1.1, hi := e.1.1.2, readyAt := s.time, launchedAt := s.time
       gang := why.gang.isSome, op := op } : Share))
  let s1 := { (s.modCtx ctx (fun x => { x with launches := count })) with
              tasks := s.tasks ++ [if shed then place.foldl (fun t e => t.note s.time e.2 SHED 0) task else task]
              fresh := s.fresh + shares.length }
  if shed then
    some (id, { s1 with shares := s1.shares ++ shares.map (fun h => { h with state := .droppedS, status := some SHED }) })
  else (State.enqueueAll put shares s1).map (fun t => (id, t))

/-- A launch under R288: the point is chosen, and the shares go to the enabled clusters from HOME on. -/
def State.launch (s : State) (ctx : Nat) (b : Block) (va : Nat) (why : Cause) : Option (Nat × State) :=
  s.launchAt ctx b va why (s.chooseOp b) (s.clustersFrom b.home) false State.enqueue

/-! ## The share and the task of a group -/

def State.taskOf (s : State) (g : Group) : Option Task := (s.share g.share).bind (fun h => s.task h.task)

/-- Slots of a task's claim (R283). -/
def Block.claimed (b : Block) : List Nat := (upTo b.osslots).map (b.osbase + ·)

/-- Slots of the share's claim. -/
def State.claimOf (s : State) (h : Share) : List Nat := ((s.task h.task).map (fun t => t.block.claimed)).getD []

/-- The group belongs to a DIVISIBLE share (R301). -/
def State.divisible (s : State) (g : Group) : Bool :=
  match s.taskOf g with
  | some t => t.block.divisible
  | none => false

/-- The group belongs to a gang share (R439). -/
def State.gangGroup (s : State) (g : Group) : Bool := ((s.share g.share).map (·.gang)).getD false

end Sys2Proof.Machine
end

