-- ==== Sys2Proof/Machine/Cells.lean ====
section
/-!
DEFINITION. Deferred cells at their hub: first touch, the evaluator's launch, its placement and its end (R314–R322,
R329, R330), and the state of the lines that an access reaches.
-/
namespace Sys2Proof.Machine

def State.setCell (s : State) (ln : Nat) (c : BitVec 2) : State := s.modMeta ln (fun m => { m with cell := c })

/-- The whole line replaced, its tag with it. -/
def State.setLine (s : State) (ln : Nat) (d : BitVec 512) : State :=
  s.devWrite (64 * ln) ((lineBytes d).map some)

/-- Every waiter of the line is to be woken: the entries of the wait tables, the spilled records, and the requests of other
devices (R325, R331). -/
def State.wakeLine (s : State) (ln : Nat) : State :=
  { s with
    clusters := s.clusters.map (fun e => (e.1, { e.2 with
      wait := e.2.wait.map (fun w => if w.line = ln ∧ !w.proxy then { w with due := true } else w) }))
    hdies := s.hdies.map (fun e => (e.1, { e.2 with
      held := e.2.held.map (fun r => if r.parked = some ln then { r with due := true } else r) })) }

/-- The cell FAILED; its evaluation state is discarded (R319, R329). -/
def State.failCell (s : State) (ln : Nat) : State :=
  (s.modMeta ln (fun m => { m with cell := cFAILED, eval := none })).wakeLine ln

/-- The cell back to SUSPENDED with the record it held (R329). -/
def State.suspendCell (s : State) (ln : Nat) : State :=
  match (s.lineMeta ln).eval with
  | some e => ((s.devWrite (64 * ln) ((lineBytes e.record).map some) .no).modMeta ln
      (fun m => { m with cell := cSUSPENDED, eval := none, cellVa := e.va })).wakeLine ln
  | none => s

/-- Fields of a suspension record (R315). -/
def recBlock (r : BitVec 512) : Nat := field r.toNat 63 0
def recArg (r : BitVec 512) (i : Nat) : Word := BitVec.ofNat 64 (field r.toNat (64 * i + 127) (64 * i + 64))
def recLocal (r : BitVec 512) : Bool := r.getLsbD (8 * 0x38)
def recGen (r : BitVec 512) : Nat := field r.toNat (8 * 0x3C + 31) (8 * 0x3C + 6)
def recCtx (r : BitVec 512) : Nat := field r.toNat (8 * 0x3C + 5) (8 * 0x3C)

/-- Hardware's read of a 256-byte block for a context, line by line (R451). -/
inductive BlockRead where
  | ok (bs : List Byte)
  | wait (h page : Nat)
  | moving
  | fail (cause : BitVec 8)
  deriving DecidableEq, Repr

def State.hwBytes (s : State) (ctx va : Nat) : Nat → BlockRead
  | 0 => .ok []
  | n + 1 =>
    let a := va + 64 * n
    let here : BlockRead := match s.reach ctx true Need.read a with
      | .dev p => if tagged p && s.plainLine p then .ok (s.bytesNow p 64) else .fail PAGEFAIL
      | .host h => .ok (memBytes s.host h 64)
      | .wait h p => .wait h p
      | .moving => .moving
      | .fail c => .fail c
    match s.hwBytes ctx va n with
    | .ok bs => match here with
      | .ok b => .ok (bs ++ b)
      | x => x
    | x => x

/-- The cluster holds groups of the context, and has a bank free (R321). -/
def State.freeBankOf (s : State) (cl ctx : Nat) : Bool :=
  let banks := (upTo 4).flatMap (fun k => let d := s.core (4 * cl + k); [d.bank0, d.bank1])
  (s.cluster cl).ctx == some ctx && banks.any (·.isNone) && banks.any (·.any (fun g => g.ctx == ctx))

/-- The evaluator of an EVALUATING line is launched, if its block can be read and its share placed (R319, R321);
otherwise the hub goes on waiting, or the cell becomes FAILED. -/
def State.launchEvaluator (s : State) (ln : Nat) : State :=
  match (s.lineMeta ln).eval with
  | none => s
  | some e =>
    if e.task.isSome || e.token.isSome then s
    else
      let r := e.record
      let c := recCtx r
      let x := s.ctx c
      if x.state != 1 || x.gen.toNat % 2 ^ 26 != recGen r || recBlock r % 256 != 0 then s.failCell ln
      else match s.hwBytes c (recBlock r) 4 with
        | .fail _ => s.failCell ln
        | .moving => s
        | .wait h p =>
          let (n, s) := s.pageFault h c p 4
          s.modMeta ln (fun m => { m with eval := m.eval.map (fun e => { e with token := some (h, n) }) })
        | .ok bs =>
          let b := Block.ofBytes bs
          if !s.blockValid c b then s.failCell ln
          else
            let why : Cause := { root := some e.root, path := e.path, depth := e.depth, cell := some ln
                                 args := (upTo 6).map (recArg r), cellVa := e.va, lend := e.cls }
            let op := s.chooseOp b
            let note := fun (id : Nat) (s : State) =>
              s.modMeta ln (fun m => { m with eval := m.eval.map (fun e => { e with task := some id }) })
            -- rule 1: the loader's own cluster, at the front (R321)
            let near := match e.loader with
              | some cl =>
                if !recLocal r && s.freeBankOf cl c then
                  (s.launchAt c b (recBlock r) why op [cl] true State.enqueueFront).map (fun x => note x.1 x.2)
                else none
              | none => none
            match near with
            | some t => t
            | none => match s.launchAt c b (recBlock r) why op [b.home] true State.enqueue with
              | some (id, t) => note id t
              | none => s

/-- Who reaches a cell (R319–R322). -/
structure Toucher where
  /-- cluster of a loader on this device -/
  cluster : Option Nat
  /-- its task, whose evaluations are counted -/
  task : Option Nat
  /-- its task's lineage, and the lineage that an evaluator takes which it triggers -/
  own : Option Lineage := none
  child : Lineage := (0, [], 0)
  /-- effective priority and class -/
  prio : Nat := 0
  cls : Nat := 7
  deriving DecidableEq, Repr

/-- One more evaluation that a task has triggered (R320). -/
def State.countTouch (s : State) (who : Toucher) : State :=
  match who.task with
  | some i => s.modTask i (fun t => { t with ordinal := t.ordinal + 1 })
  | none => s

/-- first_touch of R319: of a line that is SUSPENDED; any other line is left as it is. Another device's hub launches its own
evaluator (R331). A loader that is to wait on the line lends its priority and class at once (R322). -/
def State.firstTouch (s : State) (ln : Nat) (who : Toucher) (lends : Bool) : State :=
  if s.cellOf ln != cSUSPENDED then s
  else
    let (root, path, depth) := who.child
    if isFarLine ln then
      ({ s with
        farTags := Tab.set 0 s.farTags (ln - farBase) cEVALUATING
        farEvals := Tab.set {} s.farEvals (ln - farBase) { root := root, path := path, depth := depth } } : State).countTouch who
    else
      let m := s.lineMeta ln
      let e : Eval :=
        { record := s.lineNow ln, va := m.cellVa, before := m.before, loader := who.cluster
          root := root, path := path, depth := depth
          prio := if lends then who.prio else 0, cls := if lends then who.cls else 7, lentAt := s.time }
      ((s.modMeta ln (fun m => { m with cell := cEVALUATING, eval := some e })).countTouch who).launchEvaluator ln

/-- The lineage of an EVALUATING line's evaluator. -/
def State.evalLineage (s : State) (ln : Nat) : Option Lineage :=
  if s.cellOf ln != cEVALUATING then none
  else if isFarLine ln then
    let e := Tab.get {} s.farEvals (ln - farBase)
    some (e.root, e.path, e.depth)
  else ((s.lineMeta ln).eval).map (fun e => (e.root, e.path, e.depth))

/-- The lineage of the line's evaluator is a prefix of the requester's: a request to park there would depend on itself
(R326). -/
def State.selfDep (s : State) (ln : Nat) (p : Option Lineage) : Bool :=
  match s.evalLineage ln, p with
  | some q, some p => isPrefix q p
  | _, _ => false

/-- The waiter's priority and class pass to the evaluator (R322). -/
def State.inherit (s : State) (ln prio cls : Nat) : State :=
  s.modMeta ln (fun m => { m with eval := m.eval.map (fun e =>
    { e with prio := max e.prio prio, cls := min e.cls cls, lentAt := if e.prio < prio then s.time else e.lentAt }) })

/-! ## Effective priority and class (R291, R322) -/

/-- Microseconds a share has waited since it became ready. -/
def State.waited (s : State) (h : Share) : Nat := (s.time - h.readyAt) / 1000

/-- What the waiters of the cell that a share evaluates lend it: while the cell is EVALUATING (R322). -/
def State.lent (s : State) (h : Share) : Option Eval :=
  ((s.task h.task).bind (·.cell)).bind (fun ln =>
    if s.cell ln == cEVALUATING then (s.lineMeta ln).eval.filter (fun e => e.task == some h.task) else none)

/-- min(ceiling, PRIO + floor(w ÷ 2^AGE)), raised to what its cell's waiters lend it (R291, R322). -/
def State.effPrio (s : State) (h : Share) : Nat :=
  let x := s.ctx h.ctx
  let p := ((s.task h.task).map (·.prio)).getD 0
  let w := if h.state = .running then 0 else s.waited h / 2 ^ x.age
  min x.pceil.toNat (max (p + w) (((s.lent h).map (·.prio)).getD 0))

/-- The energy class, lowered to that of its cell's waiters (R322). -/
def State.effClass (s : State) (h : Share) : Nat :=
  min (((s.task h.task).map (·.cls)).getD 7) (((s.lent h).map (·.cls)).getD 7)

/-- A share's groups and engines, in a cluster, as touchers of a cell. -/
def State.toucher (s : State) (cluster : Option Nat) (share : Nat) : Toucher :=
  match s.share share with
  | some h =>
    let t := s.task h.task
    { cluster := cluster, task := some h.task, own := t.map Task.lineage, child := (t.map Task.child).getD (0, [], 0)
      prio := s.effPrio h, cls := s.effClass h }
  | none => { cluster := cluster, task := none }

/-- The request of another device as a toucher (R331): its evaluator takes the lineage that the request carries. -/
def RemoteReq.toucher (r : RemoteReq) : Toucher :=
  { cluster := none, task := none, own := r.lineage, child := (r.lineage.map (childOf r.ordinal)).getD (0, [], 0)
    prio := r.prio, cls := r.cls }

end Sys2Proof.Machine
end

