-- ==== Sys2Proof/Machine/Groups.lean ====
section
/-!
DEFINITION. Groups as the scheduler and the hazards of R47 handle them: what a group begins with (R296), the bank
exchange (R42, R43, R297), the rewind (R46, R191, R417, R418), parking and spilling (R323, R324).
-/
namespace Sys2Proof.Machine

/-! ## Where a group is -/

/-- The execute stream stands at a quiet boundary (R41): no latch live, nothing in flight, between bundles. -/
def Group.quiet (g : Group) : Bool := !g.latchLive && g.holdLeft == 0 && g.slotX == 0 && g.xNext.isNone

/-- The access stream stands between bundles. -/
def Group.between (g : Group) : Bool := !g.midA

/-- Both streams have passed END, and nothing is in flight (R98, R297). -/
def Group.ended (g : Group) : Bool := g.endedX && g.endA && g.flight.isEmpty && g.snap.isEmpty

/-- The group of a bank with this number, wherever it runs: core and bank. -/
def State.find (s : State) (gid : Nat) : Option (Nat × Bool) :=
  match s.cores.find? (fun e => (e.2.bank0.map (·.gid)) == some gid || (e.2.bank1.map (·.gid)) == some gid) with
  | some (c, k) => some (c, (k.bank0.map (·.gid)) != some gid)
  | none => none

/-! ## Groups wherever they are held -/

def Core.mapGroups (f : Group → Group) (k : Core) : Core :=
  { k with
    bank0 := k.bank0.map f
    bank1 := k.bank1.map f
    parents := k.parents.map f
    spilled := k.spilled.map f
    eclSaved := k.eclSaved.map (fun e => (e.1.map f, e.2.1.map f, e.2.2)) }

def Gang.mapGroups (f : Group → Group) (g : Gang) : Gang :=
  { g with cores := g.cores.map (fun e => (e.1.map f, e.2.1.map f, e.2.2.1, e.2.2.2)) }

def Cluster.mapGroups (f : Group → Group) (k : Cluster) : Cluster :=
  { k with
    saved := k.saved.map (fun x => (x.1, x.2.map (Gang.mapGroups f)))
    parked := k.parked.map (fun i => { i with groups := i.groups.map (fun e => { e with group := f e.group }) }) }

def State.mapGroups (f : Group → Group) (s : State) : State :=
  { s with cores := s.cores.map (fun e => (e.1, e.2.mapGroups f)), clusters := s.clusters.map (fun e => (e.1, e.2.mapGroups f)) }

/-! ## The exchange of banks (R40, R42, R43, R297) -/

/-- A group enters the front bank: its latches read zero (R40). -/
def Group.toFront (g : Group) : Group := { g with lt := [], live := 0, frozenAt := none }

/-- The front bank has just been filled. -/
def Core.freshFront (k : Core) : Core := { (k.setBank k.front ((k.bank k.front).map Group.toFront)) with fetch := [] }

/-- A bank's group has come to the front: a first step starts now, and its share's attempt with it (R295, R300). -/
def State.atFront (s : State) (c : Nat) : State :=
  let s := s.modCore c Core.freshFront
  match s.front c with
  | some g => s.modShare g.share (fun h => { h with began := h.began.or (some s.time) })
  | none => s

/-- The other bank comes to the front; the fetch buffer is discarded (R40, R58). -/
def State.exchange (s : State) (c : Nat) : State := (s.modCore c (fun k => { k with front := !k.front })).atFront c

/-- The banks of a fused group, that of each member, in front or not as that of core `c` is (R48, R51). -/
def State.fusedBanks (s : State) (c : Nat) (b : Bool) : List (Nat × Bool) :=
  match s.bank c b with
  | none => []
  | some g =>
    let inFront := b == (s.core c).front
    if !g.gstat.fused then [(c, b)]
    else (fusionSet c g.gstat.fwidth).filterMap (fun k =>
      let d := s.core k
      let e := if inFront then d.front else !d.front
      match d.bank e with
      | some h => if h.gstat.fused && h.share == g.share && h.gstat.fwidth == g.gstat.fwidth then some (k, e) else none
      | none => none)

/-- The cores whose banks are exchanged, or emptied, together with those of core `c`: the fused groups of both banks go whole
(R51). -/
def State.switchSet (s : State) (c : Nat) : List Nat :=
  let wide := fun (k : Nat) (b : Bool) => match s.bank k b with
    | some g => if g.gstat.fused then fusionSet k g.gstat.fwidth else [k]
    | none => [k]
  let grow := fun (l : List Nat) => (l.flatMap (fun k => wide k false ++ wide k true)).dedup
  grow (grow [c])

/-- After a bank has fallen free: a shadow group comes to the front (R297), a fused one when the front banks of all its members
are free (R51). -/
def State.bankFreed (s : State) (c : Nat) : State :=
  let k := s.core c
  if (k.bank k.front).isNone then
    let cs := (s.fusedBanks c (!k.front)).map (·.1)
    if cs.all (fun k => (s.front k).isNone) then cs.foldl State.exchange s else s
  else s

/-- An empty bank of a core: the front one first (R297). -/
def Core.emptyBank (k : Core) : Option Bool :=
  if (k.bank k.front).isNone then some k.front else if (k.bank (!k.front)).isNone then some (!k.front) else none

/-- A group into an empty bank of a core, if there is one. -/
def State.seat (s : State) (c : Nat) (g : Group) : Option State :=
  match (s.core c).emptyBank with
  | none => none
  | some b =>
    let s := (s.setBank c b (some g)).modCluster (c / 4) (fun k => { k with ctx := some g.ctx })
    some (if b = (s.core c).front then s.atFront c else s)

/-! ## What a group begins with (R296, R303) -/

/-- Coordinates of step `q` of a box in walker order, counted per dimension (R294). -/
def stepCoords : List Nat → Nat → List Nat
  | [], _ => []
  | n :: t, q => q % max n 1 :: stepCoords t (q / max n 1)

/-- Steps of a share's box per dimension (R294). -/
def Share.counts (h : Share) (b : Block) : List Nat :=
  (upTo 4).map (fun d => stepsOf ((h.lo[d]?).getD 0) ((h.hi[d]?).getD 0) (b.stepAt d))

def Share.total (h : Share) (b : Block) : Nat := (h.counts b).foldl (· * ·) 1

/-- Origin and exclusive end of step `q` in dimension `d` (R294). -/
def Share.origin (h : Share) (b : Block) (q d : Nat) : Int :=
  (h.lo[d]?).getD 0 + (b.stepAt d * ((stepCoords (h.counts b) q)[d]?).getD 0 : Nat)

def Share.stepEnd (h : Share) (b : Block) (q d : Nat) : Int :=
  min (h.origin b q d + b.stepAt d) ((h.hi[d]?).getD 0)

/-- STEPIX: the linear index of the step in the whole task domain (R294). -/
def Share.stepIx (h : Share) (b : Block) (q : Nat) : Nat :=
  let at' := fun d => ((h.origin b q d - b.loAt d) / b.stepAt d).toNat
  let n := fun d => stepsOf (b.loAt d) (b.hiAt d) (b.stepAt d)
  (at' 0 + n 0 * (at' 1 + n 1 * (at' 2 + n 2 * at' 3))) % 2 ^ 40

/-- The RCTR that a group begins with (R117). -/
def startRctr (stepIx origin : Nat) : Word := BitVec.ofNat 64 (stepIx * 2 ^ 24 + origin * 2 ^ 21)

/-- The segment entry record of a group's first bundle (R46). -/
def firstSeg (entry rctr : Word) (seq : Nat) : SegRec := { addr := entry, rctr := rctr, seq := seq }

/-- s and a registers `r`, `r + 1`, … hold the words given. -/
def bothRegs : Nat → List Word → Group → Group
  | _, [], g => g
  | r, w :: ws, g => bothRegs (r + 1) ws ((g.wrS r w).wrA r w)

/-- A group that begins step `q` of a share (R296, R321). -/
def State.stepGroup (s : State) (t : Task) (h : Share) (q : Nat) : Group :=
  let b := t.block
  let entry := b.entryOf (b.variant h.op)
  let rctr := startRctr (h.stepIx b q) 0
  let g : Group :=
    { gid := s.fresh, ctx := h.ctx, share := h.id, step := q, apc := entry, xpc := entry
      tvec := (s.ctx h.ctx).dtvec, rctr := rctr, seg := firstSeg entry rctr s.fresh }
  let g := bothRegs 1 ((upTo 4).map (fun d => word (h.origin b q d))) g
  let g := bothRegs 5 [b.argp, BitVec.ofNat 64 t.blockVa, BitVec.ofNat 64 t.id] g
  let g := bothRegs 8 ((upTo 4).map (fun d => word (h.stepEnd b q d))) g
  match t.cell with
  | some _ => bothRegs 12 (t.args ++ [BitVec.ofNat 64 t.cellVa]) g
  | none => g

/-! ## Lifetime counters (R424) -/

/-- Classes of units: DRAM bank, commons bank, operand store, core, cluster, port. -/
def lifeDram : Nat := 0
def lifeCommons : Nat := 1
def lifeOs : Nat := 2
def lifeCore : Nat := 3
def lifeCluster : Nat := 4
def lifePort : Nat := 5

/-- Counters: corrected and uncorrectable errors, hours in strong mode, frames of KIND 7 and 9, scans passed and failed,
FAILED tiles, rewinds, reruns, POISON endings, droop alarms, retrainings, lanes shed; hours at V/F level L are 16 + L. -/
def cCorrected : Nat := 0
def cUncorrectable : Nat := 1
def cStrong : Nat := 2
def cKind7 : Nat := 3
def cKind9 : Nat := 4
def cPassed : Nat := 5
def cScanFailed : Nat := 6
def cFailedTiles : Nat := 7
def cRewinds : Nat := 8
def cReruns : Nat := 9
def cPoison : Nat := 10
def cDroop : Nat := 11
def cRetrain : Nat := 12
def cShed : Nat := 13
def cLevel : Nat := 16

def lifeKey (cls unit counter : Nat) : Nat := (cls * 65536 + unit % 65536) * 256 + counter

/-- One more event of a lifetime counter. -/
def State.countLife (s : State) (cls unit counter : Nat) : State :=
  { s with board := { s.board with life := Tab.modify 0 s.board.life (lifeKey cls unit counter) (· + 1) } }

/-! ## Rewind (R46, R191, R417, R418) -/

/-- PTR once every flip issued so far has taken effect (R46, R252). -/
def Group.ptrAll (g : Group) : Bool := g.shPend.foldl (fun b p => if p.flip then !b else b) g.ptr

/-- The ring of a group in its core's matrix unit (R179). -/
def Matrix.ringOf (m : Matrix) (gid : Nat) : Option Ring := m.rings.find? (fun r => r.gid == gid)

/-- The segment entry record for the bundle at APC (R46); flips issued before it stand in it already. -/
def Group.record (ring : Option Ring) (seq : Nat) (g : Group) : Group :=
  { g with
    seg := { addr := g.apc, k := g.k, head := (ring.map (·.head)).getD 0, tail := (ring.map (·.tail)).getD 0
             filled := (ring.map (·.filled)).getD 0, ptr := g.ptrAll, rctr := g.rctr, seq := seq }
    shPend := g.shPend.map (fun p => { p with fresh := false }) }

/-- The access stream has issued a non-idempotent operation, so that a segment opens with the next bundle, and the execute
stream has yet to issue its part of that bundle, or runs the handler of a trap that it met there (R44, R45). -/
def Group.entering (g : Group) : Bool := (g.segNext && !g.hist.isEmpty) || g.saved.any (·.segNext)

/-- The group goes back to its segment entry record (R46). What a FENCE or an acquire before the entry still orders stays
ordered. Inside a handler VALID, MODE, the selected queue set and the trap save area are kept: the spec does not say what
becomes of them (log 97). -/
def Group.toEntry (g : Group) : Group :=
  { g with
    apc := g.seg.addr, xpc := g.seg.addr
    k := g.seg.k, ptr := g.seg.ptr, rctr := g.seg.rctr, rbq := []
    nq := {}, tq := {}
    flight := [], snap := [], lt := [], live := 0
    gstat := { g.gstat with lrun := 0 }
    hist := [], awaitBqe := false, slotA := 0, slotX := 0, midA := false, xNext := none, segNext := false, csrw := []
    endX := false, endA := false, trapPend := none, heldA := false, heldX := false, needQuiet := false, awr := []
    holdLeft := 0, counted := false, pageWait := none, pageFail := none
    -- a CLEAN slot that is fetched anew for an earlier rewind still comes first (R413, R427)
    holds := g.holds.filter (fun h => match h with
      | .refetch _ => true
      | _ => false)
    parked := none, frozenAt := none, lateFault := none, woken := false, bwoken := none, stallCode := 0, stallX := 0, atEntry := true
    yieldReq := false, decplReq := none, errPend := false, followed := true
    shPend := g.shPend.map (fun p => { p with flip := false }) }

/-- The bank's part of a rewind. After a non-idempotent operation the entry is the bundle that follows, whose record is
written now, and the stream waits on for the operation (R44, R237); while the execute stream has not come so far, there is
nothing after the entry to undo (log 97). `back` asks for the entry before an operation that has yet to perform. -/
def Group.rewind (ring : Option Ring) (seq : Nat) (back : Bool) (g : Group) : Group :=
  if back then g.toEntry
  else if g.entering then g
  else if g.segNext then
    let h := if g.awaitBqe then g.follow else g
    if h.endA then h else { (h.record ring seq).toEntry with holds := h.holds }
  else g.toEntry

/-- A command of the group that its rewind cancels (R191, R417). -/
def MCmd.after (x : MCmd) (gid seq : Nat) : Bool := x.gid == gid && seq ≤ x.seq

/-- The matrix unit as it is saved: a command that waits for a page asks for it again when it goes on (R395). -/
def Matrix.unwait (m : Matrix) : Matrix := { m with epRun := m.epRun.map (fun r => ({ r.1 with token := none }, r.2)) }

/-- The matrix unit's part: commands after the entry are dropped, ring positions restored (R191). -/
def Matrix.rewind (m : Matrix) (g : Group) : Matrix :=
  let back := fun (r : Ring) => if r.gid = g.gid then { r with head := g.seg.head, tail := g.seg.tail, filled := g.seg.filled } else r
  { m with queue := m.queue.filter (fun x => !x.after g.gid g.seg.seq)
           run := m.run.filter (fun r => !r.cmd.after g.gid g.seg.seq)
           epRun := m.epRun.filter (fun r => !r.1.after g.gid g.seg.seq)
           rings := m.rings.map back }

/-- Copies after the entry: unstarted ones are cancelled, running ones lose arrival and record (R417). -/
def rewindCopies (g : Group) (l : List Copy) : List Copy :=
  (l.filter (fun c => !(c.gid == g.gid && g.seg.seq ≤ c.seq && !c.started && c.merge.isNone))).map (fun c =>
    if c.gid = g.gid ∧ g.seg.seq ≤ c.seq then { c with mute := true } else c)

/-- An operation that must not be repeated once it has performed (R44, R237). -/
def AccKind.once : AccKind → Bool
  | .amo .. | .cas .. | .bank .. | .rres | .rpub _ | .defer | .resolve | .vdec .. => true
  | _ => false

/-- The access waits for page service, a moving page or a cell before it performs (R395, R323). -/
def Acc.waits (a : Acc) : Bool := !a.done && !a.pieces.isEmpty && (a.token.isSome || a.parked.isSome)

/-- The group waits so before such an operation performs (R237). -/
def opWaits (g : Group) (l : List Acc) : Bool := l.any (fun a => a.gid == g.gid && a.kind.once && a.waits)

/-- The access waits so, and a rewind abandons it: one after the segment entry, or an operation that has yet to perform. A
remote arrival performs first in any case (R246). -/
def Acc.abandons (g : Group) (a : Acc) : Bool :=
  a.waits && (g.seg.seq ≤ a.id || a.kind.once) && (match a.kind with
    | .barv .. => false
    | _ => true)

/-- An access waits so: its group is rewound before its bank is saved (R222). -/
def accWaits (g : Group) (l : List Acc) : Bool := l.any (fun a => a.gid == g.gid && a.abandons g)

/-- Loads whose data has not arrived are discarded with the queues (R222), but for one into an a register that stands before
the segment entry, where the register is live (log 97); so are stores after the entry that wait, and an operation that the
rewind goes back behind (R222, R237). -/
def rewindAccs (g : Group) (back : Bool) (l : List Acc) : List Acc :=
  l.filter (fun a => !(a.gid == g.gid && (match a.kind with
    | .load | .loadRc _ => (match a.dst with
      | .areg _ => g.seg.seq ≤ a.id
      | _ => true)
    | k => if k.once then back && !a.done && !a.pieces.isEmpty else a.waits && g.seg.seq ≤ a.id)))

/-- One bank is rewound to its segment entry, with what the rest of the core and the cluster do about it. -/
def State.rewindOne (s : State) (c : Nat) (b : Bool) : State :=
  match s.bank c b with
  | none => s
  | some g0 =>
    let back := opWaits g0 (s.cluster (c / 4)).outbound
    let ring := (s.core c).mat.ringOf g0.gid
    let g := g0.rewind ring s.fresh back
    let stays := g0.entering && !back
    let s : State := { s with fresh := s.fresh + 1 }
    let s := if stays then s else s.modCluster (c / 4) (fun k =>
      { k with copies := rewindCopies g k.copies, outbound := rewindAccs g back k.outbound
               wait := k.wait.filter (fun w => !(w.gid == g.gid && !w.spilled)) })
    let out := (s.cluster (c / 4)).outbound
    let owed := g.busy.filter (fun b => out.any (fun a => a.id == b.2))
    ((s.setBank c b (some { g with busy := owed })).modCore c (fun k =>
      { k.setRewind g with mat := if stays then k.mat else k.mat.rewind g, fetch := if b = k.front then [] else k.fetch })).countLife
        lifeCluster (c / 4) cRewinds

/-- A rewind of a group, and of every member it is fused with (R51). -/
def State.rewindBank (s : State) (c : Nat) (b : Bool) : State :=
  (s.fusedBanks c b).foldl (fun s e => s.rewindOne e.1 e.2) s

/-- The rewind that an uncorrectable error asks for (R47, R413). A group that has performed a non-idempotent operation and has
yet to reach the segment entry after it rewinds at that entry (R44). -/
def State.errRewind (s : State) (c : Nat) (b : Bool) : State :=
  let l := s.fusedBanks c b
  let waits := fun (e : Nat × Bool) => (s.bank e.1 e.2).any (fun g => g.entering && !opWaits g (s.cluster (e.1 / 4)).outbound)
  if l.any waits then l.foldl (fun s e => s.modBank e.1 e.2 (fun g => { g with errPend := true })) s else s.rewindBank c b

/-- The entry that such a rewind has waited for has been reached. -/
def State.doErr (s : State) (c : Nat) : State :=
  if (s.front c).any (fun g => g.errPend && !g.entering) then s.rewindBank c (s.core c).front else s

/-- A TWAIT that has not completed stops, and is to issue again when the group returns (R312). -/
def Group.stopTwait (g : Group) : Group :=
  { g with holds := g.holds.map (fun h => match h with
      | .twait t rd => .retwait t rd
      | h => h) }

/-- A frozen group is rewound before it is removed away from a quiet boundary, or from page service or a cell (R47, R222); one
that waits for an order, a barrier or a task stops at its quiet boundary (R247, R312). -/
def State.settleBank (s : State) (c : Nat) (b : Bool) : State :=
  match s.bank c b with
  | some g => if g.quiet && g.between && g.pageWait.isNone && g.parked.isNone && !accWaits g (s.cluster (c / 4)).outbound then
      s.modBank c b Group.stopTwait
    else s.rewindBank c b
  | none => s

/-! ## Parking and spilling (R323, R324) -/

/-- Units of a context's wait overflow area still free (R324, R387). -/
def Ctx.wovfFree (x : Ctx) : Nat := field x.wovf.toNat 11 0 - x.wovfUsed

/-- A unit of a context's wait overflow area is free again; number 64 stands for no unit. -/
def State.freeUnit (s : State) (owner : Nat) : State :=
  if owner < 64 then s.modCtx owner (fun x => { x with wovfUsed := x.wovfUsed - 1 }) else s

/-- Entries of a cluster's wait table in use. -/
def Cluster.waiting (k : Cluster) : Nat := (k.wait.filter (fun w => !w.spilled)).length

/-- The creator context of the cell of a line: of its evaluation state, or of its record (R315, R324); of another device's
line, the context of the loader on core `c`, which has the creator's index there (R199). -/
def State.creator (s : State) (c ln : Nat) : Nat :=
  if isFarLine ln then ((s.front c).map (·.ctx)).getD 0
  else match (s.lineMeta ln).eval with
  | some e => recCtx e.record
  | none => recCtx (s.lineNow ln)

/-- A park of core `c` on the line would find neither an entry nor room in the overflow area (R324). -/
def State.noRoomToPark (s : State) (c ln : Nat) : Bool :=
  (s.cluster (c / 4)).waiting ≥ 256 && (s.ctx (s.creator c ln)).wovfFree < (s.fusedSet c).length

/-- The group of a bank is rewound, saved whole to memory and its bank freed; its waiter record follows (R324). -/
def State.spill (s : State) (c : Nat) (ln va : Nat) : State :=
  let owner := s.creator c ln
  let x := s.rewindBank c (s.core c).front
  (s.fusedSet c).foldl (fun x k =>
    match x.front k with
    | none => x
    | some g =>
      let e : WaitEnt :=
        { core := k, bank := (x.core k).front, gid := g.gid, ctx := g.ctx, line := ln, va := va
          task := (x.toucher none g.share).task.getD 0, since := x.time, spilled := true, owner := owner
          proxy := isFarLine ln }
      let x := (x.modCtx owner (fun y => { y with wovfUsed := y.wovfUsed + 1 })).modCluster (c / 4)
        (fun y => { y with wait := y.wait ++ [e] })
      (x.modCore k (fun y => { (y.setBank y.front none) with spilled := y.spilled ++ [g] })).bankFreed k) x

/-- The group of core `c` parks on a line: an entry of the table, or a spill (R322–R324). -/
def State.park (s : State) (c : Nat) (ln va : Nat) : State :=
  match s.front c with
  | none => s
  | some g =>
    let who := s.toucher (some (c / 4)) g.share
    let s := (s.inherit ln who.prio who.cls).modBank c (s.core c).front (fun g => { g with parkAt := some g.apc })
    if (s.cluster (c / 4)).waiting < 256 then
      let e : WaitEnt :=
        { core := c, bank := (s.core c).front, gid := g.gid, ctx := g.ctx, line := ln, va := va
          task := who.task.getD 0, since := s.time, proxy := isFarLine ln }
      ((s.modBank c (s.core c).front (fun g => { g with parked := some ln, frozenAt := g.frozenAt.or (some s.time) })).modCluster (c / 4)
        (fun k => { k with wait := k.wait ++ [e] })).flushFetch c
    else s.spill c ln va

/-- What a bundle that cannot issue starts in its place (R34, R319, R323, R395). -/
def State.applyStall (s : State) (c : Nat) : Stall → State
  | .freeze n =>
    s.modBank c (s.core c).front (fun g => { g with stallCode := n, frozenAt := g.frozenAt.or (some s.time) })
  | .page h ctx page kind =>
    let (n, s) := s.pageFault h ctx page kind
    s.modBank c (s.core c).front (fun g =>
      { g with pageWait := some (h, n), stallCode := 5, frozenAt := g.frozenAt.or (some s.time) })
  | .cell touch ln va =>
    match s.front c with
    | none => s
    | some g =>
      let s := touch.foldl (fun s l => s.firstTouch l (s.toucher (some (c / 4)) g.share) (l == ln)) s
      -- one that finds no room traps as its bundle issues again (R324)
      if s.cellOf ln = cEVALUATING && !s.selfDep ln (s.toucher none g.share).own && !s.noRoomToPark c ln then s.park c ln va
      else s.modBank c (s.core c).front (fun g => { g with stallCode := 6 })

end Sys2Proof.Machine
end

