-- ==== Sys2Proof/Machine/Levels.lean ====
section
/-!
DEFINITION. The V/F levels of a cluster (R350–R354): the table, the steps between levels, the requested level (R344,
R351), and the power that shares are projected to draw (R345).
-/
namespace Sys2Proof.Machine

/-! ## The table (R350) -/

def levelMhz (l : Nat) : Nat := 900 + 90 * l

def levelMv (l : Nat) : Nat :=
  (([580, 599, 617, 636, 655, 673, 692, 711, 729, 748, 767, 785, 804, 823, 841, 860] : List Nat)[l]?).getD 860

/-- f × V² of a level. -/
def levelWeight (l : Nat) : Nat := levelMhz l * levelMv l * levelMv l

/-! ## Steps (R352–R354) -/

/-- A step begins when the target differs from the level in force and none is under way: a rise begins with the voltage, a
fall with the frequency. -/
def Dvfs.startStep (d : Dvfs) : Dvfs :=
  if d.stepSt != 0 || d.level == d.target then d
  else if d.level < d.target then { d with stepSt := 1, rising := true }
  else { d with stepSt := 2, rising := false }

def Dvfs.aim (l : Nat) (d : Dvfs) : Dvfs := { d with target := l }.startStep

def State.modDvfs (s : State) (cl : Nat) (f : Dvfs → Dvfs) : State := s.modCluster cl (fun k => { k with dvfs := f k.dvfs })

/-- The level in force changes: the time at the old one is counted (R424), in ns. -/
def State.setLevel (s : State) (cl l : Nat) : State :=
  let d := (s.cluster cl).dvfs
  let key := lifeKey lifeCluster cl (cLevel + d.level)
  let s := { s with board := { s.board with life := Tab.modify 0 s.board.life key (· + BitVec.ofNat 64 (s.time - d.since)) } }
  s.modDvfs cl (fun d => { d with level := l, since := s.time })

/-- A step has completed: FIFOMAX takes the peak occupancy of the inbound FIFO in it (R353). -/
def State.stepDone (s : State) (cl : Nat) : State :=
  s.modDvfs cl (fun d => { d with stepSt := 0, steps := min 65535 (d.steps + 1), fifoMax := d.fifoPeak, fifoPeak := 0 }.startStep)

/-- The voltage of a rise has settled, and the frequency is switched to the new level's, which is in force from then on (R382);
or that of a fall has, and the step is over (R352). -/
def State.rampDone (s : State) (cl : Nat) : State :=
  let d := (s.cluster cl).dvfs
  if d.stepSt = 1 then (s.setLevel cl (d.level + 1)).modDvfs cl (fun d => { d with stepSt := 2 })
  else if d.stepSt = 3 then s.stepDone cl
  else s

/-! ## The inbound crossing FIFO (R353) -/

/-- Entries of 64 bytes that items take: data that follow one another for one copy stand together. -/
def entriesOf : List InItem → Option Instr → Nat → Nat
  | [], _, run => (run + 63) / 64
  | .event i n :: t, prev, run => if prev = some i then entriesOf t prev (run + n) else (run + 63) / 64 + entriesOf t (some i) n
  | .arrival .. :: t, _, run => (run + 63) / 64 + 1 + entriesOf t none 0

def Cluster.fifoUsed (k : Cluster) : Nat := entriesOf k.fifo none 0

/-- An item enters the FIFO while there is room; a full FIFO stops its sender. -/
def Cluster.receive (it : InItem) (k : Cluster) : Cluster :=
  let k' := { k with fifo := k.fifo ++ [it] }
  if 64 < k'.fifoUsed then { k with dvfs := { k.dvfs with fifoPeak := 64 } }
  else { k' with dvfs := { k.dvfs with fifoPeak := max k.dvfs.fifoPeak k'.fifoUsed } }

/-- The clock runs again: what has collected goes on to the cluster in its order, ahead of anything else. -/
def State.drainFifo (s : State) (cl : Nat) : State :=
  let l := (s.cluster cl).fifo
  let back := l.filterMap (fun it => match it with
    | .arrival x b n p => some (x, b, n, p)
    | .event .. => none)
  let turns := l.map (fun it => match it with
    | .event i _ => Turn.event i
    | .arrival .. => Turn.arrives cl)
  { s.modCluster cl (fun k => { k with fifo := [], arrivals := back ++ k.arrivals }) with agenda := turns ++ s.agenda }

/-- The frequency has been switched: a rise is over; a fall has its new level in force, and goes on with its voltage (R352). -/
def State.switchDone (s : State) (cl : Nat) : State :=
  let d := (s.cluster cl).dvfs
  if d.stepSt ≠ 2 then s
  else
    let s := s.drainFifo cl
    if d.rising then s.stepDone cl
    else (s.setLevel cl (d.level - 1)).modDvfs cl (fun d => { d with stepSt := 3 })

/-! ## The requested level (R344, R351) -/

/-- Point level of a share. -/
def State.shareLevel (s : State) (h : Share) : Nat := ((s.task h.task).map (fun t => t.block.level h.op)).getD 0

/-- The highest LEVEL among the points of the cluster's running shares. -/
def State.wantedLevel (s : State) (cl : Nat) : Option Nat :=
  (s.shares.filter (fun h => h.cluster == cl && h.state == .running)).foldl (fun m h => some (max (m.getD 0) (s.shareLevel h))) none

/-- A change of the requested level sets the target, below the slow limit. -/
def State.noteRequest (s : State) (cl : Nat) : State :=
  let w := s.wantedLevel cl
  if (s.cluster cl).dvfs.requested == w then s
  else s.modDvfs cl (fun d =>
    let d := { d with requested := w }
    match w with
    | some l => d.aim (min l s.gov.limit)
    | none => d)

/-! ## Projected power (R345) -/

/-- The product of every level's f × V², so that projections compare without rounding. -/
def weightAll : Nat := (upTo 16).foldl (fun n l => n * levelWeight l) 1

def State.sharePwr (s : State) (h : Share) : Nat := ((s.task h.task).map (fun t => t.block.pwr h.op)).getD 0

/-- A share's projected power at level `l`, in 1/16 W times `weightAll`. -/
def State.projectShare (s : State) (l : Nat) (h : Share) : Nat :=
  s.sharePwr h * levelWeight l * (weightAll / levelWeight (s.shareLevel h % 16))

/-- The running shares that satisfy `p`, projected together. -/
def State.projected (s : State) (l : Nat) (p : Share → Bool) : Nat :=
  ((s.shares.filter (fun h => h.state == .running && p h)).map (s.projectShare l)).foldl (· + ·) 0

/-- Projected power and the rest stay within T and its tolerance, max(T ÷ 100, 12 W). -/
def fitsTarget (projected prest t : Nat) : Bool := 100 * (projected + prest * weightAll) ≤ (100 * t + max t 19200) * weightAll

/-! ## Power now, and the slope limit (R357) -/

/-- A share's projected power at the level in force in its cluster, in 1/16 W. -/
def State.sharePower (s : State) (h : Share) : Nat := s.projectShare (s.cluster h.cluster).dvfs.level h / weightAll

/-- The power that the device is reckoned to draw without ballast: its shares that have a step under way, at the levels in force,
and the rest. -/
def State.drawPower (s : State) : Nat :=
  ((s.shares.filter (fun h => (h.state == .running || h.state == .aborting) && !h.groups.isEmpty)).map s.sharePower).foldl (· + ·) 0 + s.gov.prest

/-- The power as the slope limit lets it be seen: it falls by at most 20 W per µs. -/
def State.shownPower (s : State) : Nat := max s.drawPower (s.gov.shown - 320 * (s.time - s.gov.shownAt) / 1000)

/-- 40 µs of ballast cover the fall that a stop would make, or no other fall is being covered (R357, R358). -/
def State.stopRoom (s : State) (h : Share) : Bool :=
  let d := s.drawPower
  decide (s.shownPower + s.sharePower h ≤ d + 12800) || decide (s.shownPower ≤ d)

/-- Ballast makes up what the power shown exceeds the power drawn by. -/
def State.noteBallast (s : State) : State :=
  let p := s.shownPower
  { s with gov := { s.gov with shown := p, shownAt := s.time, ballast := p - s.drawPower } }

/-- An event that may make the power fall: what it drew before is what it may fall from (R357). -/
def State.slopeHeld (f : State → State) (s : State) : State := (f s.noteBallast).noteBallast

end Sys2Proof.Machine
end

