-- ==== Sys2Proof/Machine/Issue.lean ====
section
/-!
DEFINITION. The issue of one bundle in one stream (R23–R33, R44–R49, R78, R95–R98): what happens before its syllables,
the syllables in slot order over every member of a fused group, and what the end of the bundle does. `run` is the
meaning of an instruction.
-/
namespace Sys2Proof.Machine

/-- The end of a sequence of steps: stop at the first that does not go on. -/
def andThen (o : Out) (f : State → Out) : Out :=
  match o with
  | .next s => f s
  | x => x

/-! ## The syllables (R23, R49, R78, R97) -/

/-- One syllable in one member. An illegal OPC is ILLOP at its slot. -/
def oneSyllable (run : Instr → State → Out) (i : Option Instr) (slot c : Nat) (s : State) : Out :=
  let s := { s with here := { s.here with core := c, slot := slot } }
  match i with
  | some i => run i s
  | none => .next (raise ILLOP s)

/-- One slot in each of the members. -/
def eachMember (run : Instr → State → Out) (i : Option Instr) (slot : Nat) : List Nat → State → Out
  | [], s => .next s
  | c :: cs, s => andThen (oneSyllable run i slot c s) (eachMember run i slot cs)

/-- The members that are still short of a slot. -/
def State.shortOf (s : State) (access : Bool) (slot : Nat) (cs : List Nat) : List Nat :=
  cs.filter (fun c => match s.front c with
    | some g => (if access then g.slotA else g.slotX) ≤ slot
    | none => 8 ≤ slot)

/-- The fault that a member of the bundle has met. -/
def State.faultOf (t : State) (c : Nat) : BitVec 8 :=
  match t.front c with
  | some g => match g.trapPend, g.dead with
    | some (cause, _, _), _ => cause
    | none, some (cause, _) => cause
    | none, none => g.gstat.cause
  | none => 0

/-- Members that fault at a slot take their fault, and no other member commits the slot (R49). -/
def faultAlone (run : Instr → State → Out) (i : Option Instr) (slot : Nat) (cs : List Nat) (s : State) : Out :=
  let tries := cs.map (fun c => oneSyllable run i slot c s)
  let stalls := tries.find? (fun o => match o with
    | .next t => t.here.stall.isSome
    | _ => false)
  let bad := (cs.zip tries).filterMap (fun x => match x.2 with
    | .next t => if t.here.off.isEmpty then none else some x.1
    | _ => none)
  match stalls with
  | some o => o
  | none =>
    if !bad.isEmpty then eachMember run i slot bad s
    else andThen (eachMember run i slot cs s) (fun t =>
      if t.here.stall.isSome || t.here.off.isEmpty then .next t
      else .next (t.here.off.foldl (fun u c =>
        raiseAt (t.faultOf c) t.here.resume { u with here := { u.here with core := c, slot := slot } }) s))

/-- One slot in every member that is still short of it. -/
def oneSlot (run : Instr → State → Out) (access : Bool) (i : Option Instr) (slot : Nat) (cs : List Nat) (s : State) : Out :=
  match s.shortOf access slot cs with
  | [c] => oneSyllable run i slot c s
  | l => faultAlone run i slot l s

/-- The outcome that a control syllable has left in the queue of a member: the last entry of bqe or bqa. -/
def State.lastOutcome (s : State) (access : Bool) (c : Nat) : Option BOut :=
  match s.front c with
  | some g => (if access then g.qs.bqa else g.qs.bqe).getLast?
  | none => none

/-- The members' outcomes of a control syllable differ (R97). -/
def State.disagree (s : State) (access : Bool) (cs : List Nat) : Bool :=
  match cs with
  | [] => false
  | c :: rest => rest.any (fun k => s.lastOutcome access k != s.lastOutcome access c)

/-- A trap at a slot in every member: they meet what no member alone can meet (R48, R97). -/
def raiseAll (cause : BitVec 8) (slot : Nat) : List Nat → State → State
  | [], s => s
  | c :: cs, s => raiseAll cause slot cs (raise cause { s with here := { s.here with core := c, slot := slot } })

/-- The stream's syllables in ascending slot order, until one traps or cannot issue (R23, R49). -/
def runSlots (run : Instr → State → Out) (access : Bool) (cs : List Nat) : List (Nat × Option Instr) → State → Out
  | [], s => .next s
  | (slot, i) :: rest, s =>
    if !ownSlot access slot then runSlots run access cs rest s
    else andThen (oneSlot run access i slot cs s) (fun t =>
      if t.here.stall.isSome || !t.here.off.isEmpty then .next t
      else
        let ctl := match i with
          | some i => isXctl i || isLoop i
          | none => false
        if ctl && t.disagree access cs then .next (raiseAll ILLOP slot cs s)
        else runSlots run access cs rest t)

/-- LOOP beside an X-slot control transfer is illegal at slot 7 (R29). -/
def noLoop (l : List (Nat × Option Instr)) : List (Nat × Option Instr) :=
  if anyInstr isLoop l && anyInstr isXctl l then l.map (fun x => if x.1 = 7 then (7, none) else x) else l

/-- C and Y syllables of an access bundle that read memory (R226, R270). -/
def lateReads (l : List (Nat × Option Instr)) : List Instr :=
  (ownInstrs true 6 l).filter (fun i => match i with
    | .vdec _ | .amo _ | .cas _ | .bank _ | .rres _ | .rpub _ | .ringvoid _ => true
    | _ => false)

/-- What the issue of a bundle tells its syllables. -/
def State.begin (s : State) (c : Nat) (access : Bool) (addr : Word) (l : List (Nat × Option Instr)) : State :=
  { s with here := { core := c, access := access, addr := addr, size := 8 * l.length, sole := l.length == 1
                     late := if access then lateReads l else [] } }

/-- Every member of the list changed. -/
def State.each (s : State) (cs : List Nat) (f : State → Nat → Group → Group) : State :=
  cs.foldl (fun s c => s.modBank c (s.core c).front (f s c)) s

/-- Members that have not trapped stand at the slot where the others resume (R49). -/
def State.settleOthers (s : State) (cs : List Nat) (access : Bool) : State :=
  s.each (cs.filter (fun c => !s.here.off.contains c)) (fun s _ g => g.atSlot access s.here.resume)

/-- A bundle of one stream held because it would fault while the other stream's trap waits (R35). -/
def State.anyHeld (s : State) (cs : List Nat) (access : Bool) : Bool :=
  cs.any (fun c => match s.front c with
    | some g => if access then g.heldA else g.heldX
    | none => false)

/-- Back to the state before the bundle, with the streams that met the fault held, and the waiting trap taken (R35). -/
def State.holdBack (pre post : State) (cs : List Nat) (access : Bool) : State :=
  let held := fun c => match post.front c with
    | some g => if access then g.heldA else g.heldX
    | none => false
  let s := pre.each cs (fun _ c g => if held c then (if access then { g with heldA := true } else { g with heldX := true }) else g)
  cs.foldl State.takeTrap s

/-! ## The access stream (R28, R29, R44–R46, R252) -/

/-- A pending shape write or flip that takes effect now (R252). -/
def Group.shape1 (g : Group) (p : ShPend) : Group :=
  if p.left ≤ 1 then
    let g := match p.write with
      | some (n, m, w) => { g with sh := Tab.modify 0 g.sh n (fun o => (o &&& ~~~ m) ||| (w &&& m)) }
      | none => g
    let g := if p.flip then { g with ptr := !g.ptr } else g
    g
  else { g with shPend := g.shPend ++ [{ p with left := p.left - 1 }] }

/-- One more access bundle has issued: shape writes come due (R252). -/
def Group.countShapes (g : Group) : Group :=
  let ps := g.shPend
  ps.foldl Group.shape1 { g with shPend := [] }

/-- A SEGE of the bundle whose guard holds (R419). -/
def opensHere (g : Group) (l : List (Nat × Option Instr)) : Bool :=
  l.any (fun x => match x.2 with
    | some (.sege y) => g.guardA y.guard 0
    | _ => false)

/-- The load that had parked the group has replayed, or is not to come any more (R325, R327). -/
def Group.unpark (g : Group) : Group := { g with woken := false, depCycle := none, parkAt := none }

/-- The bundle enters the lead; at a segment entry the record is written (R28, R44, R46, R418). -/
def Group.enterBundle (ring : Option Ring) (seq : Nat) (opens : Bool) (g : Group) : Group :=
  let g := { g with hist := g.hist ++ [g.apc], bundles := g.bundles + 1, midA := true }
  let g := g.countShapes
  if !opens then g
  else
    let g : Group := { g.record ring seq with segNext := false }
    if g.parkAt = some g.apc then g else g.unpark


/-- The start of an access bundle in one member. -/
def State.startA (s : State) (l : List (Nat × Option Instr)) (c : Nat) : State :=
  match s.front c with
  | none => s
  | some g =>
    if g.midA then s
    else
      let opens := g.segNext || (opensHere g l && !g.atEntry)
      let k := s.core c
      let s := s.modBank c k.front (fun g => { g.enterBundle (k.mat.ringOf g.gid) s.fresh opens with atEntry := false })
      if opens then { s.modCore c (Core.clearRewind g.gid) with fresh := s.fresh + 1 } else s

/-- The end of an access bundle in one member (R24, R29, R30, R44, R94). -/
def Group.endA1 (next : Word) (l : List (Nat × Option Instr)) (g : Group) : Group :=
  let g := if g.parkAt = some g.apc then g.landA.unpark else g.landA
  { g with
    apc := next
    awaitBqe := anyInstr resolvesApc l
    segNext := anyInstr nonIdem l
    lastSlot := l.foldl (fun n x => max n x.1) 0, followed := false
    slotA := 0, midA := false, stallCode := 0, frozenAt := none, pageFail := none, bwoken := none }

/-- Holds that are over end, and a FENCE with SI discards the fetch buffer (R34, R229); a TWAIT that is to issue again stays until
it does (R312). -/
def State.endHolds (s : State) (c : Nat) : State :=
  match s.front c with
  | none => s
  | some g =>
    let past := g.holds.filter (fun h => s.holdOver c g h && (match h with
      | .retwait _ _ => false
      | _ => true))
    if past.isEmpty then s
    else
      let s := s.modBank c (s.core c).front (fun g => { g with holds := g.holds.filter (fun h => !past.contains h) })
      if past.any (fun h => match h with
          | .fenceI _ => true
          | _ => false) then s.flushFetch c else s

/-- The outcome of the last transfer, once it is there, moves APC (R29, R96, R98). -/
def Group.followBqe (g : Group) : Group := if g.awaitBqe && g.holds.isEmpty then g.follow else g

/-- An access bundle before its syllables: it has entered the lead of every member (R28, R46). -/
def State.enterA (s : State) (cs : List Nat) (c : Nat) (addr : Word) (l : List (Nat × Option Instr)) : State :=
  cs.foldl (fun s k => s.startA l k) (s.begin c true addr l)

/-- An access bundle after its syllables: `pre` as it was before them, `next` the address that follows (R29, R34, R35). -/
def closeA (cs : List Nat) (pre : State) (next : Word) (l : List (Nat × Option Instr)) (t : State) : Out :=
  match t.here.stall with
  | some st => .next (cs.foldl State.takeTrap (pre.applyStall t.here.core st))
  | none =>
    if t.anyHeld cs true then .next (pre.holdBack t cs true)
    else if !t.here.off.isEmpty then
      .next ((t.each cs (fun _ _ g =>
        { (if g.parkAt = some t.here.addr then g.landA.unpark else g.landA) with pageFail := none })).settleOthers cs true)
    else
      let dest := t.here.aNext.getD next
      .next (cs.foldl State.takeTrap (t.each cs (fun _ _ g => g.endA1 dest l)))

/-- The group stands again at the slot of an access behind which nothing has issued (R35). -/
def Group.backTo (addr : Word) (slot : Nat) (g : Group) : Group :=
  { g with apc := addr, slotA := slot, midA := true, awaitBqe := false, segNext := false }

/-- An access that member `k` issued before has failed since (R205, R398): it traps at its own slot where nothing behind it has
issued, else before the next bundle (log 30). While another trap waits, it does so first (R35). -/
def State.raiseLate (s : State) (cs : List Nat) (k : Nat) : State :=
  match (s.front k).bind (·.lateFault) with
  | none => s
  | some (cause, place) =>
    if cs.any (fun c => ((s.front c).bind (·.trapPend)).isSome) then
      cs.foldl State.takeTrap (s.each cs (fun _ _ g => { g with heldA := true }))
    else
      let s := s.modBank k (s.core k).front (fun g => { g with lateFault := none })
      let (slot, s) := match place with
        | some (a, n) => (n, s.each cs (fun _ _ g => g.backTo a n))
        | none => (4, s)
      (raiseAt cause slot { s with here := { core := k, access := true, slot := slot, addr := ((s.front k).map (·.apc)).getD 0 } }).settleOthers
        cs true

/-- The access stream of core `c` issues its next bundle, with every member of its fused group. -/
def issueA (run : Instr → State → Out) (c : Nat) (s : State) : Out :=
  let cs := s.members c
  let s := cs.foldl State.endHolds s
  match s.front c with
  | none => .next s
  | some g0 =>
    if g0.dead.isSome then .next (s.takeTrap c)
    else if cs.any (fun k => ((s.front k).bind (·.trapPend)).any (fun t => t.2.1)) then .next (cs.foldl State.takeTrap s)
    else match cs.find? (fun k => ((s.front k).bind (·.lateFault)).isSome) with
    | some k => .next (s.raiseLate cs k)
    | none =>
    if g0.endA then .next (s.takeTrap c)
    else if s.frozen c true ≠ 0 then
      .next ((s.each cs (fun s _ g => { g with frozenAt := g.frozenAt.or (some s.time) })).takeTrap c)
    else
      let s := s.each cs (fun _ _ g => g.followBqe)
      match s.front c with
      | none => .next s
      | some g =>
        if g.endA then .next (cs.foldl State.takeTrap s)
        else
          match s.bundle c g.apc with
          | .malformed => .next (raiseAll ILLOP 0 cs { s with here := { core := c, access := true, addr := g.apc } })
          | .missing n =>
            if s.fetchFailed c (missingLine g.apc n) then
              .next (raiseAll FETCHFAIL 0 cs { s with here := { core := c, access := true, addr := g.apc } })
            else .next s
          | .ok l =>
            andThen (runSlots run true cs (noLoop l) (s.enterA cs c g.apc l))
              (closeA cs s (g.apc + BitVec.ofNat 64 (8 * l.length)) l)

/-! ## The execute stream (R27, R31–R33, R41, R44, R96) -/

/-- The latches that a syllable reads (R33, R63, R135). -/
def latchReads : Instr → BitVec 3
  | .pair y => selLatch (y.xa.setWidth 8) ||| selLatch y.xb ||| selLatch (y.va.setWidth 8) ||| selLatch y.vb
  | .vli _ _ => 0
  | i => match i.slotOpc with
    | some (slot, _, y) =>
      if slot ≥ 4 then 0
      else selLatch y.srca ||| selLatch y.srcb
        ||| (if slot = 1 ∨ slot = 2 then selLatch (y.imm.extractLsb' 9 8) else 0)
    | none => 0
where
  selLatch (b : BitVec 8) : BitVec 3 := if b = 0x40 then 1 else if b = 0x41 then 2 else if b = 0x42 then 4 else 0

/-- A CSR write takes effect at the end of its execute cycle (R101). -/
def applyCsr (write : Nat → Word → State → State) (c : Nat) (s : State) : State :=
  match s.front c with
  | none => s
  | some g =>
    let s := s.modBank c (s.core c).front (fun g => { g with csrw := [] })
    g.csrw.foldl (fun s x => write x.1 x.2 { s with here := { s.here with core := c } }) s

/-- The end of an execute bundle in one member: latches read are live no longer, the cycle's results land, and the
stream moves on (R29, R31, R33, R96). -/
def Group.endX1 (next : Word) (l : List (Nat × Option Instr)) (g : Group) : Group :=
  let used := (l.filterMap (·.2)).foldl (fun m i => m ||| latchReads i) (0 : BitVec 3)
  let g := ({ g with live := g.live &&& ~~~ used }).tick
  let g := { g with hist := g.hist.tail, slotX := 0, counted := false, stallX := 0, needQuiet := anyInstr nonIdem l || anyInstr needsQuiet l }
  if anyInstr isLoop l then
    match g.qs.bqa with
    | o :: t => { (g.setQs { g.qs with bqa := t }) with xpc := if o.taken then o.target else next, xNext := none }
    | [] => { g with xpc := next, xNext := none }
  else { g with xpc := g.xNext.getD next, xNext := none }
where
  /-- FUSE, REJOIN and TWAIT may stand only where the following boundary is quiet too (R305, R307). -/
  needsQuiet : Instr → Bool
    | .fuse _ | .rejoin _ | .twait _ => true
    | _ => false

/-- One execute cycle passes with no bundle: a hold, or END waiting for its results (R32, R98). -/
def State.idleCycle (s : State) (cs : List Nat) : State := s.each cs (fun _ _ g => g.thawX.tick)

/-- The boundary before a bundle that starts at its first slot is still to be judged and counted (R41, R44). -/
def Group.newBoundary (g : Group) : Bool := g.slotX == 0 && !g.counted

/-- The boundary before an execute bundle that starts at its first slot counts latch-live runs, once (R41). -/
def State.enterX (s : State) (cs : List Nat) : State :=
  s.each cs (fun _ _ g =>
    if g.newBoundary then
      { g with gstat := { g.gstat with lrun := if g.latchLive then g.gstat.lrun + 1 else 0 }, counted := true }
    else g)

/-- A syllable of the execute stream cannot issue yet: the stream freezes, with that code (R34, R181). -/
def State.stalledX (s : State) (cs : List Nat) (c : Nat) (st : Stall) : State :=
  let code := match st with
    | .freeze n => n
    | _ => 0
  (s.each cs (fun _ _ g => g.freezeX)).modBank c (s.core c).front (fun g => { g with stallX := code })

/-- An execute bundle after its syllables: `pre` as it was before them, `next` the address that follows (R29, R35). The CSR
writes of the syllables that committed come into force with it, before a trap of a higher slot is taken (R101). -/
def closeX (write : Nat → Word → State → State) (cs : List Nat) (pre : State) (next : Word) (l : List (Nat × Option Instr))
    (t : State) : Out :=
  match t.here.stall with
  | some st => .next (cs.foldl State.takeTrap (pre.stalledX cs t.here.core st))
  | none =>
    if t.anyHeld cs false then .next (pre.holdBack t cs false)
    else
      let u := cs.foldl (fun u k => applyCsr write k u) t
      if !t.here.off.isEmpty then .next (cs.foldl State.takeTrap (u.settleOthers cs false))
      else .next (cs.foldl State.takeTrap (u.each cs (fun _ _ g => g.endX1 next l)))

/-- The execute stream of core `c` issues its next bundle, with every member of its fused group. -/
def issueX (run : Instr → State → Out) (write : Nat → Word → State → State) (c : Nat) (s : State) : Out :=
  let cs := s.members c
  match s.front c with
  | none => .next s
  | some g0 =>
    if g0.dead.isSome then .next s
    else if cs.any (fun k => ((s.front k).bind (·.trapPend)).any (fun t => !t.2.1)) then .next (cs.foldl State.takeTrap s)
    else if g0.endedX then .next ((s.idleCycle cs).takeTrap c)
    else if cs.any s.held then .next (s.idleCycle cs)
    else if s.frozen c false ≠ 0 then .next ((s.each cs (fun _ _ g => g.freezeX)).takeTrap c)
    else match s.bundle c g0.xpc with
      | .malformed =>
        -- the fault is the access stream's (R56): the execute stream holds the bundle, and while a trap waits so does the fault
        let s := s.each cs (fun _ _ g => { g with heldX := true })
        if cs.any (fun k => ((s.front k).bind (·.trapPend)).isSome) then .next (cs.foldl State.takeTrap s)
        else .next (cs.foldl State.takeTrap (raiseAll ILLOP 0 cs { s with here := { core := c, access := true, addr := g0.xpc } }))
      | .missing n =>
        if s.fetchFailed c (missingLine g0.xpc n) then
          .next (raiseAll FETCHFAIL 0 cs { s with here := { core := c, addr := g0.xpc } })
        else .next s
      | .ok l =>
        let pre := s
        let next := g0.xpc + BitVec.ofNat 64 (8 * l.length)
        let s := (s.begin c false g0.xpc l).each cs (fun _ _ g => g.thawX)
        -- the boundary before the bundle (R41, R44)
        let live := fun k (p : Group → Bool) => ((s.front k).map (fun g => g.newBoundary && g.latchLive && p g)).getD false
        let runs := cs.filter (fun k => live k (fun g => g.gstat.lrun.toNat ≥ 16))
        let loud := cs.filter (fun k => live k (·.needQuiet))
        let fault := fun (cause : BitVec 8) (l : List Nat) =>
          let t := raiseAll cause 0 l s
          if t.anyHeld cs false then pre.holdBack t cs false else t.settleOthers cs false
        if !loud.isEmpty then .next (fault ILLOP loud)
        else if !runs.isEmpty then .next (fault LATCHRUN runs)
        else andThen (runSlots run false cs l (s.enterX cs)) (closeX write cs pre next l)

end Sys2Proof.Machine
end

