-- ==== Sys2Proof/Machine/Descriptor.lean ====
section
/-!
DEFINITION. The descriptor of a batch of frames (R270) and the layout of its output (R271).
-/
namespace Sys2Proof.Machine

structure VDesc where
  bsaddr : Nat
  bslen : Nat
  nframes : Nat
  fw : Nat
  fh : Nat
  slot0 : Nat
  bf : Bool
  grain : Bool
  pad : Bool
  luma : Bool
  d10 : Bool
  padv : Nat
  /-- bf16 scale and bias of Y, U, V -/
  map : List (Nat × Nat)
  staddr : Nat
  cwaddr : Nat
  cwsc : Nat
  cwseq : Word
  /-- reserved fields are zero -/
  clean : Bool
  deriving DecidableEq, Repr

def VDesc.of (d : BitVec 512) : VDesc :=
  let w := fun o => field d.toNat (8 * o + 63) (8 * o)
  let a := w 0x10
  let m := w 0x18
  let n := w 0x20
  { bsaddr := w 0, bslen := field (w 8) 63 32, nframes := field (w 8) 31 16
    fw := field a 63 51, fh := field a 50 38, slot0 := field a 37 27, bf := bit a 26, grain := bit a 25, pad := bit a 24
    luma := bit a 23, d10 := bit a 22, padv := field a 15 0
    map := [(field m 15 0, field m 31 16), (field m 47 32, field m 63 48), (field n 15 0, field n 31 16)]
    staddr := w 0x28, cwaddr := field (w 0x30) 63 4 * 16, cwsc := field (w 0x30) 1 0, cwseq := BitVec.ofNat 64 (w 0x38)
    clean := field (w 8) 15 0 == 0 && field a 21 16 == 0 && field n 63 32 == 0 && field (w 0x30) 3 2 == 0 }

/-- Rows of a slot (R271). -/
def VDesc.q (d : VDesc) : Nat := if !d.bf && !d.d10 then 64 else 32

/-- Bytes of an element, and the tag's format. -/
def VDesc.size (d : VDesc) : Nat := if !d.bf && !d.d10 then 1 else 2
def VDesc.fmt (d : VDesc) : Nat := if d.bf then 9 else if d.d10 then 5 else 4

def VDesc.planes (d : VDesc) : List Nat := if d.luma then [0] else [0, 1, 2]

/-- Width and height of a plane. -/
def VDesc.dims (d : VDesc) (p : Nat) : Nat × Nat := if p = 0 then (d.fw, d.fh) else ((d.fw + 1) / 2, (d.fh + 1) / 2)

/-- Slots of a plane: across and down. -/
def VDesc.grid (d : VDesc) (p : Nat) : Nat × Nat :=
  let (w, h) := d.dims p
  ((w + 63) / 64, (h + d.q - 1) / d.q)

/-- SPF: the slots of a frame. -/
def VDesc.spf (d : VDesc) : Nat := (d.planes.map (fun p => (d.grid p).1 * (d.grid p).2)).foldl (· + ·) 0

def VDesc.valid (d : VDesc) : Bool :=
  d.clean && 1 ≤ d.bslen && 1 ≤ d.nframes && 1 ≤ d.fw && d.fw ≤ 4096 && 1 ≤ d.fh && d.fh ≤ 2304 && d.slot0 ≤ 1535
    && d.staddr % 8 == 0 && d.slot0 + d.nframes * d.spf ≤ 1536

end Sys2Proof.Machine
end

