-- ==== Sys2Proof/Machine/Flags.lean ====
section
/-!
DEFINITION. The status words: GSTAT and SAV_STAT (R38), MCFG and CLPRES (R21), ASHAPE (R170), EPH_STAT (R361),
DVFS_STAT (R354), AGE (R292), ECC_THRESH (R409), LLC_MISS_HI (R360), and which of their bits a view reads and writes.
-/
namespace Sys2Proof.Machine

/-- A word of fields: each a low bit and a value. -/
def fields (l : List (Nat × Nat)) : Word := BitVec.ofNat 64 (l.foldl (fun n f => n + f.2 * 2 ^ f.1) 0)

/-- Ones on bits hi down to lo. -/
def ones (hi lo : Nat) : Word := BitVec.ofNat 64 (2 ^ (hi + 1) - 2 ^ lo)

def fld (w : Word) (hi lo : Nat) : Nat := field w.toNat hi lo

/-! ## GSTAT (R38) -/

def Gstat.toWord (g : Gstat) : Word :=
  fields [(56, g.cause.toNat), (53, g.slotResume.toNat), (52, bool1 g.stream), (51, bool1 g.valid), (50, bool1 g.mode),
    (49, bool1 g.scopeMiss), (48, bool1 g.fused), (46, g.fwidth.toNat), (44, g.fidx.toNat), (43, bool1 g.bank),
    (42, bool1 g.shadow), (38, g.frza.toNat), (34, g.frzx.toNat), (29, g.lrun.toNat)]

/-- Every field from a word: the write of SAV_STAT in S. -/
def Gstat.ofWord (w : Word) : Gstat :=
  { cause := BitVec.ofNat 8 (fld w 63 56), slotResume := BitVec.ofNat 3 (fld w 55 53), stream := w.getLsbD 52
    valid := w.getLsbD 51, mode := w.getLsbD 50, scopeMiss := w.getLsbD 49, fused := w.getLsbD 48
    fwidth := BitVec.ofNat 2 (fld w 47 46), fidx := BitVec.ofNat 2 (fld w 45 44), bank := w.getLsbD 43
    shadow := w.getLsbD 42, frza := BitVec.ofNat 4 (fld w 41 38), frzx := BitVec.ofNat 4 (fld w 37 34)
    lrun := BitVec.ofNat 5 (fld w 33 29) }

/-- GSTAT bits that U and S read: all but FRZA, FRZX and the reserved ones. -/
def gstatRead : Word := ones 63 42 ||| ones 33 29

/-- GSTAT bits that a view writes: CAUSE, SLOT_RESUME, STREAM and SCOPEMISS in S, SCOPEMISS in U. -/
def gstatWrite (smode : Bool) : Word := if smode then ones 63 52 ||| ones 49 49 else ones 49 49

/-- What a write of GSTAT leaves: its writable fields. -/
def Gstat.write (g : Gstat) (smode : Bool) (w : Word) : Gstat :=
  if smode then
    { g with cause := BitVec.ofNat 8 (fld w 63 56), slotResume := BitVec.ofNat 3 (fld w 55 53), stream := w.getLsbD 52
             scopeMiss := w.getLsbD 49 }
  else { g with scopeMiss := g.scopeMiss && w.getLsbD 49 }

/-! ## The device's configuration (R21) -/

/-- Enabled HBM stacks and LP6 channels. -/
def Board.hbm (b : Board) : Nat := ((upTo 8).filter (!b.hbmOff.contains ·)).length
def Board.lp6 (b : Board) : Nat := ((upTo 16).filter (!b.lp6Off.contains ·)).length

def State.mcfg (s : State) : Word :=
  fields [(40, s.clusterCount), (32, s.board.hbm), (24, s.board.lp6), (16, s.board.links), (8, s.board.decoders),
    (4, s.board.form), (0, s.board.stepping)]

/-- Bits of enabled clusters from `base` on. -/
def State.presence (s : State) (base n : Nat) : Word :=
  fields ((upTo n).map (fun i => (i, bool1 (s.enabled (base + i)))))

/-! ## Power (R354, R360, R361) -/

def State.ephStat (s : State) : Word :=
  let g := s.gov
  fields [(56, g.cause.toNat), (55, bool1 (g.limit < 15)), (54, bool1 (g.pthr != 0)), (53, bool1 (g.sthr != 0)),
    (49, g.limit % 16), (46, g.pthr % 8), (43, g.sthr % 8), (42, bool1 g.dflt), (41, bool1 g.offref), (40, bool1 g.capmiss),
    (39, bool1 g.floormiss), (16, min g.excused 65535), (8, min g.misses 255),
    (0, (upTo 8).foldl (fun n d => n + bool1 (g.gated.contains d) * 2 ^ d) 0)]

def Dvfs.word (limit : Nat) (d : Dvfs) : Word :=
  fields [(60, d.level % 16), (56, d.target % 16), (52, limit % 16), (50, d.stepSt.toNat), (40, min d.sratio 255),
    (32, min d.fifoMax 255), (16, min d.deny 65535), (0, min d.steps 65535)]

def State.missHi (s : State) : Word := fields [(16, s.board.minb % 256), (0, s.board.rate % 65536)]

def State.eccThresh (s : State) : Word :=
  fields [(32, s.board.retire % 256), (16, s.board.wsh % 32), (0, s.board.eccCount % 65536)]

/-- AGE (R292). -/
def Ctx.ageWord (x : Ctx) : Word := fields [(8, x.preth % 256), (0, x.age % 32)]

/-- A write of AGE: PRETH 0 and AGE 21–31 are ignored (R292). -/
def Ctx.setAge (x : Ctx) (w : Word) : Ctx :=
  { x with preth := if fld w 15 8 = 0 then x.preth else fld w 15 8, age := if fld w 4 0 > 20 then x.age else fld w 4 0 }

/-! ## CSRs by view (R102) -/

/-- Bits that a CSR shows to U (`smode` false) or S. -/
def csrRead (smode : Bool) (n : Nat) : Word :=
  match n with
  | 0x000 => gstatRead
  | 0x001 => if smode then ones 63 29 else 0
  | 0x002 => if smode then ones 63 3 else 0
  | 0x003 => if smode then ones 63 3 else 0
  | 0x004 => if smode then ones 63 6 else 0
  | 0x008 => ones 2 0
  | 0x009 => ones 3 0
  | 0x00A => if smode then ones 15 8 ||| ones 4 0 else 0
  | 0x010 => if smode then ones 63 0 else 0
  | 0x011 => if smode then ones 63 0 else 0
  | 0x012 => if smode then ones 63 0 else 0
  | 0x020 => ones 47 0
  | 0x021 => ones 63 0
  | 0x022 => ones 7 0
  | 0x030 => ones 63 39 ||| ones 31 0
  | 0x031 => ones 63 50 ||| ones 47 0
  | 0x040 => if smode then ones 39 32 ||| ones 20 0 else 0
  | 0x041 => if smode then ones 23 0 else 0
  | _ => 0

/-- Bits that U or S may write. -/
def csrWrite (smode : Bool) (n : Nat) : Word :=
  match n with
  | 0x000 => gstatWrite smode
  | 0x008 => ones 2 0
  | 0x001 | 0x002 | 0x003 | 0x004 | 0x00A | 0x010 | 0x011 | 0x012 => csrRead smode n
  | _ => 0

/-- A CSR's value at the group of a core (R102). -/
def State.csrValue (s : State) (c : Nat) (g : Group) (n : Nat) : Word :=
  let x := s.ctx g.ctx
  match n with
  | 0x000 => (s.gstatNow c g).toWord
  | 0x001 => g.savStat.toWord
  | 0x002 => g.savApc
  | 0x003 => g.savXpc
  | 0x004 => g.tvec
  | 0x008 => g.rmode.setWidth 64
  | 0x009 => (s.core c).mat.ashape.setWidth 64
  | 0x00A => x.ageWord
  | 0x010 => x.rkey0
  | 0x011 => x.rkey1
  | 0x012 => g.rctr
  | 0x020 => s.mcfg
  | 0x021 => s.presence 0 64
  | 0x022 => s.presence 64 8
  | 0x030 => s.ephStat
  | 0x031 => (s.cluster (c / 4)).dvfs.word s.gov.limit
  | 0x040 => s.eccThresh
  | 0x041 => s.missHi
  | _ => 0

/-- The queued random words of every group of a context are discarded (R119). -/
def State.dropRbq (s : State) (ctx : Nat) : State := s.mapGroups (fun g => if g.ctx = ctx then { g with rbq := [] } else g)

/-- A CSR of the front group of core `here.core` takes a value: the field rules of each (R38, R39, R113, R119, R292). -/
def setCsr (n : Nat) (w : Word) (s : State) : State :=
  let ctx := s.me.ctx
  match n with
  | 0x000 => s.upd (fun g => { g with gstat := g.gstat.write g.gstat.mode w })
  | 0x001 => s.upd (fun g => { g with savStat := Gstat.ofWord w })
  | 0x002 => s.upd (fun g => { g with savApc := w &&& ones 63 3 })
  | 0x003 => s.upd (fun g => { g with savXpc := w &&& ones 63 3 })
  | 0x004 => s.upd (fun g => { g with tvec := w &&& ones 63 6 })
  | 0x008 => s.upd (fun g => if fld w 2 0 ≤ 4 then { g with rmode := BitVec.ofNat 3 (fld w 2 0) } else g)
  | 0x00A => s.modCtx ctx (·.setAge w)
  | 0x010 => (s.modCtx ctx (fun x => { x with rkey0 := w })).dropRbq ctx
  | 0x011 => (s.modCtx ctx (fun x => { x with rkey1 := w })).dropRbq ctx
  | 0x012 => s.upd (fun g => { g with rctr := w, rbq := [] })
  | _ => s

end Sys2Proof.Machine
end

