-- ==== Sys2Proof/Machine/Fwin.lean ====
section
/-!
DEFINITION. The registers of the format windows (R126–R128): the checks of an enable, the flush, the disable, and the
events that carry them.
-/
namespace Sys2Proof.Machine

/-- The window `n` of an H-die. -/
def State.fwin (s : State) (h n : Nat) : Fwin := Tab.get {} (s.hdie h).fwin n

def State.modFwin (s : State) (h n : Nat) (f : Fwin → Fwin) : State :=
  s.modHdie h (fun d => { d with fwin := Tab.modify {} d.fwin n f })

/-- A range of memory that H-die `h` owns: inside one populated aperture (R128, R195). -/
def State.ownRange (s : State) (h base len kind : Nat) : Bool :=
  let last := base + len - 1
  0 < len && s.populated base && s.populated last && ownerOf base == h && ownerOf last == h
    && regionKind base ≤ kind && regionKind last ≤ kind && base / 2 ^ 36 == last / 2 ^ 36

/-- Two ranges share a byte. -/
def meetsRange (a n b m : Nat) : Bool := 0 < n && 0 < m && a < b + m && b < a + n

/-- The checks of R128 on a window about to be enabled; an image may lie in commons that the H-die owns (log 103). -/
def State.fwinOk (s : State) (h n : Nat) (w : Fwin) : Bool :=
  let others := (s.hdie h).fwin.filter (fun e => e.1 != n && e.2.en)
  w.fmt.toNat ≤ 3 && (w.rnd == 0 || w.rnd == 4) && w.units != 0 && (w.fmt == 0 || w.auxAt / 32 % 2 == 0)
    && s.ownRange h w.base w.bytes 1 && s.ownRange h w.encAt w.encBytes 1 && s.ownRange h w.auxAt w.auxBytes 1
    && others.all (fun e =>
      !meetsRange w.base w.bytes e.2.base e.2.bytes
        && !meetsRange w.base w.bytes e.2.encAt e.2.encBytes
        && !meetsRange w.base w.bytes e.2.auxAt e.2.auxBytes
        && !meetsRange w.encAt w.encBytes e.2.base e.2.bytes
        && !meetsRange w.auxAt w.auxBytes e.2.base e.2.bytes)

/-- Resident lines of a range. -/
def State.residentIn (s : State) (h base len : Nat) : List Nat :=
  ((s.hdie h).llc.map (·.1)).filter (fun ln => base ≤ 64 * ln && 64 * ln < base + len)

/-- Write-back of every dirty line of a range, and its invalidation too when `drop` (R128, R130). -/
def State.flushRange (s : State) (h base len : Nat) (drop : Bool) : State :=
  (s.residentIn h base len).foldl (fun s ln => if drop then s.evictLine ln else s.writeBack ln) s

/-- EN = 1 written: the window is enabled when every check passes (R128). Lines of the image held undecoded are written
back and leave the LLC. -/
def State.fwinEnable (s : State) (h n : Nat) (w : Word) : State :=
  let old := s.fwin h n
  let new := { old with fmt := BitVec.ofNat 3 (field w.toNat 59 57), tgt := w.getLsbD 56, rnd := BitVec.ofNat 3 (field w.toNat 55 53) }
  if s.fwinOk h n new then
    let s := s.flushRange h new.base new.bytes true
    let book := BitVec.ofNat 256 (leNat ((upTo 32).map (fun i => s.rawByte (new.auxAt + i))))
    s.modFwin h n (fun _ => { new with en := true, err := false, book := if new.fmt = 0 then book else 0 })
  else s.modFwin h n (fun _ => { new with err := true })

/-- EN = 0 written while EN = 1: write-back and invalidation under BUSY (R128). -/
def State.fwinDisable (s : State) (h n : Nat) : State :=
  let w := s.fwin h n
  if !w.en || w.closing then s
  else (s.flushRange h w.base w.bytes true).modFwin h n (fun w => { w with busy := true, closing := true })

/-- FLUSH = 1 written (R128). -/
def State.fwinFlush (s : State) (h n : Nat) : State :=
  let w := s.fwin h n
  if !w.en || w.closing then s
  else (s.flushRange h w.base w.bytes false).modFwin h n (fun w => { w with busy := true })

/-- BUSY returns to 0; a disable ends with EN = 0 (R128). -/
def State.fwinDone (s : State) (h n : Nat) : State :=
  let w := s.fwin h n
  (if w.closing then s.flushRange h w.base w.bytes true else s).modFwin h n (fun w =>
    { w with busy := false, closing := false, en := w.en && !w.closing })

/-- A write of one of the six registers of a window (R126, R128). FLUSH without an enabled window does nothing, and EN = 1
written to an enabled one checks and reads nothing again (log 103). -/
def State.fwinWrite (s : State) (h n reg : Nat) (w : Word) : State :=
  let f := s.fwin h n
  let bad := s.modFwin h n (fun f => { f with err := true })
  let x := w.toNat
  match reg with
  | 0 =>
    let same := field x 59 57 == f.fmt.toNat && w.getLsbD 56 == f.tgt && field x 55 53 == f.rnd.toNat
    if f.en then
      if !same then bad
      else
        let s := if w.getLsbD 62 then s.fwinFlush h n else s
        if w.getLsbD 63 then s else s.fwinDisable h n
    else if w.getLsbD 63 then s.fwinEnable h n w
    else s.modFwin h n (fun f =>
      { f with fmt := BitVec.ofNat 3 (field x 59 57), tgt := w.getLsbD 56, rnd := BitVec.ofNat 3 (field x 55 53) })
  | 1 => if f.en then (if field x 51 16 = f.img.toNat then s else bad) else s.modFwin h n (fun f => { f with img := BitVec.ofNat 36 (field x 51 16) })
  | 2 => if f.en then (if x % 2 ^ 32 = f.units.toNat then s else bad) else s.modFwin h n (fun f => { f with units := BitVec.ofNat 32 x })
  | 3 => if f.en then (if field x 51 6 = f.enc.toNat then s else bad) else s.modFwin h n (fun f => { f with enc := BitVec.ofNat 46 (field x 51 6) })
  | 4 => if f.en then (if field x 51 5 = f.aux.toNat then s else bad) else s.modFwin h n (fun f => { f with aux := BitVec.ofNat 47 (field x 51 5) })
  | 5 => if f.en then (if w = f.seed then s else bad) else s.modFwin h n (fun f => { f with seed := w })
  | _ => s

/-- A read of one of the six registers. -/
def Fwin.word (f : Fwin) (reg : Nat) : Word :=
  match reg with
  | 0 => BitVec.ofNat 64 (bool1 f.en * 2 ^ 63 + bool1 f.busy * 2 ^ 61 + bool1 f.err * 2 ^ 60 + f.fmt.toNat * 2 ^ 57
      + bool1 f.tgt * 2 ^ 56 + f.rnd.toNat * 2 ^ 53)
  | 1 => BitVec.ofNat 64 (f.img.toNat * 2 ^ 16)
  | 2 => f.units.setWidth 64
  | 3 => BitVec.ofNat 64 (f.enc.toNat * 2 ^ 6)
  | 4 => BitVec.ofNat 64 (f.aux.toNat * 2 ^ 5)
  | 5 => f.seed
  | _ => 0

/-! ## Events -/

/-- A window that exists. -/
def isFwin (h n : Nat) : Bool := h < 2 && n < 32

def execFwinEnable (hdie n : Nat) (w : Word) (s : State) : Out :=
  .next (if isFwin hdie n then s.fwinWrite hdie n 0 (w ||| BitVec.twoPow 64 63) else s)

def execFwinDisable (hdie n : Nat) (s : State) : Out := .next (if isFwin hdie n then s.fwinDisable hdie n else s)

def execFwinFlush (hdie n : Nat) (s : State) : Out := .next (if isFwin hdie n then s.fwinFlush hdie n else s)

end Sys2Proof.Machine
end

