-- ==== Sys2Proof/Machine/Regs.lean ====
section
/-!
DEFINITION. The register space of the H-dies as each view reads it (R126, R196, R221, R242, R246, R286, R328, R336, R356,
R387, R391, R396, R422, R425, R430, R432, R442), and the three registers that S writes (R126, R337, R422).
-/
namespace Sys2Proof.Machine

/-! ## Single registers -/

/-- The barrier word (R242). -/
def Barrier.word (b : Barrier) : Word :=
  fields [(63, bool1 b.phase), (62, bool1 b.poison), (61, bool1 b.ppois), (60, bool1 b.mode), (28, b.target % 2 ^ 28),
    (0, b.current % 2 ^ 28)]

/-- A load of the barrier aperture for a context (R246). -/
def State.apertureWord (s : State) (ctx : Option Nat) (off : Nat) : Word :=
  let c := (off - 0x20000) / 0x100
  match ctx with
  | some x => if s.enabled c then (s.bar c x (off % 0x100 / 8)).word else 0
  | none => 0

/-- A window in the layout of R391. -/
def Window.word (w : Window) (i : Nat) : Word :=
  match i with
  | 0 => BitVec.ofNat 64 (w.base.toNat * 2 ^ 16)
  | 1 => BitVec.ofNat 64 (w.limit.toNat * 2 ^ 16)
  | 2 => BitVec.ofNat 64 (w.xlat.toNat * 2 ^ 16)
  | _ => fields [(5, bool1 w.host), (4, bool1 w.so), (3, bool1 w.x), (2, bool1 w.w), (1, bool1 w.r), (0, bool1 w.en)]

/-- CTXCFG as H reads it (R387). -/
def Ctx.cfgWord (x : Ctx) : Word :=
  fields [(32, x.gen.toNat), (30, x.state.toNat), (28, bool1 x.halt), (27, bool1 x.halted), (26, bool1 x.err),
    (20, x.scopes.toNat), (17, x.pceil.toNat), (14, x.cmin.toNat), (13, bool1 x.devr)]

/-- A word of a context block (R387). -/
def Ctx.blockWord (x : Ctx) (o : Nat) : Word :=
  match o with
  | 0x00 => x.cfgWord
  | 0x08 => x.ptroot0
  | 0x10 => x.ptroot1
  | 0x18 => x.dtvec
  | 0x20 => x.gsave
  | 0x28 => x.lovf
  | 0x30 => x.wovf
  | 0x38 => x.shpool
  | o => if o < 0x200 then 0 else (Tab.get {} x.win ((o - 0x200) / 0x20)).word (o % 0x20 / 8)

/-- The launch ring's registers (R286). -/
def Ctx.ringWord (x : Ctx) (o : Nat) : Word :=
  match o with
  | 0x00 => fields [(6, x.lrbase.toNat), (5, bool1 x.lren), (0, x.lrlog.toNat)]
  | 0x08 => x.lrtail.setWidth 64
  | 0x10 => x.lrhead.setWidth 64
  | 0x18 => fields [(8, x.lrindex.toNat), (0, x.lrcause.toNat)]
  | _ => 0

/-- The cycle record (R328). -/
def Ctx.cycleWord (x : Ctx) (o : Nat) : Word :=
  if o < 0x20 then Tab.get 0 x.links (o / 8)
  else if o = 0x20 then fields [(16, min x.nlink 65535), (0, min x.dcCount 65535)] else 0

/-- The fault unit (R394, R396, R402). -/
def HDie.faultWord (d : HDie) (o : Nat) : Word :=
  match o with
  | 0x00 => d.frbase
  | 0x08 => d.frhead.setWidth 64
  | 0x10 => d.frtail.setWidth 64
  | 0x18 => fields [(16, bool1 (8192 ≤ d.tokens.length || !d.noToken.isEmpty)), (0, d.tokens.length)]
  | 0x28 => fields [(63, bool1 d.tlbinv.isSome)]
  | 0x30 => fields [(12, d.migdst.toNat)]
  | 0x38 => fields [(63, bool1 d.migBusy), (56, d.migResult.toNat)]
  | _ => 0

/-- The state that CONFQ reads (R422). -/
def Board.confState (b : Board) : Nat :=
  let hit := b.log.filter (fun e => e.ctx == b.confCtx.toNat && e.base / 65536 == b.confBase.toNat)
  if hit.any (·.suspect) then 3 else if hit.isEmpty then 0 else 1

def Port.word (p : Port) : Word :=
  fields [(62, p.state.toNat), (60, p.lanes.toNat), (50, p.peer.toNat), (32, min p.drop 65535), (16, min p.retrain 65535),
    (0, min p.shed 65535)]

def Route.word (r : Route) : Word := fields [(63, bool1 r.v), (62, bool1 r.av), (8, r.alt.toNat), (0, r.pri.toNat)]

/-! ## The window on a saved bank (R430) -/

/-- Word `i` of a 2,048-bit value. -/
def vword (v : VReg) (i : Nat) : Word := (v >>> (64 * i)).setWidth 64

/-- Leading granules of a channel that are filled (R261). -/
def leading : Nat → Tab (BitVec 64) → Nat
  | i, [] => i
  | i, (k, x) :: t => if k = i ∧ x = BitVec.allOnes 64 then leading (i + 1) t else i

/-- A channel's watermark (R261). -/
def Chan.mark (c : Chan) : Nat := c.base + min c.len (64 * leading 0 c.filled)

def Chan.word (c : Chan) (o : Nat) : Word :=
  match o with
  | 0 => BitVec.ofNat 64 c.base
  | 1 => BitVec.ofNat 64 c.len
  | 2 => BitVec.ofNat 64 c.mark
  | _ => fields [(1, bool1 c.flt), (0, bool1 c.os)]

def BOut.word (o : BOut) : Word := (o.target &&& ones 63 3) ||| (if o.taken then 1 else 0)

/-- Entry `e` of a queue, zero where there is none or it is not filled. -/
def entryAt (l : List QEntry) (e : Nat) : VReg := ((l[e]?).bind (·.data)).getD 0

/-- Bits of a shape register that are not reserved (R251). -/
def shapeBits (n : Nat) : Word := if n % 8 = 0 then 0xFFFF8F00 else if n % 8 = 7 then 0x80FFFFFFFFFFFFFF else BitVec.allOnes 64

/-- A word of the bank's window, by its offset from 0x7_6000. -/
def Group.regWord (g : Group) (o : Nat) : Word :=
  let q := g.qs
  let queue := fun n => g.queue n
  let vec := fun (f : Nat → VReg) (base : Nat) => vword (f ((o - base) / 256)) ((o - base) % 256 / 8)
  if o < 0x100 then g.rdA (o / 8)
  else if o < 0x300 then g.rdS ((o - 0x100) / 8)
  else if o < 0x340 then g.rdG ((o - 0x300) / 8)
  else if o < 0x360 then (g.rdK ((o - 0x340) / 8)).setWidth 64
  else if o < 0x400 then 0
  else if o < 0x600 then ((g.rdM ((o - 0x400) / 32)) >>> (64 * ((o - 0x400) % 32 / 8))).setWidth 64
  else if o < 0x640 then Tab.get 0 g.mp ((o - 0x600) / 8)
  else if o < 0x680 then 0
  else if o < 0x700 then Tab.get 0 g.sh ((o - 0x680) / 8) &&& shapeBits ((o - 0x680) / 8)
  else if o < 0x800 then (Tab.get {} g.ch ((o - 0x700) / 32)).word ((o - 0x700) % 32 / 8)
  else if o < 0x900 then (if o = 0x800 then lo64 (g.rdLt 0) else 0)
  else if o < 0xB00 then vec (fun n => g.rdLt (n + 1)) 0x900
  else if o < 0xB40 then lo64 (entryAt (queue 6) ((o - 0xB00) / 8))
  else if o < 0xBC0 then ((q.bqa[(o - 0xB40) / 8]?).map BOut.word).getD 0
  else if o < 0xC40 then ((q.bqe[(o - 0xBC0) / 8]?).map BOut.word).getD 0
  else if o < 0xC90 then
    let n := (o - 0xC40) / 8
    let len := if n < 8 then (queue n).length else if n = 8 then q.bqa.length else q.bqe.length
    fields [(8, bool1 g.trapSel), (0, len)]
  else if o < 0x1000 then 0
  else if o < 0x2000 then vec (fun n => entryAt (queue (4 + n / 8)) (n % 8)) 0x1000
  else if o < 0x2400 then vec (fun n => entryAt (queue 7) n) 0x2000
  else if o < 0x2800 then 0
  else if o < 0x3000 then vec (fun n => (g.rbq[n]?).getD 0) 0x2800
  else if o < 0x4000 then 0
  else if o < 0x8000 then vec g.rdV 0x4000
  else if o < 0xA000 then vec (fun n => entryAt (queue (n / 8)) (n % 8)) 0x8000
  else 0

/-- The bank that REGSEL names, if it is saved, by a gang switch or a park (R430). -/
def State.regselSaved (s : State) : Option Group :=
  let r := s.board.regsel.toNat
  let ctx := field r 23 18
  let clu := field r 17 11
  let ganged := (Tab.get none (s.cluster clu).saved ctx).bind (fun g => match g.cores[field r 10 9]? with
    | some (b0, b1, _, _) => if r.testBit 8 then b1 else b0
    | none => none)
  let parked := ((s.cluster clu).parked.flatMap (·.groups)).find? (fun e =>
    e.group.ctx == ctx && e.core == 4 * clu + field r 10 9 && e.bank == r.testBit 8)
  ganged.or (parked.map (·.group))

/-- What the window shows: the bank while its context is HALTED. -/
def State.regselBank (s : State) : Option Group := if (s.ctx (field s.board.regsel.toNat 23 18)).halted then s.regselSaved else none

/-! ## Reading -/

/-- The 8-byte register at offset `o` of H-die `h`, as H reads it (`hv`) or as S reads it. `ctx` is the context whose
barriers the aperture shows. -/
def State.regRead (s : State) (hv : Bool) (ctx : Option Nat) (h o : Nat) : Word :=
  let lead := h == 0
  let b := s.board
  let g := s.gov
  let host := fun (w : Word) => if hv then w else 0
  if o % 8 ≠ 0 then 0
  else if o = 0x100 then fields [(4, bool1 (s.hdie h).splitBusy), (0, (s.hdie h).nstep)]
  else if 0x8000 ≤ o ∧ o < 0x8800 then (s.fwin h ((o - 0x8000) / 0x40)).word (o % 0x40 / 8)
  else if 0x70000 ≤ o ∧ o < 0x70048 then host ((s.hdie h).faultWord (o - 0x70000))
  else if !lead then 0
  else if 0x10000 ≤ o ∧ o < 0x20000 then
    let x := s.ctx ((o - 0x10000) / 0x400)
    let n := o % 0x400 / 0x10
    host (if o % 0x10 = 0 then Tab.get 0 x.bytes n else Tab.get 0 x.stalls n)
  else if 0x20000 ≤ o ∧ o < 0x25000 then
    s.apertureWord (if hv then (s.cluster ((o - 0x20000) / 0x100)).ctx else ctx) o
  else if 0x30000 ≤ o ∧ o < 0x31000 then host ((s.ctx ((o - 0x30000) / 0x40)).ringWord (o % 0x40))
  else if 0x40000 ≤ o ∧ o < 0x41000 then (s.ctx ((o - 0x40000) / 0x40)).cycleWord (o % 0x40)
  else if 0x51000 ≤ o ∧ o < 0x51240 then
    let k := s.cluster ((o - 0x51000) / 8)
    fields [(16, min k.alarms 65535), (0, k.thr)]
  else if 0x60000 ≤ o ∧ o < 0x70000 then host ((s.ctx ((o - 0x60000) / 0x400)).blockWord (o % 0x400))
  else if 0x76000 ≤ o ∧ o < 0x80000 then host ((s.regselBank.map (fun g => g.regWord (o - 0x76000))).getD 0)
  else if 0x81000 ≤ o ∧ o < 0x83000 then (Tab.get {} b.routes ((o - 0x81000) / 8)).word
  else if 0x83000 ≤ o ∧ o < 0x83090 then (Tab.get {} b.ports ((o - 0x83000) / 8)).word
  else match o with
    | 0x50000 => host (fields [(6, g.ephaddr.toNat)])
    | 0x50008 => host (fields [(0, bool1 g.ephgo)])
    | 0x50010 => g.utcoff
    | 0x50018 => fields [(0, s.targetNow % 2 ^ 32)]
    | 0x50020 => fields [(0, g.meas % 2 ^ 32)]
    | 0x71000 => fields [(62, b.confState), (16, b.confBase.toNat), (0, b.confCtx.toNat)]
    | 0x72000 => host (fields [(63, bool1 b.lifeAddr.isSome)])
    | 0x74000 => fields [(56, b.stage.toNat), (48, b.bootCause.toNat), (32, b.fwver.toNat)]
    | 0x75000 => host (fields [(63, bool1 s.regselSaved.isSome), (8, field b.regsel.toNat 23 8)])
    | 0x80000 => fields [(63, bool1 b.domEn), (0, b.devid.toNat)]
    | _ => 0

/-! ## What S writes -/

/-- A write of UTCOFF (R337). -/
def State.utcWrite (s : State) (w : Word) : State :=
  let g := s.gov
  let step := (w.toInt - g.utcoff.toInt).natAbs
  let ok := match g.utcLast with
    | none => true
    | some t => decide (step * 10 ^ 9 ≤ 50000 * (s.time - t))
  if ok then { s with gov := { g with utcoff := w, utcLast := some s.time, offref := false } }
  else { s with gov := { g with offref := true } }

/-- A query of the publish log; S asks of its own context (R422). -/
def State.confWrite (s : State) (ctx : Nat) (w : Word) : State :=
  { s with board := { s.board with confBase := BitVec.ofNat 40 (field w.toNat 55 16), confCtx := BitVec.ofNat 6 ctx } }

/-- A store of S to register space: fields without an S entry ignore it (R386). -/
def State.regWriteS (s : State) (ctx h o : Nat) (w : Word) : State :=
  if 0x8000 ≤ o ∧ o < 0x8800 then s.fwinWrite h ((o - 0x8000) / 0x40) (o % 0x40 / 8) w
  else if h = 0 ∧ o = 0x50010 then s.utcWrite w
  else if h = 0 ∧ o = 0x71000 then s.confWrite ctx w
  else s

end Sys2Proof.Machine
end

