-- ==== Sys2Proof/Machine/Perform.lean ====
section
/-!
DEFINITION. What an access does at its serving point (R223): loads, stores, atomics, bank operations, commons rings,
deferred cells and barrier arrivals (R209–R216, R231–R246, R317, R318, R405), with stamps (R232), poison (R413) and
escapes (R412).
-/
namespace Sys2Proof.Machine

/-! ## Barriers (R243) -/

/-- The phases that `x` collected completes, at most `fuel` of them. -/
def completes (p : Bool) : Nat → Nat → Barrier → Barrier
  | 0, x, b => { b with current := x }
  | fuel + 1, x, b =>
    if b.target ≤ x then
      let x := x - b.target
      completes p fuel x { b with ppois := b.poison, poison := p && decide (0 < x), phase := !b.phase, phases := b.phases + 1 }
    else { b with current := x }

/-- arrive(b, n, p). -/
def Barrier.arrive (b : Barrier) (n : Nat) (p : Bool) : Barrier :=
  if b.target = 0 then b
  else
    let x := b.current + n
    completes p (x / b.target) x { b with poison := b.poison || p }

/-- Waiters of the phase that barrier `b` completes wake: a stream frozen before its BWAIT, and a group that left the front
waiting for it (R243). -/
def State.wakeBar (s : State) (cl ctx b : Nat) : State :=
  let frozen := (coresOf cl).filter (fun c => (s.front c).any (fun g => g.ctx == ctx && (s.bwaits c g).contains b))
  let left := fun (g : Group) => if g.ctx = ctx then { g with holds := g.holds.filter (fun h => match h with
    | .barrier n _ => n != b
    | _ => true) } else g
  let s := (coresOf cl).foldl (fun s c => s.modCore c (Core.mapGroups left)) (s.modCluster cl (Cluster.mapGroups left))
  frozen.foldl (fun s c => s.modBank c (s.core c).front (fun g => { g with bwoken := some b })) s

/-- An arrival at a barrier of a cluster and context performs; one that names no barrier is discarded (R243, R246). -/
def State.arrive (s : State) (cl ctx b n : Nat) (p : Bool) : State :=
  if !s.enabled cl then s
  else
    let x := s.bar cl ctx b
    let s := if x.target ≠ 0 ∧ x.target ≤ x.current + n then s.wakeBar cl ctx b else s
    s.modCluster cl (fun k => { k with bars := Tab.modify {} k.bars (32 * ctx + b) (·.arrive n p) })

/-- BINIT performs: PHASE and PPOIS stay (R245). -/
def State.initBar (s : State) (cl ctx b target : Nat) (mode : Bool) : State :=
  s.modCluster cl (fun k => { k with bars := Tab.modify {} k.bars (32 * ctx + b) (fun x =>
    { x with target := target, mode := mode, current := 0, poison := false }) })

/-- Engines add 1 to a barrier that counts arrivals, and their bytes to one that counts bytes (R243). -/
def State.engineArrive (s : State) (cl ctx b bytes : Nat) (poison : Bool) : State :=
  s.arrive cl ctx b (if (s.bar cl ctx b).mode then bytes else 1) poison

/-! ## Stamps (R232) -/

/-- Merge of two stamps: ANY where they differ, the narrower scope. -/
def Stamp.merge (a b : Stamp) : Stamp :=
  { cl := if a.cl = b.cl then a.cl else none, dev := if a.dev = b.dev then a.dev else none, sc := min a.sc b.sc }

/-- An acquire at scope `t` by an agent of cluster `c`, device `d`, synchronises with the stamp's releases. -/
def Stamp.syncs (st : Stamp) (c d t : Nat) : Bool :=
  let within := if st.sc = 0 then st.cl == some c else if st.sc = 1 then st.dev == some d else true
  let holds := if t = 0 then st.cl == some c else if t = 1 then st.dev == some d else true
  within && holds

/-- The stamp of a release by cluster `c` at a scope. -/
def State.stampOf (s : State) (c sc : Nat) : Stamp := { cl := some c, dev := some s.board.devid.toNat, sc := sc }

/-- A release write of a line by cluster `c`; `rmw` merges with what is there. -/
def State.release (s : State) (p c sc : Nat) (rmw : Bool) : State :=
  let st := s.stampOf c sc
  s.modMeta (p / 64) (fun m => { m with stamp := some (match m.stamp with
    | some o => if rmw then o.merge st else st
    | none => st) })

/-! ## Groups of accesses -/

/-- The group with this number, changed by `f`, where it runs. -/
def State.modGroup (s : State) (gid : Nat) (f : Group → Group) : State :=
  match s.find gid with
  | some (c, b) => s.modBank c b f
  | none => s.mapGroups (fun g => if g.gid = gid then f g else g)

/-- An acquire of a stamped line that forms no edge is remembered in GSTAT.SCOPEMISS (R232). -/
def State.acquire (s : State) (a : Acc) (p : Nat) : State :=
  match (s.lineMeta (p / 64)).stamp with
  | some st =>
    if a.calm || st.syncs (a.core / 4) s.board.devid.toNat a.scope then s
    else s.modGroup a.gid (fun g => { g with gstat := { g.gstat with scopeMiss := true } })
  | none => s

/-- A share has escaped (R412). -/
def State.escape (s : State) (share : Nat) : State := s.modShare share (fun h => { h with escaped := true })

/-! ## Atomics (R236, R238) -/

/-- The new value of an AMO on `w` bits. -/
def amoNew (op w a b : Nat) : Nat :=
  let sa := signed w a
  let sb := signed w b
  match op with
  | 0 => b
  | 1 => (a + b) % 2 ^ w
  | 2 => a &&& b
  | 3 => a ||| b
  | 4 => a ^^^ b
  | 5 => if sa ≤ sb then a else b
  | 6 => if sa ≤ sb then b else a
  | 7 => min a b
  | 8 => max a b
  | _ => laneAdd (.float (if w = 32 then f32 else f64)) .rne false a b

/-- One element of a BANK operation. -/
def bankNew (op : Nat) (t : Ty) (a b : Nat) : Nat :=
  match op with
  | 0 => laneAdd t .rne false a b
  | 1 => laneMin t false a b
  | 2 => laneMin t true a b
  | 3 => a &&& b
  | 4 => a ||| b
  | 5 => a ^^^ b
  | _ => b

/-- The 256 bytes after a BANK operation: an element is updated when `en` names its first byte (R203, R238). -/
def bankBytes (op : Nat) (t : Ty) (en : Nat) (old data : Nat) : Nat :=
  let w := t.width
  packNat w (fun e =>
    let a := (old >>> (w * e)) % 2 ^ w
    if en.testBit (w / 8 * e) then bankNew op t a ((data >>> (w * e)) % 2 ^ w) else a) (2048 / w)

/-! ## Commons rings (R239–R241, R405) -/

/-- A ring's header as read. -/
structure RingHd where
  resv : Word
  front : Word
  cons : Word
  n : Nat
  bad : Bool
  deriving DecidableEq, Repr

def State.ringAt (s : State) (p : Nat) : RingHd :=
  let cfg := (s.wordNow (p + 0x18)).toNat
  let n := 2 ^ (cfg % 32)
  { resv := s.wordNow p, front := s.wordNow (p + 8), cons := s.wordNow (p + 16), n := n
    bad := cfg / 32 != 0 || 20 < cfg % 32 || (s.bytesNow (p + 0x20) 32).any (· != 0)
      || 2 ^ 22 < p % 2 ^ 22 + 64 + n }

/-- Where the state byte of slot `i` stands. -/
def RingHd.slotAt (h : RingHd) (p : Nat) (i : Word) : Nat := p + 64 + i.toNat % h.n

def State.putWord (s : State) (a : Nat) (w : Word) : State := s.devWrite a ((leBytes 8 w.toNat).map some) .no

def State.putByte (s : State) (a : Nat) (b : Byte) : State := s.devWrite a [some b] .no

/-- rres(h): the index, or all ones. -/
def State.rres (s : State) (p : Nat) : Word × State :=
  let h := s.ringAt p
  if h.bad || h.n ≤ (h.resv - h.cons).toNat || h.n ≤ (h.resv - h.front).toNat then (BitVec.allOnes 64, s)
  else (h.resv, (s.putWord p (h.resv + 1)).putByte (h.slotAt p h.resv) 1)

/-- The frontier passes READY and VOID slots; the stamps kept with them are merged. -/
def State.advance (p : Nat) (h : RingHd) : Nat → Word → Option Stamp → State → Word × Option Stamp × State
  | 0, f, st, s => (f, st, s)
  | fuel + 1, f, st, s =>
    let at' := h.slotAt p f
    let b := s.byteNow at'
    if f = h.resv || !(b == 2 || b == 3) then (f, st, s)
    else
      let own := Tab.get none s.ringStamps at'
      let st := match st, own with
        | some x, some y => some (x.merge y)
        | none, y => y
        | x, none => x
      State.advance p h fuel (f + 1) st { s with ringStamps := Tab.set none s.ringStamps at' none }

/-- rpub(h, i), or RINGVOID's steps when `stamp` is none. -/
def State.rpub (s : State) (p : Nat) (i : Word) (stamp : Option Stamp) : Word × State :=
  let h := s.ringAt p
  let slot := h.slotAt p i
  if h.bad || (h.resv - h.front).toNat ≤ (i - h.front).toNat || s.byteNow slot != 1 then (1, s)
  else
    let s := s.putByte slot (if stamp.isSome then 2 else 3)
    let s := { s with ringStamps := Tab.set none s.ringStamps slot stamp }
    let (f, st, s) := State.advance p h (h.resv - h.front).toNat h.front none s
    let s := s.putWord (p + 8) f
    (0, match st with
      | some x => s.modMeta (p / 64) (fun m => { m with stamp := some x })
      | none => s)

/-! ## Cells (R317, R318, R320) -/

/-- The record as DEFER writes it: CTXGEN and CTX are the hardware's (R315). -/
def stampRecord (r : BitVec 512) (ctx : Nat) (gen : BitVec 32) : BitVec 512 :=
  let hw := ctx % 64 + gen.toNat % 2 ^ 26 * 64
  let low := r.toNat % 2 ^ (8 * 0x3C)
  BitVec.ofNat 512 (low + hw * 2 ^ (8 * 0x3C))

/-! ## Operand store (R200, R201, R413, R414) -/

/-- The slots of a range. -/
def slotSpan (a n : Nat) : List Nat := if n = 0 then [] else (upTo ((a + n - 1) / 4096 + 1 - a / 4096)).map (· + a / 4096)

/-- Bytes of operand store written: a slot that held a CLEAN copy does so no longer (R414). -/
def State.osStore (s : State) (cl a : Nat) (bs : List (Option Byte)) : State :=
  let n := bs.length
  let hit := fun (slot : Nat) => 0 < n && a / 4096 ≤ slot && slot ≤ (a + n - 1) / 4096
  (s.osPut cl a bs).modCluster cl (fun k =>
    { k with
      clean := Tab.dropIf hit k.clean
      readers := k.readers.filter (fun r => !hit r.1)
      copies := k.copies.map (fun c => if c.started then { c with spoilt := c.spoilt ++ (slotSpan a n).filter (!c.spoilt.contains ·) } else c) })

/-- A group reads a slot: remembered while the slot is CLEAN (R413). -/
def State.osNote (s : State) (cl gid a : Nat) : State :=
  let slot := a / 4096
  if (Tab.get none (s.cluster cl).clean slot).isNone || (s.cluster cl).readers.contains (slot, gid) then s
  else s.modCluster cl (fun k => { k with readers := k.readers ++ [(slot, gid)] })

/-- A byte of the ring window of a group on a core (R181): its own tiles with SWC = 1, zero elsewhere. -/
def State.ringByte (s : State) (core gid a : Nat) : Byte :=
  let m := (s.core core).mat
  match m.ringOf gid with
  | some r => if r.swc then (match r.tiles[a / 16384]? with
      | some t => Tab.get 0 (Tab.get {} m.tiles t).data (a % 16384)
      | none => 0) else 0
  | none => 0

/-! ## Performing one piece -/

/-- What became of a piece. -/
inductive Did where
  /-- performed; the access holds what it read -/
  | done (a : Acc)
  /-- it waits: for page service, a moving page, or a cell -/
  | wait (a : Acc)
  /-- it fails: the group's trap (R205, R398) -/
  | fail (cause : BitVec 8)
  deriving DecidableEq, Repr

/-- Bytes of a number placed at an offset of the access's data. -/
def Acc.take (a : Acc) (off : Nat) (bs : List Byte) (en : Nat) : Acc :=
  let bits := ((upTo bs.length).filter (fun i => en.testBit i)).foldl (fun n i =>
    n + ((bs[i]?).getD 0).toNat * 2 ^ (8 * (off + i))) 0
  { a with data := a.data ||| BitVec.ofNat 2048 bits }

/-- The bytes that a piece of a store writes. -/
def Acc.give (a : Acc) (p : Piece) : List (Option Byte) :=
  (upTo p.len).map (fun i => if p.en.testBit i then some ((a.data >>> (8 * (p.off + i))).setWidth 8) else none)

/-- The whole value of a read-modify-write's operand. -/
def Acc.operand (a : Acc) (w : Nat) : Nat := a.data.toNat % 2 ^ w

def AccKind.reads : AccKind → Bool
  | .store | .storeNt | .defer | .resolve | .barv .. | .binit .. => false
  | _ => true

def AccKind.writes : AccKind → Bool
  | .load | .loadRc _ | .vdec .. => false
  | _ => true

def AccKind.isArrival : AccKind → Bool
  | .barv .. => true
  | _ => false

def AccKind.isLoad : AccKind → Bool
  | .load | .loadRc _ => true
  | _ => false

/-- The value an atomic returns. -/
def Acc.result (a : Acc) (x : Nat) : Acc := { a with data := BitVec.ofNat 2048 x }

/-- The width of an AMO or CAS. -/
def AccKind.bits : AccKind → Nat
  | .amo _ w8 => if w8 then 64 else 32
  | .cas w8 _ => if w8 then 64 else 32
  | _ => 64

/-- The new value of an AMO or CAS, none when nothing is written. -/
def AccKind.update (k : AccKind) (old data : Nat) : Option Nat :=
  match k with
  | .amo op _ => some (amoNew op k.bits old data)
  | .cas _ e => if old = e.toNat % 2 ^ k.bits then some data else none
  | _ => none

/-- A register-space access (R386): 8 bytes at an aligned offset. -/
def State.regPiece (s : State) (a : Acc) (p : Piece) (phys : Nat) : Acc × State :=
  let h := ownerOf phys
  let o := phys % 2 ^ 36
  let old := s.regRead false (some a.ctx) h o
  match a.kind with
  | .load | .loadRc _ => (a.take p.off (leBytes 8 old.toNat) p.en, s)
  | .store | .storeNt => (a, s.regWriteS a.ctx h o ((a.data >>> (8 * p.off)).setWidth 64))
  | .amo .. | .cas .. =>
    (a.result old.toNat, match a.kind.update old.toNat (a.operand 64) with
      | some v => s.regWriteS a.ctx h o (BitVec.ofNat 64 v)
      | none => s)
  | _ => (a, s)

/-- An operand-store access (R200, R235): the cluster's own array. -/
def State.osPiece (s : State) (a : Acc) (p : Piece) (cl addr : Nat) : Acc × State :=
  match a.kind with
  | .load | .loadRc _ => (a.take p.off (s.osBytes cl addr p.len) p.en, s.osNote cl a.gid addr)
  | .store | .storeNt => (a, s.osStore cl addr (a.give p))
  | .amo .. | .cas .. =>
    let old := leNat (s.osBytes cl addr p.len)
    (a.result old, match a.kind.update old (a.operand a.kind.bits) with
      | some v => s.osStore cl addr ((leBytes p.len v).map some)
      | none => s)
  | .barv c b n poison => (a, s.arrive c a.ctx b n poison)
  | .binit b n mode => (a, s.initBar cl a.ctx b n mode)
  | _ => (a, s)

/-- An access of host memory, or of another device's registers (R225, R232): no stamps, tags or caches are seen here. -/
def farPiece (a : Acc) (p : Piece) (m : List Host.Cell) (addr : Nat) : Acc × List Host.Cell :=
  match a.kind with
  | .load | .loadRc _ | .vdec .. => (a.take p.off (memBytes m addr p.len) p.en, m)
  | .store | .storeNt => (a, memPut m addr (a.give p))
  | .amo .. | .cas .. =>
    let old := leNat (memBytes m addr p.len)
    (a.result old, match a.kind.update old (a.operand a.kind.bits) with
      | some v => memPut m addr ((leBytes p.len v).map some)
      | none => m)
  | .bank op ty => (a, match Ty.ofCode ty.toNat with
    | some t => memPut m addr ((leBytes 256 (bankBytes op t p.en (leNat (memBytes m addr 256)) a.data.toNat)).map some)
    | none => m)
  | _ => (a, m)

/-- The line's stamp after a write by the access (R232). -/
def State.stampWrite (s : State) (a : Acc) (phys n : Nat) (rmw : Bool) : State :=
  if a.rel then s.release phys (a.core / 4) a.scope rmw else if rmw then s else s.clearStamps phys n

/-- No other piece of the access that has yet to perform lies in the line of this one. -/
def Acc.lastOf (a : Acc) (p : Piece) : Bool := a.pieces.all (fun q => q.va / 64 != p.va / 64 || q == p)

/-- A store of plain memory. -/
def State.storePiece (s : State) (a : Acc) (p : Piece) (phys : Nat) : State :=
  let s := s.devWrite phys (a.give p) (if a.kind = .storeNt then .last else .yes)
  let s := s.stampWrite a phys p.len false
  let s := if p.whole && a.lastOf p then s.modMeta (phys / 64) (fun m => { m with poison := false }) else s
  s.escape a.share

/-- Earlier writes of the access's cluster that have yet to perform: the group's own, and those of others that it may have
acquired at CLUSTER (R231, R317). -/
def State.writesBefore (s : State) (a : Acc) : List Nat :=
  (((s.cluster (a.core / 4)).outbound.takeWhile (fun b => b.id != a.id)).filter (fun b => !b.done && b.kind.writes)).map (·.id)

/-- A load that has left its group meets an EVALUATING line: the group takes an entry of the wait table, or is spilled, or its
load traps with WAITFULL (R323, R324). One whose group is not to be parked here is tried again. -/
def State.lateCell (s : State) (a : Acc) (ln va : Nat) (who : Toucher) : Did × State :=
  match s.find a.gid with
  | none => (.wait { a with parked := if who.cluster.isNone then some ln else none }, s.inherit ln who.prio who.cls)
  | some (c, b) =>
    if (s.cluster (c / 4)).waiting < 256 then
      let e : WaitEnt :=
        { core := c, bank := b, gid := a.gid, ctx := a.ctx, line := ln, va := va, task := who.task.getD 0, since := s.time
          proxy := isFarLine ln, acc := some a.id }
      (.wait { a with parked := some ln },
        ((s.inherit ln who.prio who.cls).modCluster (c / 4) (fun k => { k with wait := k.wait ++ [e] })).modBank c b (fun g =>
          { g with frozenAt := g.frozenAt.or (some s.time) }))
    else if s.noRoomToPark c ln then (.fail WAITFULL, s)
    else if b = (s.core c).front then (.wait { a with parked := some ln }, (s.inherit ln who.prio who.cls).spill c ln va)
    else (.wait a, s)

/-- The lines of an operation at a place: a BANK's are those with an enabled element (R203, R238). -/
def Acc.lines (a : Acc) (p : Piece) (phys : Nat) : List Nat :=
  match a.kind with
  | .bank .. => ((upTo 4).filter (fun i => (p.en >>> (64 * i)) % 2 ^ 64 != 0)).map (phys / 64 + ·)
  | _ => [phys / 64]

/-- A line that a ring operation is to write holds a cell that is not VALUE (R330). -/
def State.ringCell (s : State) (l : List Nat) : Bool :=
  l.any (fun a => s.cellOf (a / 64) != cVALUE && !(s.lineMeta (a / 64)).poison)

/-- A load, store, atomic, bank, ring or cell operation at a physical offset of this device, by `who`. -/
def State.devPiece (s : State) (a : Acc) (p : Piece) (phys : Nat) (who : Toucher) : Did × State :=
  let ln := phys / 64
  let lines := a.lines p phys
  let tag := s.cellOf ln
  let poison := tagged phys && lines.any (fun l => (s.lineMeta l).poison)
  if regionKind phys = 2 && !a.kind.isArrival then let (a, s) := s.regPiece a p phys; (.done a, s)
  else if poison && a.kind.reads then (.fail POISON, s)
  else match a.kind with
    | .load | .loadRc _ | .vdec .. =>
      if poison || tag = cVALUE then
        let rc := match a.kind with
          | .loadRc n => some n
          | _ => none
        let (bs, s) := s.devRead phys p.len rc (a.lastOf p)
        let a := a.take p.off bs p.en
        (.done a, if a.acq then s.acquire a phys else s)
      else if tag = cFAILED then (.fail CELLFAIL, s)
      else
        let s := s.firstTouch ln who true
        if s.cellOf ln = cFAILED then (.fail CELLFAIL, s)
        else if s.selfDep ln who.own then (.fail SELFDEP, s)
        else s.lateCell a ln (p.va / 64 * 64) who
    | .store | .storeNt =>
      if !poison && tag ≠ cVALUE then (.fail CELLWR, s) else (.done a, s.storePiece a p phys)
    | .amo .. | .cas .. =>
      if tag ≠ cVALUE then (.fail CELLWR, s)
      else
        let (bs, s) := s.devRead phys p.len none
        let old := leNat bs
        let s := if a.acq then s.acquire a phys else s
        match a.kind.update old (a.operand a.kind.bits) with
        | some v =>
          let s := (s.devWrite phys ((leBytes p.len v).map some)).stampWrite a phys p.len true
          (.done (a.result old), s.escape a.share)
        | none => (.done (a.result old), (s.uncount ln).escape a.share)
    | .bank op ty =>
      if lines.any (fun l => s.cellOf l != cVALUE) then (.fail CELLWR, s)
      else match Ty.ofCode ty.toNat with
        | some t =>
          let old := leNat (s.bytesNow phys 256)
          let s := if a.acq then lines.foldl (fun s l => s.acquire a (64 * l)) s else s
          let new := leBytes 256 (bankBytes op t p.en old a.data.toNat)
          let s := lines.foldl (fun s l => s.devWrite (64 * l) (((new.drop (64 * l - phys)).take 64).map some)) s
          let s := if a.rel then lines.foldl (fun s l => s.release (64 * l) (a.core / 4) a.scope true) s else s
          (.done a, s.escape a.share)
        | none => (.done a, s)
    | .rres =>
      let h := s.ringAt phys
      if s.ringCell [phys, h.slotAt phys h.resv] then (.fail CELLWR, s)
      else let (r, s) := s.rres phys; (.done (a.result r.toNat), s.escape a.share)
    | .rpub i =>
      if s.ringCell [phys, (s.ringAt phys).slotAt phys i] then (.fail CELLWR, s)
      else let (r, s) := s.rpub phys i (some (s.stampOf (a.core / 4) a.scope)); (.done (a.result r.toNat), s.escape a.share)
    | .ringvoid i =>
      if s.ringCell [phys, (s.ringAt phys).slotAt phys i] then (.fail CELLWR, s)
      else let (r, s) := s.rpub phys i none; (.done (a.result r.toNat), s)
    | .defer =>
      if !poison && (tag = cSUSPENDED || tag = cEVALUATING) then (.fail CELLWR, s)
      else
        let s := s.setLine ln (stampRecord (a.data.setWidth 512) a.ctx (s.ctx a.ctx).gen)
        let s := s.modMeta ln (fun m => { m with cell := cSUSPENDED, cellVa := p.va, eval := none, poison := false
                                                 before := (a.core, s.writesBefore a) })
        (.done a, (s.release phys (a.core / 4) a.scope false).escape a.share)
    | .resolve =>
      if poison || tag ≠ cEVALUATING || !s.selfDep ln who.own then (.fail CELLWR, s)
      else
        let s := s.setLine ln (a.data.setWidth 512)
        let s := (s.modMeta ln (fun m => { m with cell := cVALUE, eval := none, poison := false })).wakeLine ln
        (.done a, (s.release phys (a.core / 4) a.scope false).escape a.share)
    | .binit .. => (.done a, s)
    | .barv _ _ n poison =>
      let o := phys % 2 ^ 36
      (.done a, (s.arrive ((o - 0x20000) / 0x100) a.ctx (o % 0x100 / 8) n poison).escape a.share)

/-- A piece performs at its serving point, or finds that it cannot. -/
def State.performPiece (s : State) (a : Acc) (p : Piece) : Did × State :=
  let who := s.toucher (some (a.core / 4)) a.share
  match p.place with
  | .os cl addr => let (a, s) := s.osPiece a p cl addr; (.done a, s)
  | .ring addr =>
    (.done (a.take p.off ((upTo p.len).map (fun i => s.ringByte a.core a.gid (addr + i))) p.en), s)
  | .host addr =>
    let (a, m) := farPiece a p s.host addr
    let s := { s with host := m }
    (.done a, if a.kind.writes then s.escape a.share else s)
  | .far ia =>
    match a.kind with
    -- its flit has left already, where there is a route
    | .barv _ _ n poison =>
      let t := s.escape a.share
      (.done a, if s.inDomain ia then t.send (.arrival ia n poison) else t.countDrop (ia / 2 ^ 42))
    | _ => match s.farPhys ia a.kind.writes with
      | .ok phys =>
        if regionKind phys = 2 then
          let (a, m) := farPiece a p s.far ia
          let s := { s with far := m }
          (.done a, if a.kind.writes then s.escape a.share else s)
        else s.devPiece a p phys who
      | .moving => (.wait a, s)
      | _ => (.fail PAGEFAIL, s)
  | .dev off =>
    match s.phys a.ctx off a.kind.writes with
    | .ok phys => (s.learn a.ctx off).devPiece a p phys who
    | .moving => (.wait a, s)
    | .bad => (.fail PAGEFAIL, s)
    | .fault =>
      let (n, s) := s.pageFault (ownerOf off) a.ctx (pageOf off) (if a.kind.writes then 2 else 1)
      (.wait { a with token := some (ownerOf off, n) }, s)

/-! ## Accesses on their way (R224, R227) -/

/-- Two ranges of `n` and `m` bytes, of contexts `a` and `b`, touch a common block of `z` bytes: a line (R224), a byte
(R204). -/
def meetIn (z a : Nat) (p : Place) (n b : Nat) (q : Place) (m : Nat) : Bool :=
  let meet := fun (x y : Nat) => 0 < n && 0 < m && x / z ≤ (y + m - 1) / z && y / z ≤ (x + n - 1) / z
  match p, q with
  | .os c x, .os d y => z == 1 && c == d && meet x y
  | .dev x, .dev y => a == b && meet x y
  | .host x, .host y => meet x y
  | .far x, .far y => meet x y
  | _, _ => false

def Place.isLocal : Place → Bool
  | .os _ _ => true
  | .ring _ => true
  | _ => false

def Place.isFar : Place → Bool
  | .far _ => true
  | _ => false

/-- An access of this list, older than `a`, that `a`'s piece must let perform first: of its line (R224), or local to the
same group (R227); an access of the same bundle that itself waits for `a` does not count (R226). Requests of different groups
to one line of another device leave in order, and carry none on their way (R433). -/
def olderBlocks (a : Acc) (p : Piece) (l : List Acc) : Bool :=
  (l.takeWhile (fun b => b.id != a.id)).any (fun b =>
    !b.done && !b.after.contains a.id && b.pieces.any (fun q =>
      (meetIn 64 a.ctx p.place p.len b.ctx q.place q.len
          && (b.gid == a.gid || !p.place.isFar || !q.place.isFar || (!p.sent && !q.sent)))
        || (p.place.isLocal && q.place.isLocal && b.gid == a.gid)))

/-- The piece may perform now. -/
def State.mayPerform (s : State) (cl : Nat) (a : Acc) (p : Piece) : Bool :=
  !a.done && a.token.isNone && a.parked.isNone && a.after.all (s.performed (4 * cl)) && !olderBlocks a p (s.cluster cl).outbound

/-- The access with this number put in place of the old one, or taken out. -/
def State.putAcc (s : State) (cl : Nat) (id : Nat) (a : Option Acc) : State :=
  s.modCluster cl (fun k => { k with outbound := match a with
    | some a => k.outbound.map (fun b => if b.id = id then a else b)
    | none => k.outbound.filter (fun b => b.id != id) })

/-- A result has somewhere to go. -/
def Acc.returns (a : Acc) : Bool :=
  match a.dst with
  | .none => false
  | _ => true

/-- After a unit of the access has performed: an access with no piece left is done. -/
def State.afterUnit (s : State) (cl : Nat) (a : Acc) : State :=
  if !a.pieces.isEmpty then s.putAcc cl a.id (some a)
  else if a.returns then s.putAcc cl a.id (some { a with done := true })
  else s.putAcc cl a.id none

/-! ## Accesses that fail (R35, R205, R398) -/

/-- The destination of an access that fails is released: its register keeps its value, its entry delivers zero. -/
def Acc.abandon (a : Acc) (g : Group) : Group :=
  let g := { g with busy := g.busy.filter (fun b => b.2 != a.id) }
  match a.dst with
  | .lq q id => g.fill q id 0
  | _ => g

/-- The syllable of the access is undone, nothing having issued behind it: its entry is not reserved, and what it popped stands
in its queues again. -/
def Acc.undo (a : Acc) (g : Group) : Group :=
  let g := { g with busy := g.busy.filter (fun b => b.2 != a.id) }
  let g := match a.dst with
    | .lq q id => g.setQueue q ((g.queue q).filter (fun e => e.id != id))
    | _ => g
  a.popped.foldr (fun e g => g.setQueue e.1 (e.2 :: g.queue e.1)) g

/-- The failure of an access that has left its group is remembered: at the access's own slot where nothing of the group has
issued behind it, else before its next bundle; one of code that a handler has interrupted, after ERET (log 30). -/
def Acc.blame (a : Acc) (cause : BitVec 8) (g : Group) : Group :=
  match g.saved with
  | some k =>
    if a.bundle ≤ k.bundle then
      { a.abandon g with saved := some { k with lateFault := k.lateFault.or (some (cause, none)) } }
    else { a.abandon g with lateFault := g.lateFault.or (some (cause, none)) }
  | none =>
    if a.bundle = g.bundles ∧ a.slot = g.lastSlot ∧ !g.followed ∧ !g.midA ∧ g.lateFault.isNone then
      { a.undo g with lateFault := some (cause, some (a.addr, a.slot)) }
    else { a.abandon g with lateFault := g.lateFault.or (some (cause, none)) }

/-- A descriptor that has been read: the command enters the device decode queue, or its answer says why not (R270). -/
def State.acceptVdec (s : State) (a : Acc) : Acc × State :=
  match a.kind with
  | .vdec bar arr ev =>
    let desc : BitVec 512 := a.data.setWidth 512
    if !(VDesc.of desc).valid then (a.result 2, s)
    else if 32 ≤ (s.decodes.filter (fun x => x.decoder.isNone)).length then (a.result 1, s)
    else
      let job : Decode :=
        { id := s.fresh, cluster := a.core / 4, core := a.core, bank := a.bank, gid := a.gid, ctx := a.ctx, share := a.share
          smode := a.smode, desc := desc, bar := bar, arr := arr, ev := ev }
      (a.result 0, ({ s with decodes := s.decodes ++ [job], fresh := s.fresh + 1 } : State).escape a.share)
  | _ => (a, s)

/-- Two pieces of one access lie in one aligned 16-byte unit, which is indivisible (R204). -/
def sameUnit (p q : Piece) : Bool :=
  p == q || (p.len ≤ 16 && q.len ≤ 16 && (match p.place, q.place with
    | .os c x, .os d y => c == d && x / 16 == y / 16
    | .ring x, .ring y | .dev x, .dev y | .host x, .host y | .far x, .far y => x / 16 == y / 16
    | _, _ => false))

/-- The pieces of a unit perform at one instant, in ascending order: the element of higher index stands (R204). -/
def State.performUnit : List Piece → Acc → State → Did × State
  | [], a, s => (.done a, s)
  | p :: ps, a, s => match s.performPiece a p with
    | (.done b, s) => State.performUnit ps { b with pieces := b.pieces.erase p } s
    | x => x

/-- What a request to another device asks of it. -/
def AccKind.remote : AccKind → RemoteOp
  | .store => .store
  | .storeNt => .storeNt
  | .loadRc n => .loadRc n
  | .amo op w8 => .amo op w8
  | .cas w8 e => .cas w8 e
  | .bank op ty => .bank op ty
  | .rres => .rres
  | .rpub i => .rpub i
  | .ringvoid i => .ringvoid i
  | .barv _ _ n p => .arrival n p
  | _ => .load

/-- The request that carries a unit of an access to the device of address `ia`, the unit's first byte (R199, R331). -/
def State.request (s : State) (a : Acc) (ps : List Piece) (ia : Nat) : RemoteReq :=
  let who := s.toucher none a.share
  let place := fun (p : Piece) => match p.place with
    | .far x => x - ia
    | _ => 0
  { dev := s.board.devid.toNat, cluster := a.core / 4, ctx := a.ctx, off := ia % 2 ^ 42
    len := ps.foldl (fun n p => max n (place p + p.len)) 0
    en := ps.foldl (fun n p => n ||| (p.en <<< place p)) 0
    op := a.kind.remote, scope := a.scope, acq := a.acq, rel := a.rel, whole := ps.any (·.whole)
    last := a.pieces.all (fun q => ps.contains q || ps.all (fun p => q.va / 64 != p.va / 64))
    data := if a.kind.isLoad then 0 else ps.foldl (fun d p => d ||| (((a.data >>> (8 * p.off)) &&& BitVec.ofNat 2048 (2 ^ (8 * p.len) - 1))
      <<< (8 * place p))) 0
    lineage := who.own, ordinal := ((who.task.bind s.task).map (fun t => t.ordinal + 1)).getD 0, prio := who.prio, cls := who.cls }

/-- One attempt to perform the unit of piece `i` of access `id` of a cluster. -/
def State.tryPiece (s : State) (cl id i : Nat) : State :=
  match (s.cluster cl).outbound.find? (fun a => a.id == id) with
  | none => s
  | some a => match a.pieces[i]? with
    | none => s
    | some p =>
      let unit := a.pieces.filter (sameUnit p)
      if !unit.all (s.mayPerform cl a) then s
      else
        let ias := unit.filterMap (fun q => match q.place with
          | .far x => if q.sent then none else some x
          | _ => none)
        let leaves := unit.any (fun q => !q.sent && (match q.place with
          | .far _ | .host _ => true
          | _ => false))
        if leaves then
          let s := match ias with
            | x :: t =>
              let ia := t.foldl min x
              if s.inDomain ia then s.transmit (ia / 2 ^ 42) (.request (s.request a unit ia)) else s
            | [] => s
          s.putAcc cl id (some { a with pieces := a.pieces.map (fun q => if sameUnit p q then { q with sent := true } else q) })
        else match State.performUnit unit a s with
          | (.done a, s) =>
            let (a, s) := s.acceptVdec a
            s.afterUnit cl a
          | (.wait a, s) => s.putAcc cl id (some a)
          | (.fail c, s) => (s.putAcc cl id none).modGroup a.gid (a.blame c)

/-- A scalar load's value, extended (R207). -/
def Acc.scalar (a : Acc) : Word :=
  let n := 8 * 2 ^ a.sz
  if a.sx then sext64 n a.data.toNat else BitVec.ofNat 64 (a.data.toNat % 2 ^ n)

/-- The value that a finished access returns to a register or an entry (R207, R212); a vector load has size code 4. -/
def Acc.value (a : Acc) : VReg :=
  match a.bcast with
  | some (w, lanes) => pack (8 * w) (fun _ => elem (8 * w) a.data 0) &&& lanes
  | none => if a.kind.isLoad && a.sz < 4 then zx a.scalar else a.data

/-- The data of a finished access arrives (R206). -/
def State.deliver (s : State) (cl id : Nat) : State :=
  match (s.cluster cl).outbound.find? (fun a => a.id == id && a.done) with
  | none => s
  | some a =>
    (s.putAcc cl id none).modGroup a.gid (fun g =>
      let v := a.value
      match a.dst with
      | .areg n => if g.busy.contains (n, a.id) then { g.wrA n (lo64 v) with busy := g.busy.filter (fun b => b.2 != a.id) } else g
      | .lq q e => g.fill q e v
      | .none => g)

/-! ## Events -/

/-- A piece of an access reaches its serving point, or the port on its way there (R223, R225). -/
def execRemoteAccessPerform (cluster id piece : Nat) (s : State) : Out := .next (s.tryPiece cluster id piece)

/-- Data returns. -/
def execLoadDataReturn (cluster id : Nat) (s : State) : Out := .next (s.deliver cluster id)

/-- The arrival on its way that may come next as number `i`: of arrivals at one barrier, the first to set out is the first
to arrive. -/
def Cluster.arriving (k : Cluster) (i : Nat) : Option (Nat × Nat × Nat × Bool) :=
  k.arrivals[i]?.filter (fun a => !(k.arrivals.take i).any (fun x => x.1 == a.1 && x.2.1 == a.2.1))

/-- An arrival on its way reaches the barrier file (R243). -/
def State.arrival (s : State) (cluster i : Nat) : State :=
  match (s.cluster cluster).arriving i with
  | some (ctx, b, n, p) => (s.modCluster cluster (fun k => { k with arrivals := k.arrivals.eraseIdx i })).arrive cluster ctx b n p
  | none => s

def execBarrierArrival (cluster i : Nat) (s : State) : Out := .next (s.arrival cluster i)

end Sys2Proof.Machine
end

