-- ==== Sys2Proof/Machine/Shadows.lean ====
section
/-!
DEFINITION. Hardware's writes for a context (R266, R451), and shadow buffers: their writes, publication and dropping
(R262–R265, R421).
-/
namespace Sys2Proof.Machine

/-! ## Hardware's writes (R451) -/

/-- What became of a write that hardware makes for a context. -/
inductive Wrote where
  | done
  /-- it waits on this token: H-die and number -/
  | wait (h n : Nat)
  /-- its page is moving -/
  | moving
  | lost (cause : BitVec 8)
  deriving DecidableEq, Repr

/-- A write to another device for which there is no route is counted at its primary port (R432). -/
def State.noteDrop (s : State) (ctx va : Nat) : State :=
  match s.place ctx true Need.write va with
  | some (.far ia) =>
    if s.inDomain ia then s else s.countDrop (ia / 2 ^ 42)
  | _ => s

/-- Bytes of one line written for a context, with the stamp of a release when one is given; `bad` are the pages that
have been answered FAIL. -/
def State.hwWrite (s : State) (ctx va : Nat) (bs : List Byte) (stamp : Option Stamp) (bad : List Nat) : Wrote × State :=
  match s.reach ctx true Need.write va with
  | .dev p =>
    let m := s.lineMeta (p / 64)
    if !tagged p then (.lost PAGEFAIL, s)
    else if !m.poison && s.cellOf (p / 64) != cVALUE then (.lost CELLWR, s)
    else (.done, (s.devWrite p (bs.map some) .no).modMeta (p / 64) (fun m => { m with stamp := stamp }))
  | .host a => (.done, { s with host := memPut s.host a (bs.map some) })
  | .wait h page =>
    if bad.contains page then (.lost PAGEFAIL, s)
    else
      let (n, s) := s.pageFault h ctx page 5
      (.wait h n, s)
  | .moving => (.moving, s)
  | .fail c => (.lost c, s.noteDrop ctx va)

/-- A completion word (R266). -/
def completionWord (seq : Word) (status : BitVec 8) (detail : Nat) : List Byte :=
  leBytes 8 seq.toNat ++ leBytes 4 status.toNat ++ leBytes 4 detail

/-! ## Shadow buffers (R262, R263) -/

def Shadow.holds (h : Shadow) (va len : Nat) : Bool := h.base ≤ va && va + len ≤ h.base + h.len

/-- What an engine's write of an element with SHD = 1 finds: the issue number tells whether a shadow that the command
was issued for has been dropped since (R263, R265). -/
inductive ShadowAt where
  | inside (h : Shadow)
  | dropped
  | outside
  deriving DecidableEq, Repr

def Ctx.shadowFor (x : Ctx) (va len seq : Nat) : ShadowAt :=
  if x.dropped.any (fun d => seq < d.2.2 && d.1 ≤ va && va + len ≤ d.1 + d.2.1) then .dropped
  else match x.shadows.find? (fun h => h.holds va len) with
    | some h => .inside h
    | none => .outside

/-- Bytes put into a table of bytes from an offset on. -/
def tabPut (t : Tab Byte) (o : Nat) : List Byte → Tab Byte
  | [] => t
  | b :: bs => tabPut (Tab.set 0 t o b) (o + 1) bs

def Ctx.modShadow (x : Ctx) (base : Nat) (f : Shadow → Shadow) : Ctx :=
  { x with shadows := x.shadows.map (fun h => if h.base = base then f h else h) }

/-- The element's bytes enter the shadow, whose writers are remembered (R263). -/
def State.shadowPut (s : State) (ctx : Nat) (h : Shadow) (va : Nat) (bs : List Byte) (core : Option Nat) : State :=
  s.modCtx ctx (fun x => x.modShadow h.base (fun h =>
    { h with
      data := tabPut h.data (va - h.base) bs
      writers := match core with
        | some c => if h.writers.contains c then h.writers else h.writers ++ [c]
        | none => h.writers }))

/-! ## Publication (R264) -/

/-- The physical page behind a page of a buffer, if it is mapped now. -/
def State.bufferPage (s : State) (ctx va : Nat) : Option Nat :=
  match s.reach ctx true Need.both va with
  | .dev p => some p
  | _ => none

/-- A page of the buffer that is in fault service, or would be: its H-die and page. -/
def State.bufferFault (s : State) (ctx base len : Nat) : Option (Nat × Nat) :=
  ((upTo (len / 4096)).filterMap (fun i => match s.reach ctx true Need.both (base + 4096 * i) with
    | .wait h p => some (h, p)
    | _ => none)).head?

/-- What a page of the buffer fails with, if one does: no page there can take the new contents. -/
def State.bufferFail (s : State) (ctx base len : Nat) : Option (BitVec 8) :=
  ((upTo (len / 4096)).filterMap (fun i => match s.reach ctx true Need.both (base + 4096 * i) with
    | .fail c => some c
    | _ => none)).head?

/-- A page of the buffer is moving. -/
def State.bufferMoving (s : State) (ctx base len : Nat) : Bool :=
  (upTo (len / 4096)).any (fun i => s.reach ctx true Need.both (base + 4096 * i) == .moving)

/-- A 4 KiB page takes new contents: its lines are VALUE, unpoisoned, and carry the publication's stamp; the waiters of a
line that was not VALUE are woken (R264, R330). -/
def State.newPage (s : State) (p : Nat) (data : List Byte) (st : Stamp) : State :=
  let inPage := fun k => k / 4096 == p / 4096
  let s := { s with mem := memPut (Tab.dropIf inPage s.mem) p (data.map some) }
  (upTo 64).foldl (fun s i =>
    let ln := p / 64 + i
    let s := if s.cellOf ln != cVALUE then s.wakeLine ln else s
    (s.dropLine ln).modMeta ln (fun _ => { stamp := some st })) s

/-- The entry that a publication takes in the publish log, when any core is recorded (R421). -/
def State.logPublish (s : State) (ctx task : Nat) (h : Shadow) : State :=
  if h.writers.isEmpty then s
  else { s with board := { s.board with log := s.board.log ++
    [{ time := s.time, ctx := ctx, base := h.base, cores := h.writers, task := task }] } }

/-- The publish log has no free entry (R421). -/
def State.logFull (s : State) : Bool := s.board.log.length ≥ 4096

/-- A shadow is published at this instant: the buffer's backing becomes the shadow's contents (R264). They enter the frames that
back the buffer: no rule gives the page table entry that would name the shadow's own pages (log 53). -/
def State.publish (s : State) (ctx task : Nat) (h : Shadow) (st : Stamp) : State :=
  let s := (upTo (h.len / 4096)).foldl (fun s i =>
    match s.bufferPage ctx (h.base + 4096 * i) with
    | some p => s.newPage p ((upTo 4096).map (fun k => Tab.get 0 h.data (4096 * i + k))) st
    | none => s) s
  (s.logPublish ctx task h).modCtx ctx (fun x => { x with shadows := x.shadows.filter (fun y => y.base != h.base) })

/-- A shadow is discarded; writes of commands issued before are discarded when they arrive (R265). -/
def State.dropShadow (s : State) (ctx : Nat) (h : Shadow) : State :=
  let s := s.modCtx ctx (fun x =>
    { x with shadows := x.shadows.filter (fun y => y.base != h.base), dropped := x.dropped ++ [(h.base, h.len, s.fresh)] })
  { s with
    fresh := s.fresh + 1
    clusters := s.clusters.map (fun e => (e.1, { e.2 with copies := e.2.copies.filter (fun c => !(c.ctx == ctx && c.merge == some h.base)) })) }

/-- Every shadow that a share opened and left is discarded (R265). -/
def State.dropShadowsOf (s : State) (ctx share : Nat) : State :=
  ((s.ctx ctx).shadows.filter (fun h => h.share == share)).foldl (fun s h => s.dropShadow ctx h) s

/-- The shadows of a share marked for publication, in marking order (R264, R265). -/
def insertMark (h : Shadow) : List Shadow → List Shadow
  | [] => [h]
  | y :: t => if h.mark.getD 0 < y.mark.getD 0 then h :: y :: t else y :: insertMark h t

def Ctx.marked (x : Ctx) (share : Nat) : List Shadow :=
  (x.shadows.filter (fun h => h.share == share && h.mark.isSome)).foldl (fun l h => insertMark h l) []

end Sys2Proof.Machine
end

