-- ==== Sys2Proof/Machine/Shares.lean ====
section
/-!
DEFINITION. The end of shares and tasks (R297–R302): removal of groups, abort and its settlement, splitting, completion
words, and the operand-store allocations of a share (R304).
-/
namespace Sys2Proof.Machine

/-! ## Removing groups -/

/-- The matrix unit without the commands and the ring of the groups named: what MFLUSH.DROP does to each (R191). -/
def Matrix.dropGroups (p : Nat → Bool) (m : Matrix) : Matrix :=
  { m with
    queue := m.queue.filter (fun c => !p c.gid)
    run := m.run.filter (fun r => !p r.cmd.gid)
    epRun := m.epRun.filter (fun r => !p r.1.gid)
    resumes := m.resumes.filter (fun r => !p r.gid)
    rings := m.rings.filter (fun r => !p r.gid) }

/-- The ring tiles of a share are free (R297, R300). -/
def Matrix.dropRings (share : Nat) (m : Matrix) : Matrix := { m with rings := m.rings.filter (fun r => r.share != share) }

def Core.dropGroups (p : Group → Bool) (k : Core) : Core :=
  let keep := fun (g : Option Group) => g.filter (fun g => !p g)
  let ids := ([k.bank0, k.bank1, k.eclSaved.bind (·.1), k.eclSaved.bind (·.2.1)].filterMap id).filter p |>.map (·.gid)
  { k with
    bank0 := keep k.bank0
    bank1 := keep k.bank1
    spilled := k.spilled.filter (fun g => !p g)
    parents := k.parents.filter (fun g => !p g)
    eclSaved := k.eclSaved.map (fun e => (keep e.1, keep e.2.1, e.2.2.dropGroups ids.contains))
    mat := k.mat.dropGroups ids.contains }

/-- One core's part of a saved gang without the groups named. -/
def dropSaved (p : Group → Bool) (e : Option Group × Option Group × Bool × Matrix) : Option Group × Option Group × Bool × Matrix :=
  let ids := (([e.1, e.2.1].filterMap id).filter p).map (·.gid)
  (e.1.filter (fun g => !p g), e.2.1.filter (fun g => !p g), e.2.2.1, e.2.2.2.dropGroups ids.contains)

/-- A saved gang without the groups named (R312). -/
def Gang.dropGroups (p : Group → Bool) (g : Gang) : Gang := { g with cores := g.cores.map (dropSaved p) }

/-- A cluster's wait table and saved images without the groups named. -/
def Cluster.dropGroups (p : Group → Bool) (ids : List Nat) (k : Cluster) : Cluster :=
  { k with wait := k.wait.filter (fun w => !ids.contains w.gid)
           saved := k.saved.map (fun x => (x.1, x.2.map (Gang.dropGroups p)))
           parked := k.parked.map (fun i => { i with groups := i.groups.filter (fun e => !p e.group) }) }

/-- Groups of every place — banks, overflow area, saved images — leave the device; the units they held are free again. -/
def State.dropGroups (s : State) (p : Group → Bool) : State :=
  let spilled := s.cores.flatMap (fun e => e.2.spilled.filter p)
  let parents := s.cores.flatMap (fun e => e.2.parents.filter p)
  let ids := (s.cores.flatMap (fun e => [e.2.bank0, e.2.bank1].filterMap id ++ e.2.spilled)).filter p |>.map (·.gid)
  let owners := (s.clusters.flatMap (fun e => e.2.wait)).filter (fun w => w.spilled && spilled.any (fun g => g.gid == w.gid)) |>.map (·.owner)
  let units := owners ++ parents.map (·.ctx)
  let s : State := { s with cores := s.cores.map (fun e => (e.1, Core.dropGroups p e.2))
                            clusters := s.clusters.map (fun e => (e.1, Cluster.dropGroups p ids e.2)) }
  let s := units.foldl (fun s x => s.modCtx x (fun y => { y with wovfUsed := y.wovfUsed - 1 })) s
  (s.cores.map (·.1)).foldl State.bankFreed s

/-! ## Failure and abort (R299, R300) -/

/-- Marks of an aborting share: 0 R300, 1 rerun, 2 GANGBREAK, 3 failure, 4 shed. A shed stands over any other but a failure,
and a failure is detected only in RUNNING, or at the instant of the abort (R302, log 113). -/
def Share.abort (now mark : Nat) (status : Option (BitVec 8)) (c2 : BitVec 8) (h : Share) : Share :=
  let go := { h with state := .aborting, mark := mark, status := status, cause2 := c2, abortAt := now, was := if h.state = .aborting then h.was else h.state }
  match h.state with
  | .running => go
  | .switched | .parked => if mark = 1 ∨ mark = 2 ∨ mark = 4 then go else h
  | .aborting => if h.mark ≠ 3 ∧ (mark = 4 ∨ (mark = 3 ∧ h.abortAt = now)) then go else h
  | _ => h

/-- The share becomes ABORTING with a mark, where its state lets it; its cluster's requested level no longer counts it (R351). -/
def State.abortWith (s : State) (id mark : Nat) (status : Option (BitVec 8)) (c2 : BitVec 8) : State :=
  (s.modShare id (Share.abort s.time mark status c2)).noteRequest (((s.share id).map (·.cluster)).getD 72)

/-- The share is aborted under R300. -/
def State.abortShare (s : State) (id : Nat) : State := s.abortWith id 0 none 0

/-- The share fails with a status (R299). -/
def State.failShare (s : State) (id : Nat) (status c2 : BitVec 8) : State := s.abortWith id 3 (some status) c2

def Eclipse.scans : Eclipse → Bool
  | .scanning _ => true
  | _ => false

/-- The share of a group on core `c` stops at its next quiet boundary, and so does a group asked to leave (R42). -/
def State.stopAsked (s : State) (c : Nat) : Bool :=
  match s.front c with
  | none => false
  | some g =>
    let x := s.ctx g.ctx
    let h := s.share g.share
    h.any (fun h => h.state != .running || (s.gov.pthr != 0 && s.gov.pthr ≤ s.effClass h)) || x.halt || x.state == 2
      || (s.cluster (c / 4)).switchTo.isSome
      || (s.switchSet c).any (fun k => (s.core k).eclipse.scans)

/-- The group is to stop at the next bundle boundary of each stream: a shed, or a kill of its context (R346, R400). -/
def State.stopHard (s : State) (g : Group) : Bool :=
  (s.ctx g.ctx).state == 2 || (s.share g.share).any (fun h => h.state == .aborting && h.mark == 4)

/-- A slot that the group has read is being fetched anew for its rewind (R413, R427). -/
def State.refetching (s : State) (c : Nat) (g : Group) : Bool :=
  g.holds.any (fun h => match h with
    | .refetch n => (s.cluster (c / 4)).refetch.contains n
    | _ => false)

/-- The group of a bank has stopped: out of issue, at a quiet boundary, ended, or frozen in both streams (R42, R300); a rewind
is complete before it stops (R427). -/
def State.bankStopped (s : State) (c : Nat) (b : Bool) : Bool :=
  match s.bank c b with
  | none => true
  | some g => !s.refetching c g && (b != (s.core c).front || g.ended || g.dead.isSome || (g.quiet && g.between)
      || (s.stopHard g && g.between && g.slotX == 0)
      || (s.stopped c true && s.stopped c false))

/-- The group of a bank may be saved whole elsewhere: it has stopped, and every access it has issued has performed and has
delivered its data, but for those that its rewind abandons as they wait for page service, a moving page or a cell (R47, R222,
R246). A group between a non-idempotent operation and the segment entry after it goes on to that boundary first. -/
def State.bankSettled (s : State) (c : Nat) (b : Bool) : Bool :=
  match s.bank c b with
  | none => true
  | some g => s.bankStopped c b
    && (b != (s.core c).front || g.ended || g.dead.isSome || (g.quiet && g.between) || !g.entering)
    && (s.cluster (c / 4)).outbound.all (fun a => a.gid != g.gid || a.abandons g)

/-- The banks that hold groups of a share. -/
def State.banksOf (s : State) (share : Nat) : List (Nat × Bool) :=
  s.cores.flatMap (fun e =>
    (if e.2.bank0.any (fun g => g.share == share) then [(e.1, false)] else [])
      ++ (if e.2.bank1.any (fun g => g.share == share) then [(e.1, true)] else []))

/-! ## Ends of shares (R265, R297) -/

/-- A share ends: its status, its allocations and tiles (R297); its failure counts from the moment that stopped it (R298). -/
def State.endShare (s : State) (id : Nat) (status : Option (BitVec 8)) (c2 : BitVec 8) : State :=
  match s.share id with
  | none => s
  | some h =>
    let s : State := { s with cores := s.cores.map (fun e => (e.1, { e.2 with
      mat := e.2.mat.dropRings id, rewound := e.2.rewound.filter (fun x => x.2 != id) })) }
    let s := s.modShare id (fun h => { h with state := .ended, status := status, cause2 := c2, groups := [], allocs := [], token := none })
    let s := if status = some POISON then s.countLife lifeCluster h.cluster cPoison else s
    let s := s.noteRequest h.cluster
    match status with
    | some st => s.modTask h.task (Task.note (if h.state = .aborting then h.abortAt else s.time) h.cluster st c2)
    | none => s

/-! ## The engines of a share (R276) -/

/-- Copies dropped or stopped, decodes ended with a status for their completion words, matrix commands flushed. -/
def State.dropEngines (s : State) (share : Nat) (st : BitVec 8) : State :=
  { s with
    clusters := s.clusters.map (fun e => (e.1, { e.2 with
      copies := e.2.copies.filter (fun c => c.share != share)
      saved := e.2.saved.map (fun x => (x.1, x.2.map (fun g => { g with copies := g.copies.filter (fun c => c.share != share) }))) }))
    decodes := s.decodes.map (fun d => if d.share = share then { d with ended := d.ended.or (some st) } else d)
    cores := s.cores.map (fun e => (e.1, { e.2 with mat :=
      { e.2.mat.dropRings share with
        queue := e.2.mat.queue.filter (fun c => c.share != share)
        run := e.2.mat.run.filter (fun r => r.cmd.share != share)
        epRun := e.2.mat.epRun.filter (fun r => r.1.share != share) } })) }

/-- Everything a stopped share held is taken from it (R300): groups, shadows, engine commands. -/
def State.clearShare (s : State) (h : Share) (st : BitVec 8) : State :=
  let s := (s.banksOf h.id).foldl (fun s e => s.settleBank e.1 e.2) s
  let s := s.dropGroups (fun g => g.share == h.id)
  let s := (s.dropEngines h.id st).dropShadowsOf h.ctx h.id
  let s := s.modCluster h.cluster (fun k => { k with parked := k.parked.filter (fun i => i.share != h.id) })
  s.modShare h.id (fun h => { h with groups := [], allocs := [] })

/-! ## Splitting (R301) -/

/-- The grain of an axis. -/
def Block.grainOf (b : Block) (x : Nat) : Nat := if b.grainAt x = 0 then b.stepAt x else b.grainAt x

/-- The axis that a box is cut on, and where; none when no axis can be cut. -/
def Block.cut (b : Block) (lo hi : List Int) : Option (Nat × Int) :=
  ((upTo (b.ndim + 1)).filterMap (fun p =>
    let x := b.axis p
    let l := (lo[x]?).getD 0
    let h := (hi[x]?).getD 0
    let st := b.stepAt x
    if h - l > (b.grainOf x : Int) then some (x, l + st * ((h - l) / (2 * st))) else none)).head?

/-- The neighbours of a cluster (R15). -/
def neighbours (c : Nat) : List Nat :=
  let d := c / 9 * 9
  let y := c % 9 / 3
  let x := c % 3
  ((upTo 9).filter (fun j => (j / 3 == y && (j % 3 == x + 1 || j % 3 + 1 == x)) || (j % 3 == x && (j / 3 == y + 1 || j / 3 + 1 == y)))).map (· + d)

/-- The cluster has an empty bank. -/
def State.freeBank (s : State) (cl : Nat) : Bool := (upTo 4).any (fun k => ((s.core (4 * cl + k)).emptyBank).isSome)

/-- A neighbour may take the second half: it holds no context, or this one with a free bank and an empty launch queue. -/
def State.mayTake (s : State) (cl ctx : Nat) : Bool :=
  s.enabled cl && !s.dieGated cl && (match (s.cluster cl).ctx with
    | none => true
    | some x => x == ctx && s.freeBank cl && (s.cluster cl).launchQ.isEmpty)

/-- A half as a new share (R301): the task's point and allowance, ready at once. -/
def Share.half (h : Share) (id cl now : Nat) (lo hi : List Int) : Share :=
  { h with
    id := id, cluster := cl, state := .ready, lo := lo, hi := hi, next := 0, chosen := false, began := none, readyAt := now
    reruns := 0, groups := [], allocs := [], mark := 0, status := none, cause2 := 0, escaped := false, token := none }

/-- The cut of an aborted share; none while a half finds no room at the front (R289). -/
def State.splitShare (s : State) (h : Share) (t : Task) : Option State :=
  let b := t.block
  match b.cut h.lo h.hi with
  | none => some ((s.modShare h.id (fun h => { h with state := .replaced })).modTask t.id (Task.note s.time h.cluster GRAIN 0))
  | some (x, m) =>
    let g : Int := b.grainOf x
    let fits := fun (l u : Int) => decide (g ≤ u - l)
    let l := (h.lo[x]?).getD 0
    let u := (h.hi[x]?).getD 0
    let keep1 := fits l m
    let keep2 := fits m u
    let c := Config.choice s.free
    let near := if h.moved then [] else (neighbours h.cluster).filter (fun n => s.mayTake n h.ctx)
    let cl2 := if c = 0 then h.cluster else (near[c - 1]?).getD h.cluster
    let one := h.half s.fresh h.cluster s.time h.lo (h.hi.set x m)
    let two := { h.half (s.fresh + 1) cl2 s.time (h.lo.set x m) h.hi with moved := h.moved || cl2 != h.cluster }
    let new := (if keep1 then [one] else []) ++ (if keep2 then [two] else [])
    let s1 := { (s.modShare h.id (fun h => { h with state := .replaced })) with
      shares := (s.modShare h.id (fun h => { h with state := .replaced })).shares ++ new
      fresh := s.fresh + 2, free := s.free + 1 }
    let s1 := s1.modTask t.id (fun t => { t with splits := t.splits + 1, dropped := t.dropped || !keep1 || !keep2 })
    let s1 := if keep1 && keep2 then s1 else s1.modTask t.id (Task.note s.time h.cluster GRAIN 0)
    let s2 := if keep2 then s1.placeFront cl2 two.id h.ctx else some s1
    s2.bind (fun s => if keep1 then s.placeFront h.cluster one.id h.ctx else some s)

/-- An aborting share whose groups have all stopped leaves that state (R302). -/
def State.settleShare (s : State) (h : Share) (t : Task) : State :=
  match h.mark with
  | 1 =>
    -- one that has yet to find room at the front is tried again
    let s' := (s.clearShare h EXHAUST).modCluster h.cluster (fun k => { k with launchQ := k.launchQ.filter (· != h.id) })
    (((s'.modShare h.id (fun h =>
      { h with state := .ready, next := 0, chosen := false, began := none, readyAt := s'.time, reruns := h.reruns + 1, mark := 0
               status := none, cause2 := 0 })).placeFront h.cluster h.id h.ctx).map (fun t =>
        t.countLife lifeCluster h.cluster cReruns)).getD s'
  | 2 => (s.clearShare h GANGBREAK).endShare h.id (some GANGBREAK) 0
  | 3 => (s.clearShare h (h.status.getD EXHAUST)).endShare h.id h.status h.cause2
  | 4 =>
    -- a class that R322 has lowered below the threshold since is judged anew (R349)
    if h.was = .running ∧ s.gov.sthr ≠ 0 ∧ s.effClass h < s.gov.sthr then
      (s.modShare h.id (fun h => { h with state := .running, mark := 0, status := none })).noteRequest h.cluster
    else (s.clearShare h SHED).endShare h.id (some SHED) 0
  | _ =>
    let s := s.clearShare h EXHAUST
    if !t.block.divisible then s.endShare h.id (some EXHAUST) 0
    else (s.splitShare h t).getD s

/-- Every group of the share has stopped. -/
def State.shareStopped (s : State) (id : Nat) : Bool :=
  (s.banksOf id).all (fun e => s.bankStopped e.1 e.2)

/-- Every group of the share may be saved (R222). -/
def State.shareSettled (s : State) (id : Nat) : Bool := (s.banksOf id).all (fun e => s.bankSettled e.1 e.2)

/-! ## Completion (R297, R298) -/

/-- Engine commands and matrix commands of a share are outstanding (R297). -/
def State.enginesBusy (s : State) (share : Nat) : Bool :=
  s.clusters.any (fun e => e.2.copies.any (fun c => c.share == share)
      || e.2.saved.any (fun x => x.2.any (fun g => g.copies.any (fun c => c.share == share))))
    || s.decodes.any (fun d => d.share == share)
    || s.cores.any (fun e => e.2.mat.queue.any (fun c => c.share == share) || e.2.mat.run.any (fun r => r.cmd.share == share)
        || e.2.mat.epRun.any (fun r => r.1.share == share))

/-- Every access of a task's shares has performed at a scope (R266). -/
def State.taskDrained (s : State) (task scope : Nat) : Bool :=
  s.clusters.all (fun e => e.2.outbound.all (fun a =>
    a.done || ((s.share a.share).map (·.task)) != some task || a.pieces.all (·.at scope)))

/-- The share has nothing left to run (R297). -/
def State.shareDone (s : State) (h : Share) (t : Task) : Bool :=
  h.state == .running && h.next ≥ h.total t.block && h.groups.isEmpty && !s.enginesBusy h.id

/-- The task completes after its DEADLINE (R298). -/
def State.late (s : State) (t : Task) : Bool := t.block.deadline != 0 && t.block.deadline < s.time

/-- DETAIL of a task's completion word (R298). -/
def State.taskDetail (s : State) (t : Task) : Nat :=
  min t.splits 8191 * 2 ^ 19 + t.tiles % 128 * 2 ^ 12
    + bool1 (s.late t) * 2 ^ 11 + t.opidx % 8 * 2 ^ 8
    + (match t.status with
       | some x => x.2.2.2.toNat
       | none => 0)

/-- STATUS of a task (R298, R421). -/
def State.taskStatus (s : State) (t : Task) : BitVec 8 :=
  match t.status with
  | some x => x.2.2.1
  | none => if s.board.log.any (fun p => p.suspect && p.task == t.id) then SUSPECT else 0

/-- TWAITs frozen on a task that has completed return 0 (R307). -/
def Group.wakeTwait (task : Nat) (g : Group) : Group :=
  g.holds.foldl (fun g x => match x with
    | .twait t rd => if t = task then { g.wrA rd 0 with holds := g.holds.filter (fun y => y != x) } else g
    | _ => g) g

/-- A grade is in force (R361). -/
def Governor.graded (g : Governor) : Bool := g.limit < 15 || g.pthr != 0 || g.sthr != 0

/-- A late completion under a grade is a deadline miss (R346, R361). -/
def State.noteMiss (s : State) (t : Task) : State :=
  if s.late t && s.gov.graded then { s with gov := { s.gov with misses := min 255 (s.gov.misses + 1) } } else s

/-- The task has completed: its waiters, the cell it evaluates, and the gang that it belongs to learn of it. -/
def State.taskGone (s : State) (t : Task) : State :=
  let st := s.taskStatus t
  let s := (s.noteMiss t).modTask t.id (fun t => { t with live := false, token := none })
  let s := s.mapGroups (Group.wakeTwait t.id)
  let s := match t.gang with
    | some (dev, gang) => s.sendTo dev (.done dev gang st ((t.status.map (·.1)).getD s.time))
    | none => s
  match t.cell with
  | some ln =>
    if s.cell ln == cEVALUATING && (((s.lineMeta ln).eval).bind (·.task)) == some t.id then
      if st = SHED then s.suspendCell ln else s.failCell ln
    else s
  | none => s

/-- Every share of the task has ended, been dropped or been replaced. -/
def State.taskOver (s : State) (t : Task) : Bool :=
  t.live && (s.shares.filter (fun h => h.task == t.id)).all (fun h => h.state == .ended || h.state == .droppedS || h.state == .replaced)

/-- The task's completion, with its word when it has one (R298, R451). -/
def State.completeTask (s : State) (t : Task) : State :=
  let b := t.block
  -- a release to host memory is one at SYSTEM (R232)
  let scope := match s.place t.ctx true Need.write b.cwaddr with
    | some (.host _) => if b.cwaddr = 0 then b.cwsc else 3
    | _ => b.cwsc
  if !s.taskOver t || t.token.isSome || !s.taskDrained t.id scope then s
  else if b.cwaddr = 0 || t.gang.isSome then s.taskGone t
  else
    let word := completionWord b.cwseq (s.taskStatus t) (s.taskDetail t)
    match s.hwWrite t.ctx b.cwaddr word (some (s.stampOf t.home b.cwsc)) [] with
    | (.wait h n, s) => s.modTask t.id (fun t => { t with token := some (h, n) })
    | (.moving, s) => s
    | (_, s) => s.taskGone t

/-- A complete share publishes what it marked and ends OK; a gang share keeps its marked shadows for GCOMMIT
(R265, R297, R439). None while a publication waits for the log or for a page. -/
def State.finishShare (s : State) (h : Share) (t : Task) : Option State :=
  let ms := (s.ctx h.ctx).marked h.id
  if h.gang then
    let s := ((s.ctx h.ctx).shadows.filter (fun y => y.share == h.id && y.mark.isNone)).foldl (fun s y => s.dropShadow h.ctx y) s
    some (s.endShare h.id none 0)
  else if 4096 < s.board.log.length + ms.length || ms.any (fun y => s.bufferMoving h.ctx y.base y.len) then none
  else match (ms.filterMap (fun y => s.bufferFail h.ctx y.base y.len)).head? with
  | some cause => some (s.failShare h.id cause 0)
  | none => match (ms.filterMap (fun y => s.bufferFault h.ctx y.base y.len)).head? with
    | some (hd, p) =>
      let (n, s) := s.pageFault hd h.ctx p 5
      some (s.modShare h.id (fun h => { h with token := some (hd, n) }))
    | none =>
      let s := ms.foldl (fun s y => s.publish h.ctx t.id y (s.stampOf h.cluster t.block.cwsc)) s
      some ((s.dropShadowsOf h.ctx h.id).endShare h.id none 0)

/-! ## Operand-store allocations (R304) -/

/-- A slot is held by an allocation of the share. -/
def Share.holdsSlot (h : Share) (slot : Nat) : Bool := h.allocs.any (fun a => a.2.1 ≤ slot && slot < a.2.1 + a.2.2)

/-- The lowest run of `n` free slots of the claim. -/
def Share.findRun (h : Share) (b : Block) (n : Nat) : Option Nat :=
  if b.osslots < n then none
  else (least (fun i => (upTo n).all (fun k => !h.holdsSlot (b.osbase + i + k))) (b.osslots - n + 1)).map (b.osbase + ·)

/-- Groups that the share holds in its cluster stay within GROUPS (R295, R303). -/
def State.groupRoom (_s : State) (h : Share) (t : Task) : Bool := h.groups.length < t.block.groups

/-! ## Events -/

/-- A group whose streams have passed END, or that a double trap has ended, leaves its bank (R37, R297, R299). -/
def State.groupEnd (s : State) (c : Nat) (b : Bool) : State :=
  match s.bank c b with
  | none => s
  | some g =>
    if !((g.ended && g.lateFault.isNone) || g.dead.isSome) then s
    else
      let s := (s.setBank c b none).modShare g.share (fun h => { h with groups := h.groups.filter (· != g.gid) })
      let s := match g.dead with
        | some (second, first) => s.failShare g.share second first
        | none =>
          if g.gstat.valid then s.failShare g.share g.gstat.cause 0
          else match g.fault with
            | some f => s.failShare g.share f.cause 0
            | none => s
      s.bankFreed c

def execGroupEnd (core : Nat) (bank : Bool) (s : State) : Out := .next (s.slopeHeld (fun s => s.groupEnd core bank))

def execShareComplete (share : Nat) (s : State) : Out :=
  .next (match s.share share with
    | none => s
    | some h => match s.task h.task with
      | none => s
      | some t =>
        if h.token.isSome then s
        else
          s.slopeHeld (fun s =>
            let s := if s.shareDone h t then (s.finishShare h t).getD s else s
            match s.task h.task with
            | some t => s.completeTask t
            | none => s))

/-- Device time passes the attempt's start plus ALLOW (R300). -/
def execAllowExpiry (share : Nat) (s : State) : Out :=
  .next (match s.share share with
    | none => s
    | some h => match h.began, s.task h.task with
      | some b, some t => if h.state == .running && t.block.allow ≠ 0 && b + t.block.allow < s.time then s.abortShare share else s
      | _, _ => s)

def execAbortSettle (share : Nat) (s : State) : Out :=
  .next (match s.share share with
    | none => s
    | some h => match s.task h.task with
      | none => s
      | some t => if h.state == .aborting && s.shareStopped share && (h.mark != 4 || s.stopRoom h) then s.slopeHeld (fun s => s.settleShare h t) else s)

end Sys2Proof.Machine
end

