-- ==== Sys2Proof/Machine/Matrix.lean ====
section
/-!
DEFINITION. The matrix unit: formats and bands (R169, R171), planes (R172), accumulation and its checks (R174, R184), tags
(R178), the ring (R179, R180), engine faults (R168), and the M-slot forms as they issue (R166, R179, R181, R185, R190).
-/
namespace Sys2Proof.Machine

/-! ## Formats (R169) -/

/-- Bytes of an element of a matrix format. -/
def mSize (f : Nat) : Nat := if f = 11 then 8 else if f = 10 then 4 else if f = 8 ∨ f = 9 then 2 else 1

/-- K per band. -/
def mDepth (f : Nat) : Nat := if f = 11 then 8 else if f = 10 then 16 else 32

/-- Columns N. -/
def mCols (f : Nat) : Nat := 128 / mSize f

/-- TYPE code of the accumulator: f64, i32 or f32. -/
def mAcc (f : Nat) : Nat := if f = 11 then 11 else if f = 0 then 2 else 10

def accBytes (t : Nat) : Nat := if t = 11 then 8 else 4

/-- K_eff under a band mask. -/
def kEff (mask : BitVec 4) (f : Nat) : Nat := popCount 4 mask.toNat * mDepth f

/-- A plane and the rows streamed against it agree: the same format, or e4m3 with e5m2. -/
def mAgree (a b : Nat) : Bool := a == b || ((a == 12 || a == 13) && (b == 12 || b == 13))

/-- An element's value in a floating matrix format. -/
def mFp (f x : Nat) : Fp :=
  match Ty.ofCode f with
  | some (.float t) => t.dec x
  | _ => .nan false

/-- An element as an f64 encoding; a narrower float widens exactly. -/
def mF64 (f x : Nat) : Nat := f64.conv .rne false true (mFp f x)

def mFinite (f x : Nat) : Bool :=
  f == 0 || (match mFp f x with
    | .fin _ _ _ => true
    | _ => false)

/-! ## Accumulation (R174) -/

/-- An element of a plane, row k and column n. -/
def Plane.at (p : Plane) (k n : Nat) : Nat :=
  let f := p.fmt.toNat
  let z := mSize f
  leNat ((upTo z).map (fun i => Tab.get 0 p.data ((k * mCols f + n) * z + i)))

/-- Elements of one exact sum: 16 for f16 and bf16, 32 for 8-bit floats, 4 for f32. -/
def mChunk (f : Nat) : Nat := if f = 10 then 4 else if f = 8 ∨ f = 9 then 16 else 32

/-- One f64 FMA of a column. -/
def fmaStep (acc a b : Nat) : Nat :=
  f64.sum .rne false [f64.dec a, f64.dec b, f64.dec acc] [(f64.dec a).mul (f64.dec b), f64.dec acc]

/-- One chunk of a column: the products' exact sum and the accumulator, rounded once. -/
def chunkStep (fa fb acc : Nat) (ps : List (Nat × Nat)) : Nat :=
  let ops := ps.flatMap (fun p => [mFp fa p.1, mFp fb p.2])
  let prods := ps.map (fun p => (mFp fa p.1).mul (mFp fb p.2))
  f32.sum .rne false (ops ++ [f32.dec acc]) (prods ++ [f32.dec acc])

/-- The new accumulator of column n: `a` is the row of A in format `fa`. -/
def Plane.column (p : Plane) (fa : Nat) (a : List Nat) (n acc : Nat) : Nat :=
  let ps := a.zip ((upTo a.length).map (fun k => p.at k n))
  if fa = 0 then wrap 32 (signed 32 acc + (ps.map (fun x => signed 8 x.1 * signed 8 x.2)).foldl (· + ·) 0)
  else if fa = 11 then ps.foldl (fun acc x => fmaStep acc x.1 x.2) acc
  else
    let c := mChunk fa
    (upTo (a.length / c)).foldl (fun acc j => chunkStep fa p.fmt.toNat acc ((ps.drop (j * c)).take c)) acc

/-- An accumulator of a tile: row r, column n (R180). -/
def Tile.at (t : Tile) (acc r n : Nat) : Nat :=
  let z := accBytes acc
  leNat ((upTo z).map (fun i => Tab.get 0 t.data (512 * r + n * z + i)))

def Tile.put (t : Tile) (acc r n x : Nat) : Tile :=
  let z := accBytes acc
  { t with data := tabPut t.data (512 * r + n * z) (leBytes z x) }

/-! ## Checksums (R184) -/

/-- Σ_n of a plane's row in f64, in ascending n: of the elements, or of their magnitudes. -/
def Plane.rowSum (p : Plane) (abs : Bool) (k : Nat) : Nat :=
  (upTo (mCols p.fmt.toNat)).foldl (fun acc n =>
    let x := mF64 p.fmt.toNat (p.at k n)
    laneAdd (.float f64) .rne false acc (if abs then f64.mag x else x)) 0

def Plane.rowSumInt (p : Plane) (k : Nat) : Int :=
  (upTo (mCols p.fmt.toNat)).foldl (fun acc n => acc + signed 8 (p.at k n)) 0

/-- Every element of the plane's K_eff rows is finite. -/
def Plane.finite (p : Plane) : Bool :=
  (upTo p.keff).all (fun k => (upTo (mCols p.fmt.toNat)).all (fun n => mFinite p.fmt.toNat (p.at k n)))

/-- The row's sums after one more stream: M_r by FMA in f64, as the rule says it of E_r (R184, log 132). -/
def RowChk.stream (c : RowChk) (p : Plane) (fa : Nat) (a : List Nat) : RowChk :=
  let ka := (upTo a.length).zip a
  if fa = 0 then
    { c with
      ei := ka.foldl (fun e x => e + signed 8 x.2 * p.rowSumInt x.1) c.ei
      kr := c.kr + a.length }
  else
    { c with
      e := BitVec.ofNat 64 (ka.foldl (fun e x => fmaStep e (mF64 fa x.2) (p.rowSum false x.1)) c.e.toNat)
      m := BitVec.ofNat 64 (ka.foldl (fun e x => fmaStep e (f64.mag (mF64 fa x.2)) (p.rowSum true x.1)) c.m.toNat)
      kr := c.kr + a.length
      na := c.na || a.any (fun x => !mFinite fa x) || !p.finite }

/-- |x − y| ≤ 2^−p × k × m for finite f64 encodings; an infinite m admits any finite x and y. The
comparison is exact: the rule names no rounding for it (R184, log 132). -/
def withinTau (x y m p k : Nat) : Bool :=
  match f64.dec x, f64.dec y, f64.dec m with
  | .fin s a e, .fin t b d, .fin _ c q =>
    let lo : Int := min (min e d) (q - p)
    let v := fun (n : Bool) (u : Nat) (w : Int) => let z : Int := (u <<< (w - lo).toNat : Nat); if n then -z else z
    decide ((v s a e - v t b d).natAbs ≤ (v false (c * k) (q - p)).natAbs)
  | .fin _ _ _, .fin _ _ _, .inf _ => true
  | _, _, _ => false

/-- A row's outcome: 1 PASS, 2 NA, 3 FAILED. -/
def Tile.judgeRow (t : Tile) (acc r : Nat) : Nat :=
  let c := Tab.get {} t.rows r
  let xs := (upTo t.cols).map (t.at acc r)
  if acc = 2 then
    if wrap 32 ((xs.map (signed 32)).foldl (· + ·) 0) = wrap 32 c.ei then 1 else 3
  else
    let f := if acc = 11 then 11 else 10
    if c.na || xs.any (fun x => !mFinite f x) then 2
    else
      let sum := xs.foldl (fun a x => laneAdd (.float f64) .rne false a (mF64 f x)) 0
      if withinTau sum c.e.toNat c.m.toNat (if acc = 11 then 53 else 24) (c.kr + 2) then 1 else 3

/-- The tile's status at ADV. -/
def Tile.judge (t : Tile) : BitVec 2 :=
  if !t.chkAll then 0
  else
    let rs := ((upTo 32).filter (fun r => !t.masked.getLsbD r)).map (t.judgeRow (t.acc.elim 10 BitVec.toNat))
    if rs.contains 2 then 2 else if rs.contains 3 then 3 else 1

/-- A stream of a format enters the tile: it fixes the accumulator type (R174), and the checks hold only when they are enabled
for it (R184). -/
def Tile.enter (t : Tile) (fa : Nat) (chk : Bool) : Tile :=
  { t with acc := some (BitVec.ofNat 4 (mAcc fa)), cols := max t.cols (mCols fa), chkAll := t.chkAll && chk }

/-- accumulate(tile, r, a, B) with the checks' sums. -/
def Tile.accumulate (t : Tile) (p : Plane) (fa : Nat) (chk : Bool) (r : Nat) (a : List Nat) : Tile :=
  let acc := mAcc fa
  let n := mCols fa
  let t := t.enter fa chk
  let t := if chk then { t with rows := Tab.modify {} t.rows r (fun c => c.stream p fa a) } else t
  (upTo n).foldl (fun t j => t.put acc r j (p.column fa a j (t.at acc r j))) t

/-! ## Operand store as the engines read it (R167, R178) -/

/-- The operand-store range ends within the array. -/
def osFits (a n : Nat) : Bool := a + n ≤ 0x600000

def slotsOf (a n : Nat) : List Nat := slotSpan a n

/-- Every slot of the range has been restored after a gang switch (R403). -/
def State.osReady (s : State) (cl a n : Nat) : Bool := (slotsOf a n).all (fun x => !(s.cluster cl).unrestored.contains x)

/-- The fault of reading a range under a format and a swizzle, slot by slot (R168, R178). -/
def State.tagCheck (s : State) (cl a n : Nat) (f z : Nat) : Option (BitVec 8) :=
  if !osFits a n then some WINFAULT
  else ((slotsOf a n).filterMap (fun x =>
    let t := s.tag cl x
    if !t.valid || t.fmt.toNat != f || t.swz.toNat != z then some TAGFAULT else if t.poison then some POISON else none)).head?

/-- A byte at a logical operand-store address read through a swizzle. -/
def State.osByte (s : State) (cl z a : Nat) : Byte := Tab.get 0 (s.cluster cl).os (swzAddr z a)

def State.osElem (s : State) (cl z size a : Nat) : Nat := leNat ((upTo size).map (fun i => s.osByte cl z (a + i)))

/-- The slots of a range read by an engine for a group: remembered while they are CLEAN (R413). -/
def State.osNoteRange (s : State) (cl gid a n : Nat) : State :=
  (slotsOf a n).foldl (fun s x => s.osNote cl gid (4096 * x)) s

/-- A plane's contents read row by row from `base` (R172). -/
def State.readPlane (s : State) (cl base : Nat) (f z : Nat) (mask : BitVec 4) : Plane :=
  let k := kEff mask f
  let bs := (upTo (k * mCols f * mSize f)).map (fun i => s.osByte cl z (base + i))
  { fmt := BitVec.ofNat 4 f, valid := true, keff := k, data := tabPut [] 0 bs }

/-- The barrier's current phase completes poisoned (R168). -/
def State.poisonPhase (s : State) (cl ctx b : Nat) : State :=
  let x := s.bar cl ctx b
  s.arrive cl ctx b (x.target - x.current) true

/-! ## The ring (R179, R180) -/

/-- A group's ring as it stands now. -/
def Matrix.putRing (m : Matrix) (r : Ring) : Matrix := { m with rings := m.rings.map (fun x => if x.gid = r.gid then r else x) }

/-- A group's own tiles are free; those of every other group stay held (R179, R297). -/
def Matrix.freeRing (m : Matrix) (gid : Nat) : Matrix := { m with rings := m.rings.filter (fun r => r.gid != gid) }

def Matrix.tile (m : Matrix) (n : Nat) : Tile := Tab.get {} m.tiles n

def Matrix.setTile (m : Matrix) (n : Nat) (t : Tile) : Matrix := { m with tiles := Tab.set {} m.tiles n t }

/-- The physical tile at a logical index. -/
def Ring.phys (r : Ring) (i : Nat) : Nat := (r.tiles[i]?).getD 0

/-- Consumption of the tail. -/
def Ring.consume (r : Ring) : Ring := { r with tail := (r.tail + 1) % max 1 r.tiles.length, filled := r.filled - 1 }

def State.modMat (s : State) (c : Nat) (f : Matrix → Matrix) : State := s.modCore c (fun k => { k with mat := f k.mat })

/-! ## Engine faults (R168) -/

/-- Barriers that ARRBs of a routine name. -/
def Cluster.arrbs (k : Cluster) (rout : Nat) : List Nat :=
  let e := Tab.get {} k.routines rout
  (upTo e.len).filterMap (fun i =>
    match decodeMicro (Tab.get 0 k.words (e.start + i)) with
    | .ok (.arrb b _) => some b.toNat
    | _ => none)

/-- Barriers that a dropped or faulting command would have fed. -/
def Cluster.fedBy (k : Cluster) : MKind → List Nat
  | .mcall r _ _ _ _ => k.arrbs r
  | .mflush arr b => if arr then [b] else []
  | .eprun _ arr b => if arr then [b] else []
  | _ => []

/-- A queued command that one of the engines has begun. -/
def Matrix.begun (m : Matrix) (c : MCmd) : Bool := m.run.any (fun r => r.cmd.seq == c.seq) || m.epRun.any (fun r => r.1.seq == c.seq)

/-- The engine of command `cmd` faults: it stops, the group's later commands that have not begun are dropped, their barriers'
phases complete poisoned, and the fault is recorded in the group, in its bank or where it is saved; the share fails when its
group has ended (R168). -/
def State.engineFault (s : State) (core : Nat) (cmd : MCmd) (f : MFault) : State :=
  let cl := core / 4
  let m := (s.core core).mat
  let gone := m.queue.filter (fun c => c.gid == cmd.gid && cmd.seq < c.seq && !m.begun c)
  let bars := ((cmd :: gone).flatMap (fun c => (s.cluster cl).fedBy c.kind)).dedup
  let s := s.modMat core (fun m =>
    { m with
      queue := m.queue.filter (fun c => c.seq != cmd.seq && !gone.any (fun d => d.seq == c.seq))
      run := m.run.filter (fun r => r.cmd.seq != cmd.seq)
      epRun := m.epRun.filter (fun r => r.1.seq != cmd.seq) })
  let s := bars.foldl (fun s b => s.poisonPhase cl cmd.ctx b) s
  if (s.share cmd.share).any (fun h => h.groups.contains cmd.gid) then
    s.modGroup cmd.gid (fun g => { g with fault := g.fault.or (some f) })
  else s.failShare cmd.share f.cause 0

/-- A fault of a command that is no routine. -/
def State.cmdFault (s : State) (core : Nat) (cmd : MCmd) (cause : BitVec 8) (epi : Bool) : State :=
  s.engineFault core cmd { cause := cause, epi := epi }

/-- A command has completed: its entry is free. -/
def State.cmdDone (s : State) (core : Nat) (cmd : MCmd) : State :=
  s.modMat core (fun m => { m with queue := m.queue.filter (fun c => c.seq != cmd.seq) })

/-! ## The M-slot forms at issue (R166, R190) -/

/-- The bank of the group whose syllable is under way. -/
def State.myBank (s : State) : Bool := (s.core s.here.core).front

def State.myMat (s : State) : Matrix := (s.core s.here.core).mat

/-- A pending engine fault traps at the syllable and is cleared (R168). -/
def faultFirst (act : State → State) (s : State) : State :=
  match s.me.fault with
  | some f => raise f.cause (s.upd (fun g => { g with fault := none }))
  | none => act s

/-- An M syllable but MCHKR and MFLUSH.DROP. -/
def mform (i : Instr) (y : Syl) (act : State → State) (s : State) : Out := syllable i y (faultFirst act) s

/-- A command enters the matrix command queue. -/
def State.enqueueM (s : State) (k : MKind) : State :=
  let g := s.me
  let c : MCmd := { bank := s.myBank, gid := g.gid, ctx := g.ctx, share := g.share, smode := g.gstat.mode, seq := s.fresh, kind := k }
  { s.modMat s.here.core (fun m => { m with queue := m.queue ++ [c] }) with fresh := s.fresh + 1 }

def execMcall (y : Syl) (s : State) : Out :=
  mform (.mcall y) y (fun s => s.enqueueM (.mcall (y.im 5 0) (y.im 10 6) (y.imm.getLsbD 11) (y.imm.getLsbD 12) s.me.mp)) s

def execMlds (y : Syl) (s : State) : Out :=
  mform (.mlds y) y (fun s =>
    let (a, s) := readX y.srca s
    s.enqueueM (.mlds a (BitVec.ofNat 4 y.ty) (BitVec.ofNat 4 (y.im 19 16)))) s

def execMswp (y : Syl) (s : State) : Out := mform (.mswp y) y (fun s => s.enqueueM .mswp) s

/-- The new value is read from the next bundle on. -/
def execMpw (y : Syl) (s : State) : Out :=
  mform (.mpw y) y (fun s =>
    let (a, s) := readX y.srca s
    s.upd (·.launch { left := 1, slot := 3, dst := .mpreg (y.im 2 0), val := zx a, en := BitVec.allOnes 2048 })) s

def execMshape (y : Syl) (s : State) : Out := mform (.mshape y) y (fun s => s.enqueueM (.mshape (BitVec.ofNat 4 (y.im 3 0)))) s

/-- Ring tiles that the other groups of the share hold in the cluster, those that have ended among them (R297). -/
def State.ringHeld (s : State) (g : Group) (cl : Nat) : Nat :=
  (((coresOf cl).flatMap (fun c => (s.core c).mat.rings)).filter (fun r => r.share == g.share && r.gid != g.gid)).foldl
    (fun n r => n + r.tiles.length) 0

/-- The ring-tile claim of the group's share (R283); a group of no share has the whole unit. -/
def State.ringClaim (s : State) (g : Group) : Nat := ((s.taskOf g).map (·.block.ringt)).getD 16

/-- MRING (R179): the group must have no command in the queue. -/
def execMring (y : Syl) (s : State) : Out :=
  mform (.mring y) y (fun s =>
    let g := s.me
    let m := s.myMat
    let len := y.im 4 0
    if m.queue.any (fun c => c.gid == g.gid) || (m.ringOf g.gid).any (fun r => r.filled != 0) then raise ILLOP s
    else
      let m := m.freeRing g.gid
      let held := m.rings.flatMap (·.tiles)
      let free := (upTo 16).filter (fun t => !held.contains t)
      let s := s.modMat s.here.core (fun _ => m)
      if free.length < len || s.ringClaim g < s.ringHeld g s.myCluster + len then s.abortShare g.share
      else
        let mine := free.take len
        s.modMat s.here.core (fun m =>
          { mine.foldl (fun m t => m.setTile t {}) m with
            rings := m.rings ++ [{ gid := g.gid, share := g.share, tiles := mine, swc := y.imm.getLsbD 5 }] })) s

/-- Index of the bundle under way in the execute stream, as accesses are numbered. -/
def Group.bundleX (g : Group) : Nat := g.bundles + 1 - g.hist.length

/-- A load of the ring range from an earlier bundle has not performed: one that has holds its data already (R181). -/
def State.ringLoads (s : State) : Bool :=
  let g := s.me
  (s.cluster s.myCluster).outbound.any (fun a => a.gid == g.gid && a.kind.isLoad && a.bundle < g.bundleX
    && a.pieces.any (fun p => match p.place with
        | .ring _ => true
        | _ => false))

def execMradv (y : Syl) (s : State) : Out :=
  mform (.mradv y) y (fun s =>
    match s.myMat.ringOf s.me.gid with
    | none => raise ILLOP s
    | some r =>
      if !r.swc || r.filled = 0 then raise ILLOP s
      else if s.ringLoads then stallWith (.freeze 2) s
      else s.modMat s.here.core (fun m => m.putRing r.consume)) s

/-- EPCFG: DYN is resolved now (R182). -/
def execEpcfg (y : Syl) (s : State) : Out :=
  mform (.epcfg y) y (fun s =>
    let (a, b, s) := readX2 y.srca y.srcb s
    let rnd := if y.rnd = 5 then s.me.rmode else BitVec.ofNat 3 y.rnd
    s.enqueueM (.epcfg
      { scaleAddr := field a.toNat 22 0, pitch := field b.toNat 15 0, out := BitVec.ofNat 4 y.ty, round := rnd
        sat := y.imm.getLsbD 16, act := BitVec.ofNat 2 (y.im 15 14), sb := y.imm.getLsbD 13, shd := y.imm.getLsbD 12
        oswz := BitVec.ofNat 4 (y.im 11 8) })) s

def execEprun (y : Syl) (s : State) : Out :=
  mform (.eprun y) y (fun pre =>
    let (a, s) := readX y.srca pre
    if (s.myMat.ringOf s.me.gid).any (·.swc) then raise ILLOP pre
    else s.enqueueM (.eprun a (y.imm.getLsbD 5) (y.im 4 0))) s

/-- The pending fault as MCHKR shows it (R185). -/
def MFault.code (f : MFault) : Nat := f.cause.toNat + f.rout % 64 * 2 ^ 8 + f.word % 4096 * 2 ^ 14 + bool1 f.epi * 2 ^ 26

def execMchkr (y : Syl) (s : State) : Out :=
  syllable (.mchkr y) y (fun s =>
    let m := s.myMat
    let c := s.here.core
    let clr := y.imm.getLsbD 7
    let out := fun (n : Nat) (s : State) => finishS 3 y.dst (BitVec.ofNat 64 n) s
    match y.im 1 0 with
    | 0 => out (match m.ringOf s.me.gid with
        | some r => match r.tiles[y.im 6 2]? with
          | some t => (m.tile t).status.toNat
          | none => 0
        | none => 0) s
    | 1 => out m.na.toNat (if clr then s.modMat c (fun m => { m with na := 0 }) else s)
    | 2 => out m.failed.toNat (if clr then s.modMat c (fun m => { m with failed := 0 }) else s)
    | _ => out (s.me.fault.elim 0 MFault.code) s) s

/-- MUPLD (R187): S mode and the device-wide routines' permission, then what it has in common with the other M syllables, the
count, the alignment (R78). -/
def execMupld (y : Syl) (s : State) : Out :=
  syllable (.mupld y) y (privileged (fun s =>
    let r := y.im 5 0
    let off := y.im 16 6
    if r < 32 ∧ !(s.ctx s.me.ctx).devr then raise PRIV s
    else s |> faultFirst (fun s =>
      let (a, n, t) := readX2 y.srca y.srcb s
      if n = 0 ∨ 2048 < off + n.toNat then raise ILLOP s
      else if a.toNat % 4 ≠ 0 then raise ALIGN s
      else t.enqueueM (.mupld r a n.toNat off)))) s

def execMflush (y : Syl) (s : State) : Out :=
  mform (.mflush y) y (fun s => s.enqueueM (.mflush (y.imm.getLsbD 6) (y.im 5 1))) s

/-- MFLUSH.DROP (R190). -/
def execMflushDrop (y : Syl) (s : State) : Out :=
  syllable (.mflushDrop y) y (fun s =>
    let g := s.me
    let s := (s.upd (fun g => { g with fault := none })).modMat s.here.core (fun m =>
      let ring := (m.ringOf g.gid).map (fun r => { r with tail := r.head, filled := 0 })
      let m := { m with
        queue := m.queue.filter (fun c => c.gid != g.gid)
        run := m.run.filter (fun r => r.cmd.gid != g.gid)
        epRun := m.epRun.filter (fun r => r.1.gid != g.gid) }
      match ring with
      | some r => m.putRing r
      | none => m)
    if y.imm.getLsbD 6 then s.engineArrive s.myCluster g.ctx (y.im 5 1) 0 false else s) s

end Sys2Proof.Machine
end

