-- ==== Sys2Proof/Machine/Rotation.lean ====
section
/-!
DEFINITION. The eclipse rotation of a die (R420): rounds of 37 slots of 620 µs, and the out-of-turn scans.
-/
namespace Sys2Proof.Machine

/-- The slot under way at a device time, counted from the first of all; 37 make a round. -/
def eclipseSlot (d now : Nat) : Nat := (now + Config.eclipsePhase d) / 620000

/-- The core of slot `n` of a round, with the out-of-turn scan of that round if there is one; none for an idle spare. -/
def coreOfSlot (d n : Nat) (shift : Option (Nat × Nat)) : Option Nat :=
  match shift with
  | none => if n < 36 then some (36 * d + n) else none
  | some (p, k) => if n < p then some (36 * d + n) else if n = p then some k else some (36 * d + n - 1)

/-- The out-of-turn scan of a die's round: slot and core. -/
def Board.shiftOf (b : Board) (d r : Nat) : Option (Nat × Nat) :=
  ((Tab.get [] b.shifts d).find? (fun x => x.1 == r)).map (fun x => x.2)

/-- The core of a slot counted from the first of all. -/
def Board.slotCore (b : Board) (d n : Nat) : Option Nat := coreOfSlot d (n % 37) (b.shiftOf d (n / 37))

/-- The core takes part in the rotation. -/
def State.rotates (s : State) (c : Nat) : Bool := c < 288 && s.enabled (c / 4) && !s.dieGated (c / 4)

/-- The core has passed its scan in slot `n`. -/
def State.passedIn (s : State) (c n : Nat) : Bool := (s.core c).epoch != 0 && eclipseSlot (c / 36) (s.core c).epoch == n

/-- The slot under way is the core's, and its scan is still to pass. -/
def State.inSlot (s : State) (c : Nat) : Bool :=
  let n := eclipseSlot (c / 36) s.time
  s.board.slotCore (c / 36) n == some c && !s.passedIn c n

/-- From the start of the third slot before the core's own until it has passed, no step is dealt to it. -/
def State.nearSlot (s : State) (c : Nat) : Bool :=
  let n := eclipseSlot (c / 36) s.time
  s.rotates c && (s.inSlot c || ([1, 2, 3] : List Nat).any (fun j => s.board.slotCore (c / 36) (n + j) == some c))

/-- The first round from `r` on that has no out-of-turn scan. -/
def Board.freeRound (b : Board) (d : Nat) : Nat → Nat → Nat
  | 0, r => r
  | fuel + 1, r => if (b.shiftOf d r).isSome then b.freeRound d fuel (r + 1) else r

/-- An out-of-turn scan of a core: the next slot of its die, or the first slot of a later round. -/
def State.askScan (s : State) (c : Nat) : State :=
  let d := c / 36
  let n := eclipseSlot d s.time + 1
  let b := s.board
  let x := if (b.shiftOf d (n / 37)).isNone then (n / 37, n % 37, c)
    else (b.freeRound d ((Tab.get [] b.shifts d).length + 1) (n / 37 + 1), 0, c)
  { s with board := { b with shifts := Tab.modify [] b.shifts d (fun l => l.filter (fun y => n / 37 ≤ y.1 + 1) ++ [x]) } }

end Sys2Proof.Machine
end

