-- ==== Sys2Proof/Machine/Array.lean ====
section
/-!
DEFINITION. The two engines of the matrix unit at work: micro-ops (R173, R176, R177, R180, R184, R188, R189), queued commands
(R166, R170–R172, R187, R190), the epilogue (R182, R183), and the power of the bands (R171).
-/
namespace Sys2Proof.Machine

/-! ## Bands (R171) -/

def Cluster.band (k : Cluster) (b : Nat) : Band := Tab.get {} k.bands b

/-- Every band of the mask is powered. -/
def State.bandsOn (s : State) (cl : Nat) (mask : BitVec 4) : Bool :=
  (upTo 4).all (fun b => !mask.getLsbD b || !((s.cluster cl).band b).gated)

/-- The bands of the mask work now. -/
def State.useBands (s : State) (cl : Nat) (mask : BitVec 4) : State :=
  s.modCluster cl (fun k => { k with bands := (upTo 4).foldl (fun t b =>
    if mask.getLsbD b then Tab.modify {} t b (fun x => { x with lastUse := s.time }) else t) k.bands })

/-- A command that needs gated bands asks for their power. -/
def State.askBands (s : State) (cl : Nat) (mask : BitVec 4) : State :=
  s.modCluster cl (fun k => { k with bands := (upTo 4).foldl (fun t b =>
    if mask.getLsbD b && (Tab.get {} t b).gated then Tab.modify {} t b (fun x => { x with powering := true }) else t) k.bands })

/-- Band b of all four arrays has done no work for 2 µs. -/
def execBandGate (cluster band : Nat) (s : State) : Out :=
  let x := (s.cluster cluster).band band
  .next (if cluster < 72 && band < 4 && !x.gated && x.lastUse + 2000 ≤ s.time then
    s.modCluster cluster (fun k => { k with bands := Tab.modify {} k.bands band (fun x => { x with gated := true }) }) else s)

def execBandPowerUp (cluster band : Nat) (s : State) : Out :=
  let x := (s.cluster cluster).band band
  .next (if x.gated && x.powering then
    s.modCluster cluster (fun k => { k with bands := Tab.modify {} k.bands band (fun x =>
      { x with gated := false, powering := false, lastUse := s.time }) }) else s)

/-! ## The routine under way (R189) -/

/-- The core whose micro-op is under way, and its routine. -/
def State.running (s : State) : Option Run := (s.core s.here.core).mat.run

/-- A micro-op of the running routine; with none running it has nothing to act on. -/
def micro (i : Instr) (act : Run → State → State) (s : State) : Out :=
  match s.running with
  | none => .next s
  | some r =>
    if !i.wf then .next (s.engineFault s.here.core r.cmd { cause := ILLOP, rout := r.rout, word := r.pc }) else .next (act r s)

def State.setRun (s : State) (f : Run → Run) : State := s.modMat s.here.core (fun m => { m with run := m.run.map f })

/-- The micro-op has finished. -/
def State.nextMicro (s : State) : State := s.setRun (fun r => { r with pc := r.pc + 1 })

/-- An engine fault of the running routine (R168). -/
def State.runFault (s : State) (r : Run) (cause : BitVec 8) : State :=
  s.engineFault s.here.core r.cmd { cause := cause, rout := r.rout, word := r.pc }

/-- The group's ring; ILLOP without one (R168). -/
def withRing (r : Run) (act : Ring → State → State) (s : State) : State :=
  match s.myMat.ringOf r.cmd.gid with
  | some x => act x s
  | none => s.runFault r ILLOP

def State.setRingOf (s : State) (x : Ring) : State := s.modMat s.here.core (fun m => m.putRing x)

/-! ## Streams (R173, R176, R177) -/

/-- One row of a stream: masked, the pad element, or a row at an operand-store address. -/
inductive Row where
  | masked
  | pad (x : Nat)
  | at (a : Nat)
  deriving DecidableEq, Repr

/-- Rows streamed in ascending order into rows `row0`, … of the head tile, until one faults. -/
def streamRows (r : Run) (f z : Nat) (t : Nat) (row : Nat) : List Row → State → Option (BitVec 8) × State
  | [], s => (none, s)
  | x :: rest, s =>
    let c := s.here.core
    let m := s.myMat
    let n := m.active.keff * mSize f
    let add := fun (a : List Nat) (s : State) =>
      s.modMat c (fun m => m.setTile t ((m.tile t).accumulate m.active f m.chk row a))
    match x with
    | .masked =>
      streamRows r f z t (row + 1) rest (s.modMat c (fun m =>
        m.setTile t { (m.tile t).enter f m.chk with masked := (m.tile t).masked ||| BitVec.twoPow 32 row }))
    | .pad v => streamRows r f z t (row + 1) rest (add (List.replicate m.active.keff v) s)
    | .at a =>
      match s.tagCheck (c / 4) a n f z with
      | some cause => (some cause, s)
      | none =>
        let xs := (upTo m.active.keff).map (fun k => s.osElem (c / 4) z (mSize f) (a + k * mSize f))
        streamRows r f z t (row + 1) rest ((add xs s).osNoteRange (c / 4) r.cmd.gid a n)

/-- What every stream checks of the planes and the head tile, then its rows (R168, R172–R174). -/
def stream (r : Run) (f z row0 : Nat) (rows : List Row) (s : State) : State :=
  withRing r (fun x s =>
    let m := s.myMat
    let t := x.phys x.head
    let cl := s.here.core / 4
    let acc := BitVec.ofNat 4 (mAcc f)
    if 32 < row0 + rows.length ∨ !m.active.valid ∨ !mAgree f m.active.fmt.toNat ∨ (m.tile t).acc.any (· != acc) then s.runFault r ILLOP
    else if !s.bandsOn cl m.ashape then s.askBands cl m.ashape
    else if !rows.all (fun x => match x with
        | .at a => s.osReady cl a (m.active.keff * mSize f)
        | _ => true) then s
    else match streamRows r f z t row0 rows (s.useBands cl m.ashape) with
      | (some cause, s) => s.runFault r cause
      | (none, s) => s.nextMicro) s

/-- STRM (R173). -/
def execStrm (a : BitVec 3) (r w : BitVec 5) (f s' : BitVec 4) (p : BitVec 7) (s : State) : Out :=
  micro (.strm a r w f s' p) (fun run s =>
    let base := field (Tab.get 0 run.wp a.toNat).toNat 22 0
    let f := f.toNat
    let pitch := if p = 0 then kEff s.myMat.ashape f * mSize f else p.toNat * 16
    if base % 16 ≠ 0 ∨ pitch % 16 ≠ 0 then s.runFault run ALIGN
    else stream run f s'.toNat w.toNat ((upTo (r.toNat + 1)).map (fun i => .at (base + i * pitch))) s) s

/-- The descriptor of STRC (R176). -/
structure Conv where
  fmt : Nat
  cpix : Nat
  w : Nat
  h : Nat
  base : Nat
  dm : Nat
  sm : Nat
  ho : Nat
  wo : Nat
  p : Nat
  padv : Nat
  padl : Nat
  padt : Nat
  nimg : Nat
  deriving DecidableEq, Repr

def Conv.ofWords (a b c : Word) : Conv :=
  let x := a.toNat
  let y := b.toNat
  let z := c.toNat
  { fmt := field x 62 59, cpix := field x 58 47, w := field x 46 35, h := field x 34 23, base := field x 22 0
    dm := field y 61 59 + 1, sm := field y 58 56 + 1, ho := field y 55 44, wo := field y 43 32, p := field y 31 0
    padv := field z 63 32, padl := field z 31 24, padt := field z 23 16, nimg := field z 15 0 }

def Conv.ok (d : Conv) : Bool :=
  mFmt d.fmt && d.cpix != 0 && d.w != 0 && d.h != 0 && d.ho != 0 && d.wo != 0 && d.nimg != 0

/-- The pad element: for f64 an f32 value widened exactly. -/
def Conv.pad (d : Conv) : Nat := if d.fmt = 11 then f64.conv .rne false true (f32.dec d.padv) else d.padv % 2 ^ (8 * mSize d.fmt)

/-- Row `i` of the walk (R177). -/
def Conv.row (d : Conv) (dy dx i : Nat) : Row :=
  let q := d.p + i
  let n := q / (d.ho * d.wo)
  let o := q % (d.ho * d.wo)
  if d.nimg ≤ n then .masked
  else
    let iy : Int := ((o / d.wo * d.sm + dy * d.dm : Nat) : Int) - d.padt
    let ix : Int := ((o % d.wo * d.sm + dx * d.dm : Nat) : Int) - d.padl
    if iy < 0 ∨ (d.h : Int) - 1 < iy ∨ ix < 0 ∨ (d.w : Int) - 1 < ix then .pad d.pad
    else .at (d.base + ((n * d.h + iy.toNat) * d.w + ix.toNat) * d.cpix * mSize d.fmt)

/-- STRC (R176, R177). A misaligned pixel of any row raises ALIGN before the first row accumulates and before the stream's own
checks: the rule gives no order (log 131). -/
def execStrc (d : BitVec 3) (r w : BitVec 5) (y x s' : BitVec 4) (s : State) : Out :=
  micro (.strc d r w y x s') (fun run s =>
    let wp := fun i => Tab.get 0 run.wp (d.toNat + i)
    let c := Conv.ofWords (wp 0) (wp 1) (wp 2)
    if !c.ok then s.runFault run ILLOP
    else
      let rows := (upTo (r.toNat + 1)).map (c.row y.toNat x.toNat)
      if rows.any (fun x => match x with
          | .at a => a % 16 != 0
          | _ => false) then s.runFault run ALIGN
      else stream run c.fmt s'.toNat w.toNat rows s) s

/-! ## Planes and the ring -/

/-- The load of the shadow plane, or its fault (R172). -/
def State.loadPlane (s : State) (gid base f z : Nat) : Option (BitVec 8) × State :=
  let c := s.here.core
  let m := s.myMat
  let n := kEff m.ashape f * 128
  if base % 4096 ≠ 0 then (some ALIGN, s)
  else match s.tagCheck (c / 4) base n f z with
    | some e => (some e, s)
    | none =>
      let p := s.readPlane (c / 4) base f z m.ashape
      (none, ((s.useBands (c / 4) m.ashape).modMat c (fun m => { m with shadow := p })).osNoteRange (c / 4) gid base n)

def execLst (b : BitVec 3) (f s' : BitVec 4) (s : State) : Out :=
  micro (.lst b f s') (fun run s =>
    let base := field (Tab.get 0 run.wp b.toNat).toNat 22 0
    let cl := s.here.core / 4
    if !s.bandsOn cl s.myMat.ashape then s.askBands cl s.myMat.ashape
    else if !s.osReady cl base (kEff s.myMat.ashape f.toNat * 128) then s
    else match s.loadPlane run.cmd.gid base f.toNat s'.toNat with
      | (some e, s) => s.runFault run e
      | (none, s) => s.nextMicro) s

def Matrix.swap (m : Matrix) : Matrix := { m with active := m.shadow, shadow := m.active }

def execSwp (s : State) : Out := micro .swp (fun _ s => (s.modMat s.here.core Matrix.swap).nextMicro) s

/-- ADV (R180, R184): it waits for room, then judges the head tile. A FAILED tile asks for an early scan (R420). -/
def execAdv (s : State) : Out :=
  micro .adv (fun run s => withRing run (fun x s =>
    if x.filled + 1 ≥ x.tiles.length then s
    else
      let t := x.phys x.head
      let st := (s.myMat.tile t).judge
      let s := s.modMat s.here.core (fun m =>
        { m.setTile t { m.tile t with status := st } with
          na := if st = 2 ∧ m.na ≠ BitVec.allOnes 32 then m.na + 1 else m.na
          failed := if st = 3 ∧ m.failed ≠ BitVec.allOnes 32 then m.failed + 1 else m.failed })
      let s := if st = 3 then (s.countLife lifeCore s.here.core cFailedTiles).askScan s.here.core else s
      (s.setRingOf { x with head := (x.head + 1) % max 1 x.tiles.length, filled := x.filled + 1 }).nextMicro) s) s

def execZero (s : State) : Out :=
  micro .zero (fun run s => withRing run (fun x s =>
    (s.modMat s.here.core (fun m => m.setTile (x.phys x.head) { status := (m.tile (x.phys x.head)).status })).nextMicro) s) s

/-! ## Control micro-ops (R189) -/

/-- The phase of a barrier has completed: at the first look, or at any time in a wait that began with `since` phases
completed (R243). -/
def State.phaseDone (s : State) (cl ctx b : Nat) (ph : Bool) (since : Option Nat) : Bool :=
  let x := s.bar cl ctx b
  x.phase != ph || since.any (fun n => x.phases != n)

def execWaitb (b : BitVec 5) (p : BitVec 1) (s : State) : Out :=
  micro (.waitb b p) (fun run s =>
    let cl := s.here.core / 4
    if s.phaseDone cl run.cmd.ctx b.toNat (p == 1) run.waitFrom then (s.setRun (fun r => { r with waitFrom := none })).nextMicro
    else s.setRun (fun r => { r with waitFrom := r.waitFrom.or (some (s.bar cl run.cmd.ctx b.toNat).phases) })) s

def execArrb (b : BitVec 5) (c : BitVec 23) (s : State) : Out :=
  micro (.arrb b c) (fun run s => (s.arrive (s.here.core / 4) run.cmd.ctx b.toNat c.toNat false).nextMicro) s

/-- LP with its count: the word after it and the count are remembered. -/
def Run.push (n : Nat) (r : Run) : Run := { r with loops := (r.pc + 1, n) :: r.loops, pc := r.pc + 1 }

def execLp (c : BitVec 16) (s : State) : Out := micro (.lp c) (fun _ s => s.setRun (Run.push c.toNat)) s

def execLpReg (w : BitVec 3) (s : State) : Out :=
  micro (.lpReg w) (fun run s => s.setRun (Run.push ((Tab.get 0 run.wp w.toNat).toNat % 65536))) s

def Run.endLoop (r : Run) : Run :=
  match r.loops with
  | (w, n) :: t => if 1 < n then { r with pc := w, loops := (w, n - 1) :: t } else { r with pc := r.pc + 1, loops := t }
  | [] => { r with pc := r.pc + 1 }

def execEl (s : State) : Out := micro .el (fun _ s => s.setRun Run.endLoop) s

def execAinc (w : BitVec 3) (h : BitVec 5) (i : BitVec 20) (s : State) : Out :=
  micro (.ainc w h i) (fun _ s => (s.setRun (fun r =>
    { r with wp := Tab.set 0 r.wp w.toNat (Tab.get 0 r.wp w.toNat + (i.signExtend 64 <<< h.toNat)) })).nextMicro) s

def execChk (e : BitVec 1) (s : State) : Out :=
  micro (.chk e) (fun _ s => (s.modMat s.here.core (fun m => { m with chk := e == 1 })).nextMicro) s

def execNopm (s : State) : Out := micro .nopm (fun _ s => s.nextMicro) s

/-- RETM ends the routine: the MCALL completes. -/
def execRetm (s : State) : Out :=
  micro .retm (fun run s => (s.modMat s.here.core (fun m => { m with run := none })).cmdDone s.here.core run.cmd) s

/-- The array engine of a core executes the next micro-op of its routine. -/
def microTurn (run : Instr → State → Out) (c : Nat) (s : State) : Out :=
  let s := { s with here := { core := c, access := false } }
  match s.running with
  | none => .next s
  | some r =>
    match decodeMicro (Tab.get 0 (s.cluster (c / 4)).words r.pc) with
    | .ok i => run i s
    | .error _ => .next (s.runFault r ILLOP)

/-! ## The array engine's commands (R166) -/

def MKind.isEpi : MKind → Bool
  | .epcfg _ => true
  | .eprun .. => true
  | _ => false

def Matrix.nextArray (m : Matrix) : Option MCmd := m.queue.find? (fun c => !c.kind.isEpi)
def Matrix.nextEpi (m : Matrix) : Option MCmd := m.queue.find? (fun c => c.kind.isEpi)

/-- The issuing group's earlier stores to operand store have performed (R167). -/
def State.osStored (s : State) (cl : Nat) (cmd : MCmd) : Bool :=
  (s.cluster cl).outbound.all (fun a => !(a.gid == cmd.gid && a.id < cmd.seq && !a.kind.isLoad && a.pieces.any (·.place.isLocal)))

/-- The first word and the length that a MUPLD loads to (R186, R187). -/
def uploadAt (rout off : Nat) : Nat := (if rout < 32 then 0 else 2048) + off

def overlaps (a n b m : Nat) : Bool := a < b + m && b < a + n

/-- Routine `r` is, or overlaps, what MUPLD of `rout` at `off` with `n` words loads. -/
def Cluster.touches (k : Cluster) (r rout off n : Nat) : Bool :=
  let e := Tab.get {} k.routines r
  r == rout || overlaps e.start e.len (uploadAt rout off) n

/-- Commands of the other kind that this one must follow: an MCALL after earlier MUPLDs of its routine, a MUPLD after
earlier MCALLs of what it loads (R187). -/
def State.uploadOrder (s : State) (cl : Nat) (cmd : MCmd) : Bool :=
  let k := s.cluster cl
  (upTo 4).all (fun i => ((s.core (4 * cl + i)).mat.queue).all (fun c =>
    !(c.seq < cmd.seq) || (match cmd.kind, c.kind with
      | .mcall r _ _ _ _, .mupld rout _ n off => !k.touches r rout off n
      | .mupld rout _ n off, .mcall r _ _ _ _ => !k.touches r rout off n
      | _, _ => true)))

/-- What came back with a group that was parked beside one that stayed. -/
def Matrix.resumeOf (m : Matrix) (gid : Nat) : Option Resume := m.resumes.find? (fun e => e.gid == gid)

/-- Its copy of planes, mask and configuration is loaded, once (R191). -/
def Matrix.loadResume (m : Matrix) (e : Resume) : Matrix :=
  if e.loaded then m
  else
    { m with
      active := e.active, shadow := e.shadow, ashape := e.ashape, ep := e.ep, epRows := e.epRows, chk := e.chk
      resumes := m.resumes.map (fun x => if x.gid = e.gid then { x with loaded := true } else x) }

/-- Before the array engine begins a command of a group that has come back: the copy, and the boundary if this command
was the one that the park stopped (R191). -/
def Matrix.resumeArray (m : Matrix) (cmd : MCmd) : Matrix :=
  match m.resumeOf cmd.gid with
  | none => m
  | some e => { m.loadResume e with run := e.run.filter (fun r => r.cmd.seq == cmd.seq) }

/-- The same for the epilogue engine. -/
def Matrix.resumeEpi (m : Matrix) (cmd : MCmd) : Matrix :=
  match m.resumeOf cmd.gid with
  | none => m
  | some e => { m.loadResume e with epRun := e.epRun.filter (fun r => r.1.seq == cmd.seq) }

/-- The array engine takes its next queued command and, but for MCALL, carries it out. -/
def State.startArray (s : State) (c : Nat) : State :=
  let s := match (s.core c).mat.run, (s.core c).mat.nextArray with
    | none, some cmd => s.modMat c (fun m => m.resumeArray cmd)
    | _, _ => s
  let m := (s.core c).mat
  let cl := c / 4
  match m.run, m.nextArray with
  | none, some cmd =>
    if !s.osStored cl cmd then s
    else match cmd.kind with
      | .mcall r b ph w mp =>
        let e := Tab.get ({} : Routine) (s.cluster cl).routines r
        if w && !s.phaseDone cl cmd.ctx b ph cmd.waitFrom then
          s.modMat c (fun m => { m with queue := m.queue.map (fun x =>
            if x.seq = cmd.seq then { x with waitFrom := x.waitFrom.or (some (s.bar cl cmd.ctx b).phases) } else x) })
        else if !s.uploadOrder cl cmd then s
        else if e.state ≠ 1 then s.engineFault c cmd { cause := ILLOP, rout := r }
        else s.modMat c (fun m => { m with run := some { cmd := cmd, rout := r, pc := e.start, wp := mp } })
      | .mlds a f z =>
        let base := field a.toNat 22 0
        if !s.bandsOn cl m.ashape then s.askBands cl m.ashape
        else if !s.osReady cl base (kEff m.ashape f.toNat * 128) then s
        else match s.loadPlane cmd.gid base f.toNat z.toNat with
          | (some e, s) => s.cmdFault c cmd e false
          | (none, s) => s.cmdDone c cmd
      | .mswp => (s.modMat c Matrix.swap).cmdDone c cmd
      | .mshape mask =>
        (s.modMat c (fun m =>
          { m with ashape := mask, active := { m.active with valid := false }, shadow := { m.shadow with valid := false } })).cmdDone c cmd
      | .mflush arr b =>
        if m.queue.any (fun x => x.gid == cmd.gid && x.seq < cmd.seq) then s
        else
          let s := s.cmdDone c cmd
          if arr then s.engineArrive cl cmd.ctx b 0 false else s
      | _ => s
  | _, _ => s

def execArrayCommandStart (core : Nat) (s : State) : Out :=
  .next (({ s with here := { core := core, access := false } } : State).startArray core)

/-! ## MUPLD (R186–R188) -/

/-- Words of a routine are acceptable: each a legal micro-op, LPs and ELs paired to depth 4, RETM last (R187). -/
def routineOk : List (BitVec 32) → Nat → Bool
  | [], _ => false
  | w :: rest, depth =>
    match decodeMicro w with
    | .error _ => false
    | .ok i =>
      i.wf && (match i, rest with
        | .retm, [] => depth == 0
        | _, [] => false
        | .lp _, _ => depth < 4 && routineOk rest (depth + 1)
        | .lpReg _, _ => depth < 4 && routineOk rest (depth + 1)
        | .el, _ => 0 < depth && routineOk rest (depth - 1)
        | _, _ => routineOk rest depth)

def putWords (t : Tab (BitVec 32)) (a : Nat) : List (BitVec 32) → Tab (BitVec 32)
  | [] => t
  | w :: ws => putWords (Tab.set 0 t a w) (a + 1) ws

/-- The words of an upload as operand store holds them. -/
def State.uploadWords (s : State) (cl src n : Nat) : List (BitVec 32) :=
  (upTo n).map (fun i => BitVec.ofNat 32 (leNat (s.osBytes cl (src + 4 * i) 4)))

/-- The upload: words copied, the routine VALID or INVALID, every other routine that it overlaps INVALID. -/
def Cluster.upload (k : Cluster) (rout off : Nat) (ws : List (BitVec 32)) : Cluster :=
  let at' := uploadAt rout off
  let hit := fun (e : Nat × Routine) => e.1 != rout && overlaps e.2.start e.2.len at' ws.length
  { k with
    words := putWords k.words at' ws
    routines := Tab.set {} (k.routines.map (fun e => if hit e then (e.1, { e.2 with state := 2 }) else e)) rout
      { start := at', len := ws.length, state := if routineOk ws 0 then 1 else 2 } }

def State.runUpload (s : State) (c : Nat) : State :=
  let m := (s.core c).mat
  let cl := c / 4
  match m.run, m.nextArray with
  | none, some cmd =>
    match cmd.kind with
    | .mupld rout src n off =>
      if !s.osStored cl cmd || !s.uploadOrder cl cmd || !s.osReady cl src.toNat (4 * n) then s
      else if !osFits src.toNat (4 * n) then s.engineFault c cmd { cause := WINFAULT, rout := rout }
      else
        let ws := s.uploadWords cl src.toNat n
        let s := (s.modCluster cl (fun k => k.upload rout off ws)).osNoteRange cl cmd.gid src.toNat (4 * n)
        if routineOk ws 0 then s.cmdDone c cmd else s.engineFault c cmd { cause := ILLOP, rout := rout }
    | _ => s
  | _, _ => s

def execMupldExec (core : Nat) (s : State) : Out := .next (s.runUpload core)

/-! ## The epilogue engine (R182, R183) -/

/-- The accumulator as an exact value. -/
def accFp (acc x : Nat) : Fp := if acc = 2 then .fin (decide (signed 32 x < 0)) (signed 32 x).natAbs 0 else mFp acc x

/-- Element j of a row converted (R183): `sc` and `bi` are the column's scale and bias. -/
def epElement (g : EpCfg) (acc : Nat) (md : Mode) (x : Nat) (sc bi : Nat) : Nat :=
  let w := if acc = 11 then f64 else f32
  let out := (Ty.ofCode g.out.toNat).getD (.int 32)
  if g.sb || g.act ≠ 0 then
    let v :=
      if g.sb then w.sum .rne false [accFp acc x, w.dec sc, w.dec bi] [(accFp acc x).mul (w.dec sc), w.dec bi]
      else w.conv .rne false false (accFp acc x)
    let v := if g.act = 1 then laneMin (.float w) true v 0
      else if g.act = 2 then w.tanh .rne false (w.dec v)
      else if g.act = 3 then w.exp2 .rne false (w.dec v)
      else v
    convert out (.float w) md g.sat v
  else convert out ((Ty.ofCode acc).getD (.int 32)) md g.sat x

/-- The rounding of element j in row n (R121, R182). -/
def epMode (g : EpCfg) (rkey : Word) (n j : Nat) : Mode :=
  match g.round.toNat with
  | 1 => .rtz
  | 2 => .rup
  | 3 => .rdn
  | 4 => .sr (draw16 (mix64 (rkey + BitVec.ofNat 64 n)) j) 16
  | _ => .rne

/-- The elements of row `r` of a tile. -/
def State.epRow (s : State) (cl : Nat) (g : EpCfg) (rkey : Word) (t : Tile) (acc r n : Nat) : List Nat :=
  let z := accBytes acc
  (upTo t.cols).map (fun j =>
    let num := fun a => leNat (s.osBytes cl a z)
    epElement g acc (epMode g rkey n j) (t.at acc r j) (num (g.scaleAddr + z * j)) (num (g.scaleAddr + z * (t.cols + j))))

/-- Bytes of an OUT element. -/
def EpCfg.size (g : EpCfg) : Nat := ((Ty.ofCode g.out.toNat).map Ty.width).getD 8 / 8

/-- A row's elements into operand store through OSWZ, then the tags of its slots. -/
def State.epStore (s : State) (cl : Nat) (g : EpCfg) (a : Nat) (xs : List Nat) : State :=
  let z := g.size
  let s := (xs.zip (upTo xs.length)).foldl (fun s x =>
    s.osStore cl (swzAddr g.oswz.toNat (a + z * x.2)) ((leBytes z x.1).map some)) s
  (slotsOf a (z * xs.length)).foldl (fun s x => s.setTag cl x { fmt := g.out, swz := g.oswz, valid := true }) s

/-- A row's elements into the open shadows; the second answer is false when one fell outside (R263). -/
def State.epShadow (s : State) (cmd : MCmd) (core : Nat) (g : EpCfg) (a : Nat) (xs : List Nat) : State × Bool :=
  let z := g.size
  (xs.zip (upTo xs.length)).foldl (fun acc x =>
    let va := a + z * x.2
    match (acc.1.ctx cmd.ctx).shadowFor va z cmd.seq with
    | .inside h => (acc.1.shadowPut cmd.ctx h va (leBytes z x.1) (some core), acc.2)
    | .dropped => acc
    | .outside => (acc.1, false)) (s, true)

/-- What stands between the elements of a row that lie in an open shadow and the buffer behind them: its windows and its pages
(R168, R395). -/
def State.epReach (s : State) (cmd : MCmd) (g : EpCfg) (a n : Nat) : Option Reach :=
  ((upTo n).filterMap (fun j =>
    let va := a + g.size * j
    match (s.ctx cmd.ctx).shadowFor va g.size cmd.seq, s.reach cmd.ctx cmd.smode Need.write va with
    | .inside _, .dev _ | .inside _, .host _ => none
    | .inside _, r => some r
    | _, _ => none)).head?

/-- A shadow that the row would write is still merging (R262). -/
def State.epMerging (s : State) (cmd : MCmd) (a n : Nat) : Bool :=
  (s.ctx cmd.ctx).shadows.any (fun h => h.merging && overlaps h.base h.len a n)

/-- The epilogue engine takes its next command: EPCFG at once, EPRUN when a filled tile is there. -/
def State.startEpi (s : State) (c : Nat) : State :=
  let s := match (s.core c).mat.epRun, (s.core c).mat.nextEpi with
    | none, some cmd => s.modMat c (fun m => m.resumeEpi cmd)
    | _, _ => s
  let m := (s.core c).mat
  match m.epRun, m.nextEpi with
  | none, some cmd =>
    if !s.osStored (c / 4) cmd then s
    else match cmd.kind with
      | .epcfg g => (s.modMat c (fun m => { m with ep := some g, epRows := 0 })).cmdDone c cmd
      | .eprun _ _ _ =>
        match m.ringOf cmd.gid, m.ep with
        | some r, some g =>
          if g.pitch % 16 ≠ 0 ∨ (g.sb = true ∧ g.scaleAddr % 16 ≠ 0) then s.cmdFault c cmd ALIGN true
          else if r.filled = 0 then s
          else s.modMat c (fun m => { m with epRun := some (cmd, 0, 0) })
        | _, _ => s.cmdFault c cmd ILLOP true
      | _ => s
  | _, _ => s

def execEpilogueCommandStart (core : Nat) (s : State) : Out := .next (s.startEpi core)

/-- The tile is done: it is consumed, and the EPRUN arrives (R183). -/
def State.epFinish (s : State) (c : Nat) (cmd : MCmd) (bytes : Nat) : State :=
  let s := (s.modMat c (fun m =>
    { (match m.ringOf cmd.gid with
        | some r => m.putRing r.consume
        | none => m) with epRun := none })).cmdDone c cmd
  match cmd.kind with
  | .eprun _ true b => s.engineArrive (c / 4) cmd.ctx b bytes false
  | _ => s

/-- Row `r` of the tile under way has been handled; `n` bytes of it were written. -/
def State.epNext (s : State) (c : Nat) (cmd : MCmd) (r bytes : Nat) : State :=
  let s := s.modMat c (fun m => { m with epRows := m.epRows + 1, epRun := some (cmd, r + 1, bytes) })
  if r + 1 < 32 then s else s.epFinish c cmd bytes

/-- The epilogue engine handles the next row of its tile. -/
def State.epilogueRow (s : State) (c : Nat) : State :=
  let m := (s.core c).mat
  let cl := c / 4
  match m.epRun, m.ep with
  | some (cmd, r, bytes), some g =>
    if cmd.token.isSome then s
    else match m.ringOf cmd.gid with
    | none => s.cmdFault c cmd ILLOP true
    | some ring =>
      let t := m.tile (ring.phys ring.tail)
      match t.acc, cmd.kind with
      | some acc, .eprun dst _ _ =>
        let acc := acc.toNat
        let n := g.size * t.cols
        let scale := 2 * accBytes acc * t.cols
        let a := dst.toNat + r * g.pitch
        if t.masked.getLsbD r then s.epNext c cmd r bytes
        else if g.sb && !osFits g.scaleAddr scale then s.cmdFault c cmd WINFAULT true
        else if g.sb && !s.osReady cl g.scaleAddr scale then s
        else
          let xs := s.epRow cl g (s.ctx cmd.ctx).rkey0 t acc r m.epRows
          if !g.shd then
            if !osFits a n then s.cmdFault c cmd WINFAULT true
            else if !s.osReady cl a n then s
            else (s.epStore cl g a xs).epNext c cmd r (bytes + n)
          else if s.epMerging cmd a n then s
          else match s.epReach cmd g a t.cols with
            | some (.wait h page) =>
              let (k, s) := s.pageFault h cmd.ctx page 5
              s.modMat c (fun m => { m with epRun := some ({ cmd with token := some (h, k) }, r, bytes) })
            | some (.fail cause) => s.cmdFault c cmd cause true
            | some _ => s
            | none => match s.epShadow cmd c g a xs with
              | (s, true) => s.epNext c cmd r (bytes + n)
              | (s, false) => s.cmdFault c cmd WINFAULT true
      | _, _ => s.epNext c cmd r bytes
  | _, _ => s

def execEpilogueRow (core : Nat) (s : State) : Out := .next (s.epilogueRow core)

end Sys2Proof.Machine
end

