-- ==== Sys2Proof/Machine/LoadStore.lean ====
section
/-!
DEFINITION. The L and S slots: addresses and elements (R202, R203, R211), the checks in their order (R205), the issue of
an access (R206, R223–R232), and the forms (R207–R216).
-/
namespace Sys2Proof.Machine

/-! ## What an access asks for -/

/-- One unit that performs at one instant: its address, its length, where it stands in the 256-byte entry, which of its
bytes are enabled, and whether it meets the form's alignment (R203–R205). -/
structure Want where
  addr : Word
  len : Nat
  off : Nat := 0
  en : Nat
  aligned : Bool
  deriving DecidableEq, Repr

/-- The kind of an access as the checks of R205 see it. -/
structure Ask where
  need : Need
  load : Bool := false
  store : Bool := false
  os : Bool := false
  /-- the form may read the ring window (R200) -/
  ring : Bool := false
  /-- it returns what memory holds, so poison traps it (R413) -/
  reads : Bool := false
  /-- a barrier arrival, which is dropped where there is no route (R432) -/
  arrival : Bool := false
  deriving DecidableEq, Repr

def allBytes (n : Nat) : Nat := 2 ^ n - 1

/-- The address of an L or S syllable (R202). -/
def State.address (s : State) (y : Syl) : Word := s.me.rdA y.srca.toNat + sext64 18 (y.im 17 0)

/-- A scalar access. -/
def oneWant (a : Word) (n : Nat) : List Want := [{ addr := a, len := n, en := allBytes n, aligned := a.toNat % n == 0 }]

/-- A 256-byte access: its 16-byte units that hold an enabled lane (R203, R204, R210). -/
def wholeWants (g : Group) (sel : BitVec 4) (a : Word) : List Want :=
  (upTo 16).filterMap (fun u =>
    let en := packNat 4 (fun i => if g.guardA sel (4 * u + i) then 15 else 0) 4
    if en = 0 then none
    else some { addr := a + BitVec.ofNat 64 (16 * u), len := 16, off := 16 * u, en := en, aligned := a.toNat % 16 == 0 })

/-- Separate elements of `w` bytes at the addresses given (R203, R211). -/
def elementWants (g : Group) (sel : BitVec 4) (w : Nat) (at' : Nat → Word) : List Want :=
  (upTo (256 / w)).filterMap (fun e =>
    if g.guardA sel (e * w / 4) then
      some { addr := at' e, len := w, off := e * w, en := allBytes w, aligned := (at' e).toNat % w == 0 }
    else none)

/-! ## The checks of R205 -/

/-- What the checks find. -/
inductive Verdict where
  | go (ps : List Place)
  | trap (cause : BitVec 8)
  | stall (t : Stall)
  deriving DecidableEq, Repr

/-- Where one unit lies, by address range and windows alone (check 2). -/
def State.wantPlace (s : State) (q : Ask) (w : Want) : Option Place :=
  let a := w.addr.toNat
  if q.os then
    if a + w.len ≤ 0x600000 then some (.os s.myCluster a)
    else if 0x600000 ≤ a ∧ a + w.len ≤ 0x640000 ∧ q.ring then some (.ring (a - 0x600000))
    else none
  else s.place s.me.ctx s.me.gstat.mode q.need a

/-- Every unit has a place. -/
def State.places (s : State) (q : Ask) : List Want → Option (List Place)
  | [] => some []
  | w :: ws => match s.wantPlace q w, s.places q ws with
    | some p, some ps => some (p :: ps)
    | _, _ => none

/-- A register-space access, of this device or another, is 8 aligned bytes (R386). -/
def badRegister (w : Want) (p : Place) : Bool :=
  match p with
  | .dev off | .far off => regionKind (off % 2 ^ 42) == 2 && !(w.len == 8 && w.addr.toNat % 8 == 0)
  | _ => false

/-- Check 4 of one place: none when its page is there. -/
def State.pageCheck (s : State) (q : Ask) (p : Place) : Option Verdict :=
  let found := fun (off : Nat) (x : Page) => match x with
    | .ok _ => none
    | .fault => some (Verdict.stall (.page (ownerOf off) s.me.ctx (pageOf off) (if q.need.w then 2 else 1)))
    | .bad => some (.trap PAGEFAIL)
    | .moving => some (.stall (.freeze 5))
  match p with
  | .far ia => if q.arrival && !s.inDomain ia then none else found ia (s.farPhys ia q.need.w)
  | .dev off =>
    if s.me.pageFail = some (pageOf off) then some (.trap PAGEFAIL)
    else found off (s.phys s.me.ctx off q.need.w)
  | _ => none

/-- The line behind a place whose page is there, another device's among them. -/
def State.lineOfPlace (s : State) (q : Ask) (p : Place) : Option Nat :=
  let line := fun (x : Page) => match x with
    | .ok x => if tagged x then some (x / 64) else none
    | _ => none
  match p with
  | .dev off => line (s.phys s.me.ctx off q.need.w)
  | .far ia => line (s.farPhys ia q.need.w)
  | _ => none

/-- An enabled byte of the unit lies in the channel's range at or above offset `from'` of it (R261). -/
def touchesChan (c : Chan) (os : Bool) (from' : Nat) (w : Want) : Bool :=
  c.len != 0 && c.os == os && (upTo w.len).any (fun i =>
    let a := w.addr.toNat + i
    w.en.testBit i && from' ≤ a && c.base ≤ a && a < c.base + c.len)

/-- The channels of the group. -/
def Group.chans (g : Group) : List Chan := (upTo 8).map (Tab.get {} g.ch)

/-- Check 5: watermark channels, slots not yet restored, poison (R201, R205, R261, R403, R413). -/
def State.dataCheck (s : State) (q : Ask) (ws : List Want) (ps : List Place) : Option Verdict :=
  let held := if q.load then s.me.chans.filter (fun c => ws.any (touchesChan c q.os c.mark)) else []
  let slots := ps.filterMap (fun p => match p with
    | .os _ a => some (a / 4096)
    | _ => none)
  if held.any (·.flt) then some (.trap POISON)
  else if !held.isEmpty then some (.stall (.freeze 4))
  else if slots.any (fun n => (s.cluster s.myCluster).unrestored.contains n) then some (.stall (.freeze 4))
  else if q.reads && slots.any (fun n => (s.tag s.myCluster n).poison) then some (.trap POISON)
  else if q.reads && ps.any (fun p => ((s.lineOfPlace q p).map (fun l => (s.lineMeta l).poison)).getD false) then
    some (.trap POISON)
  else none

/-- The unit of least address among those given. -/
def lowest : List (Word × Nat) → Option (Word × Nat)
  | [] => none
  | x :: t => match lowest t with
    | none => some x
    | some y => if y.1.toNat < x.1.toNat then some y else some x

/-- Check 6: the cells (R205, R319, R323, R326). A load whose wait the watchdog has found in a cycle traps (R327); every
SUSPENDED line that a load reaches is touched before the state of the lowest line that is not VALUE is judged. -/
def State.cellCheck (s : State) (q : Ask) (ws : List Want) (ps : List Place) : Option Verdict :=
  let cycle := fun (l : Nat) => ps.any (fun p => s.lineOfPlace q p == some l)
  let bad := (ws.zip ps).filterMap (fun x => match s.lineOfPlace q x.2 with
    | some l => if s.cellOf l != cVALUE && !(s.lineMeta l).poison then some (x.1.addr, l) else none
    | none => none)
  if q.load && s.me.depCycle.any cycle then some (.trap DEPCYCLE)
  else match lowest bad with
  | none => none
  | some (va, l) =>
    let first := ((bad.map (·.2)).filter (fun k => s.cellOf k == cSUSPENDED)).dedup
    let park := Verdict.stall (.cell first l (va.toNat / 64 * 64))
    if !q.load then some (.trap CELLWR)
    else if !first.isEmpty then some park
    else if s.cellOf l = cFAILED then some (.trap CELLFAIL)
    else if s.selfDep l (s.toucher none s.me.share).own then some (.trap SELFDEP)
    else if s.noRoomToPark s.here.core l then some (.trap WAITFULL)
    else some park

/-- The checks 1 to 3: alignment, range and windows, DIVSTORE. -/
def State.firstChecks (s : State) (q : Ask) (ws : List Want) : Verdict :=
  if ws.any (fun w => !w.aligned) then .trap ALIGN
  else match s.places q ws with
    | none => .trap WINFAULT
    | some ps =>
      if (ws.zip ps).any (fun x => badRegister x.1 x.2) then .trap ALIGN
      else if q.store && !q.os && s.divisible s.me then .trap DIVSTORE
      else .go ps

/-- The checks from the fourth on; `extra` is the form's own check between pages and poison. -/
def State.lastChecks (s : State) (q : Ask) (ws : List Want) (ps : List Place) (extra : Option Verdict) : Verdict :=
  (((ps.filterMap (s.pageCheck q)).head?.or extra).or (s.dataCheck q ws ps)).or (s.cellCheck q ws ps) |>.getD (.go ps)

/-- Every check of R205 in order; an access with no enabled element passes. -/
def State.checks (s : State) (q : Ask) (ws : List Want) (extra : Option Verdict) : Verdict :=
  if ws.isEmpty then .go []
  else match s.firstChecks q ws with
    | .go ps => s.lastChecks q ws ps extra
    | v => v

/-- The rest of a syllable after its checks: a trap or a stall leaves the state as it was before its own pops. -/
def Verdict.act (v : Verdict) (pre : State) (go : List Place → State) : State :=
  match v with
  | .go ps => go ps
  | .trap c => raise c pre
  | .stall t => stallWith t pre

/-- A scope that the context does not permit traps with PRIV (R209, R230, R237). -/
def permitted (scope : Nat) (act : State → State) (s : State) : State :=
  if (s.ctx s.me.ctx).permits scope then act s else raise PRIV s

/-! ## Issuing an access -/

/-- The access writes every byte of the line that unit `w` lies in. -/
def coversLine (ws : List Want) (w : Want) : Bool :=
  (upTo 64).all (fun i =>
    let a := w.addr.toNat / 64 * 64 + i
    ws.any (fun v => v.addr.toNat ≤ a && a < v.addr.toNat + v.len && v.en.testBit (a - v.addr.toNat)))

def piecesOf (ws : List Want) (ps : List Place) (store : Bool) : List Piece :=
  (ws.zip ps).map (fun x => { place := x.2, va := x.1.addr.toNat, len := x.1.len, off := x.1.off, en := x.1.en
                              whole := store && coversLine ws x.1 })

/-- Bytes of enabled elements (R220). -/
def enabledBytes (ws : List Want) : Nat := (ws.map (fun w => popCount w.len w.en)).foldl (· + ·) 0

/-- The buffer's byte count (R220). -/
def State.countBytes (s : State) (ctx : Nat) (buf : BitVec 6) (n : Nat) : State :=
  s.modCtx ctx (fun x => { x with bytes := Tab.modify 0 x.bytes buf.toNat (· + BitVec.ofNat 64 n) })

/-- Accesses that must perform before this one: what a FENCE or an acquire left (R229, R231), and for a write the loads
of its own bundle (R226). -/
def State.waitsFor (s : State) (k : AccKind) : List Nat :=
  let g := s.me
  let bef := (if k.reads then g.befR else []) ++ (if k.writes then g.befW else [])
  let same := if k.writes then ((s.mine s.here.core g.gid).filter (fun a => a.bundle == g.bundles && a.kind.reads)).map (·.id)
    else []
  (bef ++ same).filter (fun id => !s.performed s.here.core id)

/-- The access at issue, without its number. -/
def State.newAcc (s : State) (k : AccKind) (pieces : List Piece) (data : VReg) (dst : ADest) : Acc :=
  let g := s.me
  { id := s.fresh, core := s.here.core, bank := (s.core s.here.core).front, gid := g.gid, ctx := g.ctx, share := g.share, smode := g.gstat.mode
    kind := k, pieces := pieces, data := data, dst := dst, after := s.waitsFor k, buf := g.bufNo, bundle := g.bundles
    calm := g.woken && g.parkAt == some s.here.addr, addr := s.here.addr, slot := s.here.slot }

/-- The queue entries that a syllable has popped, oldest first in each queue. -/
def State.poppedSince (pre s : State) : List (Nat × QEntry) :=
  (upTo 10).flatMap (fun q =>
    ((pre.me.queue q).take ((pre.me.queue q).length - (s.me.queue q).length)).map (fun e => (q, e)))

/-- Every piece performs now, in order: for local accesses alone. -/
def performAll : List Piece → Acc → State → Acc × State
  | [], a, s => ({ a with pieces := [] }, s)
  | p :: ps, a, s => match s.performPiece a p with
    | (.done a, s) => performAll ps a s
    | (_, s) => performAll ps a s

/-- A load's or atomic's register or entry is reserved (R206). -/
def State.reserveDst (s : State) (id : Nat) (dst : ADest) : State :=
  match dst with
  | .areg n => s.upd (fun g => { g with busy := g.busy ++ [(n, id)] })
  | _ => s

/-- What an acquire holds back (R231). -/
def Group.acquireAfter (id : Nat) (g : Group) : Group :=
  { g with befR := g.befR ++ [id], befW := g.befW ++ [id], befE := g.befE ++ [id] }

/-- The access enters the cluster's queue; one that is local and waits for nothing performs at once, but for a store beside
a later syllable that reads (R226). -/
def State.issueAcc (s : State) (a : Acc) : State :=
  let cl := s.myCluster
  let s := { s with fresh := s.fresh + 1 }
  let s := s.reserveDst a.id a.dst
  let pending := (s.mine s.here.core a.gid).any (fun b => b.pieces.any (·.place.isLocal))
  let reader := a.kind.writes && !a.kind.reads && s.here.late.any s.me.takesPart
  let atOnce := a.after.isEmpty && !pending && !reader && a.pieces.all (·.place.isLocal)
  let s := if a.acq && !atOnce then s.upd (Group.acquireAfter a.id) else s
  if atOnce then
    let (a, s) := performAll a.pieces a s
    if a.returns then s.modCluster cl (fun k => { k with outbound := k.outbound ++ [{ a with done := true }] }) else s
  else s.modCluster cl (fun k => { k with outbound := k.outbound ++ [a] })

/-- DST of an L or Y form: an a register, or an entry reserved in an lq (R206). -/
def State.accDst (s : State) (dst : BitVec 8) : ADest × State :=
  match dstPush true dst with
  | q :: _ => let (id, g) := s.me.reserve q; (.lq q id, s.upd (fun _ => g))
  | [] => (.areg dst.toNat, s)

/-! ## Loads -/

/-- A load touches a range of one of the group's channels, and acquires what filled it (R261). -/
def State.touchesAny (s : State) (q : Ask) (ws : List Want) : Bool := s.me.chans.any (fun c => ws.any (touchesChan c q.os 0))

/-- A load whose checks have passed. `pre` is the state before the syllable's pops. -/
def State.load (s : State) (pre : State) (y : Syl) (q : Ask) (ws : List Want) (k : AccKind) (f : Acc → Acc)
    (extra : Option Verdict := none) : State :=
  (s.checks q ws extra).act pre (fun ps =>
    let chan := s.touchesAny q ws
    let popped := pre.poppedSince s
    let s := s.countBytes s.me.ctx s.me.bufNo (enabledBytes ws)
    if ws.isEmpty then pushZero true y.dst s
    else
      let (dst, s) := s.accDst y.dst
      let a := f (s.newAcc k (piecesOf ws ps false) 0 dst)
      s.issueAcc { a with acq := a.acq || chan, popped := popped })

/-- Size in bytes of a scalar or an element: AUX bits 20:19 (R207). -/
def Syl.bytes (y : Syl) : Nat := 2 ^ y.im 20 19

/-- LD and LDA (R209). -/
def scalarLoad (y : Syl) (acq : Bool) (s : State) : State :=
  s.load s y { need := Need.read, load := true, os := y.os, ring := !acq, reads := true }
    (oneWant (s.address y) (Syl.bytes y)) .load
    (fun a => { a with sz := y.im 20 19, sx := y.imm.getLsbD 18, acq := acq, scope := y.scope })

def execLd (y : Syl) (s : State) : Out := syllable (.ld y) y (scalarLoad y false) s

def execLda (y : Syl) (s : State) : Out := syllable (.lda y) y (permitted y.scope (scalarLoad y true)) s

/-- A 256-byte load (R210, R216). -/
def wholeLoad (y : Syl) (k : AccKind) (s : State) : State :=
  s.load s y { need := Need.read, load := true, os := y.os, ring := true, reads := true }
    (wholeWants s.me y.guard (s.address y)) k (fun a => { a with sz := 4 })

def execVld (y : Syl) (s : State) : Out := perElement (.vld y) (wholeLoad y .load) s

/-- LDN: VLD with a read count (R215, R216). -/
def execLdn (y : Syl) (s : State) : Out := perElement (.ldn y) (wholeLoad y (.loadRc y.aux)) s

/-- VLDS (R211). -/
def execVlds (y : Syl) (s : State) : Out :=
  perElement (.vlds y) (fun s =>
    let a := s.address y
    let st := s.me.rdA y.srcb.toNat
    s.load s y { need := Need.read, load := true, os := y.os, ring := true, reads := true }
      (elementWants s.me y.guard (Syl.bytes y) (fun e => a + BitVec.ofNat 64 e * st)) .load (fun a => { a with sz := 4 })) s

/-- Addresses of an indexed access: the entry popped from iq (R211). -/
def indexed (y : Syl) (a : Word) (ix : VReg) (e : Nat) : Word :=
  let i := sext64 32 (elem 32 ix e)
  a + (if y.imm.getLsbD 18 then i * BitVec.ofNat 64 (Syl.bytes y) else i)

/-- VLDX pops iq whatever its guard (R211). -/
def execVldx (y : Syl) (s : State) : Out :=
  perElement (.vldx y) (fun pre =>
    let a := pre.address y
    let (ix, g) := pre.me.pop 7
    let s := pre.upd (fun _ => g)
    s.load pre y { need := Need.read, load := true, os := y.os, reads := true }
      (elementWants s.me y.guard (Syl.bytes y) (indexed y a ix)) .load (fun a => { a with sz := 4 })) s

/-- VLDB: one element, in every enabled place (R212). -/
def execVldb (y : Syl) (s : State) : Out :=
  perElement (.vldb y) (fun s =>
    let w := Syl.bytes y
    let g := s.me
    let on := fun e => g.guardA y.guard (e * w / 4)
    let any := (upTo (256 / w)).any on
    s.load s y { need := Need.read, load := true, os := y.os, reads := true }
      (if any then oneWant (s.address y) w else []) .load
      (fun a => { a with sz := 4, bcast := some (w, elemMask (8 * w) on) })) s

/-- VLDT: through the slot's swizzle, its tag checked (R213). -/
def execVldt (y : Syl) (s : State) : Out :=
  perElement (.vldt y) (fun s =>
    let a := s.address y
    let g := s.me
    let fmt := y.srcb.toNat / 16
    let sw := y.srcb.toNat % 16
    let ws : List Want := (upTo 64).filterMap (fun j =>
      if g.guardA y.guard j then
        some { addr := BitVec.ofNat 64 (swzAddr sw (a.toNat + 4 * j)), len := 4, off := 4 * j, en := 15
               aligned := a.toNat % 256 == 0 }
      else none)
    let tag := s.tag s.myCluster (a.toNat / 4096)
    let bad := !tag.valid || tag.fmt.toNat != fmt || tag.swz.toNat != sw
    s.load s y { need := Need.read, load := true, os := true, reads := true } ws .load (fun a => { a with sz := 4 })
      (if bad then some (.trap TAGFAULT) else none)) s

/-! ## Prefetch and tags (R214, R216) -/

/-- The line behind an address brought into its LLC, if nothing stands against it (R205, R216). -/
def State.prefetch (s : State) (rc : Option Nat) (va : Nat) : State :=
  let w : Want := { addr := BitVec.ofNat 64 va, len := 64, en := allBytes 64, aligned := true }
  match s.reach s.me.ctx s.me.gstat.mode Need.read va with
  | .dev p =>
    if tagged p && s.plainLine p && !s.me.chans.any (fun c => touchesChan c false c.mark w) then
      (s.touchLine (p / 64) rc).spillLine (p / 64)
    else s
  | _ => s

/-- PFT takes part in no check and delivers nothing. Of an address that is no multiple of 64, the four lines are those from the
aligned-down address (R216, log 133). -/
def execPft (y : Syl) (s : State) : Out :=
  syllable (.pft y) y (fun s =>
    let a := (s.address y).toNat / 64 * 64
    (upTo 4).foldl (fun s i => s.prefetch (if y.aux = 0 then none else some y.aux) (a + 64 * i)) s) s

/-- The group's local accesses have not all performed: a CLRT in their order waits (R214, R227). -/
def State.localPending (s : State) : Bool :=
  (s.mine s.here.core s.me.gid).any (fun b => b.pieces.any (·.place.isLocal))

/-- CLRT (R214). -/
def execClrt (y : Syl) (s : State) : Out :=
  syllable (.clrt y) y (fun s =>
    let a := s.address y
    let slot := a.toNat / 4096
    let q : Ask := { need := Need.write, store := true, os := true }
    (s.checks q [{ addr := a, len := 1, en := 1, aligned := a.toNat % 4096 == 0 }] none).act s (fun _ =>
      if s.localPending || s.me.befW.any (fun id => !s.performed s.here.core id) then stallWith (.freeze 8) s
      else
        let t := s.tag s.myCluster slot
        s.setTag s.myCluster slot
          (if y.aux = 1 then { fmt := BitVec.ofNat 4 (y.srcb.toNat / 16), swz := BitVec.ofNat 4 (y.srcb.toNat % 16), valid := true }
           else { t with valid := false, poison := false }))) s

/-! ## Stores -/

/-- A store whose checks have passed. -/
def State.store (s : State) (pre : State) (q : Ask) (ws : List Want) (k : AccKind) (data : VReg) (f : Acc → Acc) : State :=
  (s.checks q ws none).act pre (fun ps =>
    let popped := pre.poppedSince s
    let s := s.countBytes s.me.ctx s.me.bufNo (enabledBytes ws)
    if ws.isEmpty then s
    else s.issueAcc { f (s.newAcc k (piecesOf ws ps true) data .none) with popped := popped })

/-- Stores of this bundle wait for a read of it to perform (R226). -/
def State.beforeStores (s : State) (id : Nat) : State :=
  let g := s.me
  s.modCluster s.myCluster (fun k => { k with outbound := k.outbound.map (fun a =>
    if a.gid = g.gid ∧ a.bundle = g.bundles ∧ !a.kind.reads then { a with after := a.after ++ [id] } else a) })

/-- A release to host memory is one at SYSTEM: it drains the accesses of earlier bundles so (R232). -/
def State.hostDrain (s : State) (rel : Bool) (ps : List Place) : Bool :=
  rel && ps.any (fun p => match p with
    | .host _ => true
    | _ => false)
    && !(s.mine s.here.core s.me.gid).all (fun a => a.bundle == s.me.bundles || a.pieces.all (·.at 3))

/-- ST and STL (R209). -/
def scalarStore (y : Syl) (rel : Bool) (pre : State) : State :=
  let a := pre.address y
  let (v, s) := readA y.srcb pre
  let q : Ask := { need := Need.write, store := true, os := y.os }
  let ws := oneWant a (Syl.bytes y)
  let waits := match s.places q ws with
    | some ps => s.hostDrain rel ps
    | none => false
  if waits then stallWith (.freeze 8) pre
  else s.store pre q ws .store (zx v) (fun x => { x with rel := rel, scope := y.scope })

def execSt (y : Syl) (s : State) : Out := syllable (.st y) y (scalarStore y false) s

def execStl (y : Syl) (s : State) : Out := syllable (.stl y) y (permitted y.scope (scalarStore y true)) s

/-- A 256-byte store (R210). -/
def wholeStore (y : Syl) (k : AccKind) (pre : State) : State :=
  let a := pre.address y
  let (v, s) := readEntry y.srcb pre
  s.store pre { need := Need.write, store := true, os := y.os } (wholeWants s.me y.guard a) k v id

def execVst (y : Syl) (s : State) : Out := perElement (.vst y) (wholeStore y .store) s

def execStnt (y : Syl) (s : State) : Out := perElement (.stnt y) (wholeStore y .storeNt) s

/-- VSTS: DST names the stride's register (R208, R211). -/
def execVsts (y : Syl) (s : State) : Out :=
  perElement (.vsts y) (fun pre =>
    let a := pre.address y
    let st := pre.me.rdA y.dst.toNat
    let (v, s) := readEntry y.srcb pre
    s.store pre { need := Need.write, store := true, os := y.os }
      (elementWants s.me y.guard (Syl.bytes y) (fun e => a + BitVec.ofNat 64 e * st)) .store v id) s

/-- VSTX pops iq whatever its guard (R211). -/
def execVstx (y : Syl) (s : State) : Out :=
  perElement (.vstx y) (fun pre =>
    let a := pre.address y
    let (v, s) := readEntry y.srcb pre
    let (ix, g) := s.me.pop 7
    let s := s.upd (fun _ => g)
    s.store pre { need := Need.write, store := true, os := y.os }
      (elementWants s.me y.guard (Syl.bytes y) (indexed y a ix)) .store v id) s

/-! ## Deferred cells (R316–R318) -/

/-- The line's own checks: a WINFAULT off this device's tagged memory, CELLFMT in an image; then its cell state. -/
def State.deferChecks (s : State) (resolve : Bool) (w : Want) : Verdict :=
  let q : Ask := { need := Need.both, store := true }
  match s.firstChecks q [w] with
  | .go [.dev off] =>
    match s.pageCheck q (.dev off) with
    | some v => v
    | none => match s.phys s.me.ctx off true with
      | .ok p =>
        let ln := p / 64
        let tag := if (s.lineMeta ln).poison then cVALUE else s.cellOf ln
        if !tagged p then .trap WINFAULT
        else if (s.fwinAt p).isSome then .trap CELLFMT
        else if resolve then (if tag = cEVALUATING && s.selfDep ln (s.toucher none s.me.share).own then .go [.dev off] else .trap CELLWR)
        else if tag = cSUSPENDED || tag = cEVALUATING then .trap CELLWR else .go [.dev off]
      | _ => .trap PAGEFAIL
  | .go _ => .trap WINFAULT
  | v => v

/-- DEFER and RESOLVE: the drain stands before the bundle; the form performs before the next (R237, R316). -/
def deferForm (y : Syl) (resolve : Bool) (pre : State) : State :=
  let a := pre.address y
  let (v, s) := readEntry y.srcb pre
  let w : Want := { addr := a, len := 64, en := allBytes 64, aligned := a.toNat % 64 == 0 }
  (s.deferChecks resolve w).act pre (fun ps =>
    let popped := pre.poppedSince s
    let s := s.countBytes s.me.ctx s.me.bufNo 64
    let x := s.newAcc (if resolve then .resolve else .defer) (piecesOf [w] ps true) v .none
    (s.issueAcc { x with rel := true, scope := y.scope, popped := popped }).upd (fun g => { g with holds := g.holds ++ [.accs [x.id]] }))

def execDefer (y : Syl) (s : State) : Out := syllable (.defer y) y (permitted y.scope (deferForm y false)) s

def execResolve (y : Syl) (s : State) : Out := syllable (.resolve y) y (permitted y.scope (deferForm y true)) s

end Sys2Proof.Machine
end

