-- ==== Sys2Proof/Machine/Copies.lean ====
section
/-!
DEFINITION. The C slot and the copy engine: shape registers (R251, R252), copy commands from issue to completion
(R249, R250, R253–R259), watermark channels (R261), shadows (R262–R265), event records (R267), buffer numbers (R268).
-/
namespace Sys2Proof.Machine

/-! ## Shape registers (R251, R252) -/

/-- The physical shape register that logical `n` names now. -/
def Group.shPhys (g : Group) (n : Nat) : Nat := n ^^^ (if g.ptr then 8 else 0)

/-- A write or flip that takes effect for commands of the third bundle on. -/
def Group.pendShape (g : Group) (n : Nat) (mask v : Word) (flip : Bool) : Group :=
  { g with shPend := g.shPend ++ [{ left := 3, write := some (g.shPhys n, mask, v), flip := flip, fresh := true }] }

def execShw (y : Syl) (s : State) : Out :=
  syllable (.shw y) y (fun s =>
    let (v, s) := readA y.srca s
    s.upd (fun g => g.pendShape (y.im 3 0) (BitVec.allOnes 64) v (y.imm.getLsbD 4))) s

def execShwi (y : Syl) (s : State) : Out :=
  syllable (.shwi y) y (fun s =>
    let sh := 16 * y.im 5 4
    s.upd (fun g => g.pendShape (y.im 3 0) (0xFFFF#64 <<< sh) (BitVec.ofNat 64 (y.im 21 6) <<< sh) false)) s

/-! ## Channels, buffer numbers, records (R261, R267, R268) -/

def execChwm (y : Syl) (s : State) : Out :=
  syllable (.chwm y) y (fun s => finishA y.dst (BitVec.ofNat 64 (Tab.get {} s.me.ch (y.im 2 0)).mark) s) s

def execChcfg (y : Syl) (s : State) : Out :=
  syllable (.chcfg y) y (fun s =>
    let (a, b, t) := readA2 y.srca y.srcb s
    if a.toNat % 64 ≠ 0 ∨ b = 0 ∨ b.toNat % 64 ≠ 0 ∨ 2 ^ 32 < b.toNat then raise ALIGN s
    else t.upd (fun g => { g with ch := Tab.set {} g.ch (y.im 2 0) { base := a.toNat, len := b.toNat, os := y.imm.getLsbD 3 } })) s

def execBufn (y : Syl) (s : State) : Out :=
  syllable (.bufn y) y (fun s => s.upd (fun g => { g with bufNo := BitVec.ofNat 6 (y.im 5 0) })) s

def EvRec.word (e : EvRec) : Word :=
  BitVec.ofNat 64 (e.status.toNat * 2 ^ 56 + e.kind % 16 * 2 ^ 52 + bool1 e.lost * 2 ^ 51 + e.group % 8 * 2 ^ 48
    + e.tag.toNat * 2 ^ 32 + e.time.toNat)

/-- EVPOP: the oldest record of the group that a copy or a decode posted. -/
def execEvpop (y : Syl) (s : State) : Out :=
  syllable (.evpop y) y (fun s =>
    let gid := s.me.gid
    match (s.cluster s.myCluster).events.find? (fun e => e.gid == gid && e.kind ≤ 1) with
    | some e => finishA y.dst e.word (s.modCluster s.myCluster (fun k => { k with events := k.events.erase e }))
    | none => finishA y.dst (BitVec.allOnes 64) s) s

/-- A context's event queue in a cluster: the cluster's own, or the one saved with the context's gang state (R267). -/
def Cluster.eventsOf (k : Cluster) (ctx : Nat) : List EvRec :=
  if k.ctx == some ctx then k.events else ((Tab.get none k.saved ctx).map (·.events)).getD []

def Cluster.setEvents (k : Cluster) (ctx : Nat) (l : List EvRec) : Cluster :=
  if k.ctx == some ctx then { k with events := l }
  else { k with saved := Tab.modify none k.saved ctx (·.map (fun g => { g with events := l })) }

/-- A record is posted while at least 16 are free; otherwise it is lost, and the next one says so. -/
def State.postEvent (s : State) (cl ctx gid core : Nat) (bank : Bool) (status : BitVec 8) (kind : Nat) (tag : Nat) : State :=
  s.modCluster cl (fun k =>
    let l := k.eventsOf ctx
    if l.length + 16 ≤ 128 then
      { k.setEvents ctx (l ++ [{ status := status, kind := kind, lost := k.lost.contains gid, group := 2 * (core % 4) + bool1 bank
                                 gid := gid, tag := BitVec.ofNat 16 tag, time := BitVec.ofNat 32 s.time }]) with
        lost := k.lost.filter (· != gid) }
    else { k with lost := if k.lost.contains gid then k.lost else k.lost ++ [gid] })

/-! ## Shape sets (R251, R254) -/

/-- A captured shape set as its fields. -/
structure Shape where
  cv : Bool
  sat : Bool
  rnd : Nat
  sfmt : Nat
  dfmt : Nat
  tag : Bool
  swz : Nat
  ndim : Nat
  esz : Nat
  /-- extents, source and destination strides of the four dimensions -/
  ext : List Nat
  ss : List Int
  ds : List Int
  osi : Bool
  ibase : Nat
  /-- reserved bits are zero -/
  clean : Bool
  deriving DecidableEq, Repr

def Shape.ofWords (w : List Word) : Shape :=
  let r := fun i => ((w[i]?).getD 0).toNat
  let a := r 0
  let nd := field a 11 10
  let lo := fun i => field (r i) 31 0
  let hi := fun i => field (r i) 63 32
  let e := [lo 1, hi 1, lo 2, hi 2]
  { cv := bit a 31, sat := bit a 30, rnd := field a 29 28, sfmt := field a 27 24, dfmt := field a 23 20, tag := bit a 19
    swz := field a 18 15, ndim := nd, esz := field a 9 8
    ext := (upTo 4).map (fun d => if d ≤ nd then (e[d]?).getD 1 else 1)
    ss := [lo 3, hi 3, lo 4, hi 4].map (signed 32), ds := [lo 5, hi 5, lo 6, hi 6].map (signed 32)
    osi := bit (r 7) 63, ibase := field (r 7) 55 0
    clean := field a 63 32 == 0 && field a 14 12 == 0 && field a 7 0 == 0 && field (r 7) 62 56 == 0 }

/-- A type that a converting copy may name. -/
def copyFmt (f : Nat) : Bool := 8 ≤ f && f ≤ 13

def fmtBytes (f : Nat) : Nat := ((Ty.ofCode f).map Ty.width).getD 8 / 8

/-- Source and destination element bytes. -/
def Shape.se (h : Shape) : Nat := if h.cv then fmtBytes h.sfmt else 2 ^ h.esz
def Shape.de (h : Shape) : Nat := if h.cv then fmtBytes h.dfmt else 2 ^ h.esz

def Shape.total (h : Shape) : Nat := h.ext.foldl (· * ·) 1

/-- Step 1 of the checks (R257). -/
def Shape.legal (h : Shape) (gather : Bool) : Bool :=
  h.clean && h.swz ≤ 3 && (!h.cv || (copyFmt h.sfmt && copyFmt h.dfmt && h.sfmt != h.dfmt)) && (!gather || 1 ≤ h.ndim)

/-- Indices i0–i3 of element `n` in iteration order. -/
def Shape.index (h : Shape) (n : Nat) : List Nat := stepCoords h.ext n

/-- Address of an element on one side: the base plus the terms. -/
def sideAddr (base : Word) (ix : List Nat) (st : List Int) : Word :=
  base + word ((ix.zip st).foldl (fun a x => a + x.1 * x.2) 0)

/-- The bounding range of a side: first byte and byte after the last (R257). -/
def bounds (base : Word) (ext : List Nat) (st : List Int) (e : Nat) : Int × Int :=
  let ts := (ext.zip st).map (fun x => ((x.1 : Int) - 1) * x.2)
  (base.toNat + ts.foldl (fun a t => a + min 0 t) 0, base.toNat + ts.foldl (fun a t => a + max 0 t) 0 + e)

/-- Step 2: a side's base, and the strides of the dimensions longer than 1, fit the element. -/
def sideAligned (base : Word) (ext : List Nat) (st : List Int) (e : Nat) : Bool :=
  base.toNat % e == 0 && (ext.zip st).all (fun x => x.1 ≤ 1 || x.2 % (e : Int) == 0)

/-- Every address from `a` up to `stop` is admitted by the windows (R390). -/
def State.covered (s : State) (ctx : Nat) (smode : Bool) (n : Need) (stop : Nat) : Nat → Nat → Bool
  | 0, _ => false
  | fuel + 1, a =>
    if stop ≤ a then true
    else match (s.ctx ctx).windowAt a, s.place ctx smode n a with
      | some w, some _ =>
        -- up to the end of this window, or to the next start of any other
        let starts := ((upTo 16).map (Tab.get {} (s.ctx ctx).win)).filterMap (fun v => if v.en && a < v.low then some v.low else none)
        s.covered ctx smode n stop fuel (starts.foldl min (w.high + 1))
      | _, _ => false

/-- Step 3 for one side. -/
def State.sideInside (s : State) (os : Bool) (ctx : Nat) (smode : Bool) (n : Need) (b : Int × Int) : Bool :=
  if b.1 < 0 then false
  else if os then b.2 ≤ 0x600000
  else s.covered ctx smode n b.2.toNat 64 b.1.toNat

/-! ## Issue (R250, R253, R257) -/

/-- Order in the command buffer: issue time, group index, issue. -/
def Copy.before (a b : Copy) : Bool :=
  let k := fun (c : Copy) => 2 * (c.core % 4) + bool1 c.bank
  a.time < b.time || (a.time == b.time && (k a < k b || (k a == k b && a.seq < b.seq)))

def insertCopy (c : Copy) : List Copy → List Copy
  | [] => [c]
  | x :: t => if c.before x then c :: x :: t else x :: insertCopy c t

/-- Local accesses of the group that have yet to perform: an engine command sees them (R260). -/
def State.localIds (s : State) (core gid : Nat) : List Nat :=
  ((s.mine core gid).filter (fun a => a.pieces.any (·.place.isLocal))).map (·.id)

/-- What must perform before a command of the group reads or writes memory: what a FENCE or an acquire left, and the group's
local accesses (R229, R231, R260). -/
def State.copyAfter (s : State) (g : Group) : List Nat :=
  (g.befE ++ s.localIds s.here.core g.gid).filter (fun id => !s.performed s.here.core id)

/-- CPY and CPYG at issue. -/
def copyForm (i : Instr) (y : Syl) (gather : Bool) (s : State) : Out :=
  syllable i y (fun s =>
    let g := s.me
    let b := fun k => y.imm.getLsbD k
    let set := b 21 != g.ptr
    let ws := (upTo 8).map (fun k => Tab.get 0 g.sh ((if set then 8 else 0) + k))
    let h := Shape.ofWords ws
    let dst := g.rdA y.srca.toNat
    let src := g.rdA y.srcb.toNat
    let time := (g.rdA y.dst.toNat).toNat
    let dos := b 23
    let sos := b 22
    let shd := b 7
    let smode := g.gstat.mode
    if !h.legal gather then raise ILLOP s
    else if h.total ≠ 0 ∧ (!sideAligned src h.ext h.ss h.se ∨ !sideAligned dst h.ext h.ds h.de
        ∨ (gather = true ∧ h.ibase % 4 ≠ 0)) then raise ALIGN s
    else if h.total ≠ 0 ∧ ((!gather && !s.sideInside sos g.ctx smode Need.read (bounds src h.ext h.ss h.se))
        ∨ !s.sideInside dos g.ctx smode Need.write (bounds dst h.ext h.ds h.de)) then raise WINFAULT s
    else if h.total ≠ 0 ∧ !dos ∧ !shd ∧ s.divisible g then raise DIVSTORE s
    else
      let c : Copy :=
        { id := s.fresh, core := s.here.core, bank := (s.core s.here.core).front, gid := g.gid, ctx := g.ctx, share := g.share
          smode := smode, seq := s.fresh, time := if time = 0 then s.time else time, dst := dst, src := src, dos := dos, sos := sos
          shd := shd, chan := if y.im 20 17 = 0 then none else some (y.im 19 17), bar := y.im 16 12, arr := b 11, rc := y.im 10 8
          ev := b 6, buf := BitVec.ofNat 6 (y.im 5 0), shape := ws, gather := gather
          after := s.copyAfter g }
      { s.modCluster s.myCluster (fun k => { k with copies := insertCopy c k.copies }) with fresh := s.fresh + 1 }) s

def execCpy (y : Syl) (s : State) : Out := copyForm (.cpy y) y false s

def execCpyg (y : Syl) (s : State) : Out := copyForm (.cpyg y) y true s

/-! ## Start (R253) -/

def Cluster.copy (k : Cluster) (id : Nat) : Option Copy := k.copies.find? (fun c => c.id == id)

def State.modCopy (s : State) (cl id : Nat) (f : Copy → Copy) : State :=
  s.modCluster cl (fun k => { k with copies := k.copies.map (fun c => if c.id = id then f c else c) })

def State.endCopy (s : State) (cl id : Nat) : State :=
  s.modCluster cl (fun k => { k with copies := k.copies.filter (fun c => c.id != id) })

def Copy.sh (c : Copy) : Shape := Shape.ofWords c.shape

/-- The command may start. -/
def State.mayStart (s : State) (cl : Nat) (c : Copy) : Bool :=
  let l := (s.cluster cl).copies.filter (fun x => x.merge.isNone)
  !c.started && c.time ≤ s.time && (l.takeWhile (fun x => x.id != c.id)).all (·.started)
    && (l.filter (·.started)).length < 4

def execCopyStart (cluster id : Nat) (s : State) : Out :=
  .next (match (s.cluster cluster).copy id with
    | some c => if s.mayStart cluster c then s.modCopy cluster id (fun c => { c with started := true, moved := c.sh.total == 0 }) else s
    | none => s)

/-! ## Elements (R254, R256, R258, R259, R262) -/

/-- An access to the line waits in the cluster's outbound queue ahead of an engine's (R224). -/
def State.outboundOn (s : State) (cl ctx : Nat) (p : Place) : Bool :=
  (s.cluster cl).outbound.any (fun a => !a.done && a.pieces.any (fun q => meetIn 64 ctx p 1 a.ctx q.place q.len))

/-- What the engine finds when it reads. -/
inductive Got where
  | bytes (bs : List Byte)
  /-- it waits: on a token, on a cell's line, or until something moves -/
  | token (h n : Nat)
  | parked (line : Nat)
  | wait
  | fault (cause : BitVec 8)
  deriving DecidableEq, Repr

/-- Bytes of one line read for a context by an engine of a cluster: a first or later loader of a cell (R258, R259, R319). -/
def State.engineRead (s : State) (cl ctx share : Nat) (smode : Bool) (va n : Nat) (rc : Option Nat) : Got × State :=
  match s.place ctx smode Need.read va with
  | some p =>
    if s.outboundOn cl ctx p then (.wait, s)
    else match s.reach ctx smode Need.read va with
      | .dev x =>
        let ln := x / 64
        let poison := tagged x && (s.lineMeta ln).poison
        if regionKind x = 2 then (.fault WINFAULT, s)
        else if poison then (.fault POISON, s)
        else
          let who := s.toucher (some cl) share
          let s := if tagged x then s.firstTouch ln who true else s
          if !tagged x || s.cellOf ln = cVALUE then
            let (bs, s) := s.devRead x n rc
            (.bytes bs, match p with
              | .dev off => s.learn ctx off
              | _ => s)
          else if s.cellOf ln = cFAILED then (.fault CELLFAIL, s)
          else if s.selfDep ln who.own then (.fault SELFDEP, s)
          else (.parked ln, s.inherit ln who.prio who.cls)
      | .host a => (.bytes (memBytes s.host a n), s)
      | .wait h page =>
        let (t, s) := s.pageFault h ctx page 4
        (.token h t, s)
      | .moving => (.wait, s)
      | .fail c => (.fault c, s)
  | none => (.fault WINFAULT, s)

/-- The value of a copy's source element, or why there is none. -/
def State.copyRead (s : State) (cl : Nat) (c : Copy) (os : Bool) (a : Word) (n : Nat) (rc : Option Nat) : Got × State :=
  if os then
    if !(a.toNat + n ≤ 0x600000) then (.fault WINFAULT, s)
    else if (s.cluster cl).unrestored.contains (a.toNat / 4096) then (.wait, s)
    else if (s.tag cl (a.toNat / 4096)).poison then (.fault POISON, s)
    else (.bytes (s.osBytes cl a.toNat n), s.osNote cl c.gid a.toNat)
  else s.engineRead cl c.ctx c.share c.smode a.toNat n rc

/-- What the engine finds when it writes. -/
inductive Put where
  | done (s : State)
  | token (h n : Nat) (s : State)
  | wait
  | fault (cause : BitVec 8)

/-- Bytes of one line written for a context by an engine (R232, R258, R412). -/
def State.engineWrite (s : State) (cl ctx share : Nat) (smode : Bool) (va : Nat) (bs : List Byte) : Put :=
  match s.place ctx smode Need.write va with
  | some p =>
    if s.outboundOn cl ctx p then .wait
    else
      let esc := fun (s : State) => s.escape share
      match s.reach ctx smode Need.write va with
      | .dev x =>
        if regionKind x = 2 then .fault WINFAULT
        else if tagged x && !(s.lineMeta (x / 64)).poison && s.cellOf (x / 64) != cVALUE then .fault CELLWR
        else
          let s := (s.devWrite x (bs.map some) .no).clearStamps x bs.length
          let s := if bs.length = 64 then s.modMeta (x / 64) (fun m => { m with poison := false }) else s
          .done (esc s)
      | .host a => .done (esc { s with host := memPut s.host a (bs.map some) })
      | .wait h page =>
        let (t, s) := s.pageFault h ctx page 5
        .token h t s
      | .moving => .wait
      | .fail c => .fault c
  | none => .fault WINFAULT

/-- Bytes of a range written by a command that names the channel (R261). -/
def Chan.note (c : Chan) (os : Bool) (a n : Nat) : Chan :=
  if c.os != os then c
  else (upTo n).foldl (fun c i =>
    let x := a + i
    if c.base ≤ x ∧ x < c.base + c.len then
      { c with filled := Tab.modify 0 c.filled ((x - c.base) / 64) (fun w => w ||| BitVec.twoPow 64 ((x - c.base) % 64)) }
    else c) c

/-- The group wherever its bank is held (R276). -/
def State.modHeld (s : State) (gid : Nat) (f : Group → Group) : State := s.mapGroups (fun g => if g.gid = gid then f g else g)

/-- Bytes of destination that the whole command writes. -/
def Copy.bytes (c : Copy) : Nat := c.sh.total * c.sh.de

/-- The command leaves the buffer with its arrival and its record, unless a rewind has dropped them (R255, R258, R417). -/
def State.finishCopy (s : State) (cl : Nat) (c : Copy) (status : BitVec 8) : State :=
  let s := s.endCopy cl c.id
  if c.mute then s
  else
    let s := if c.arr then s.engineArrive cl c.ctx c.bar c.bytes (status != 0) else s
    if c.ev then s.postEvent cl c.ctx c.gid c.core c.bank status 0 c.buf.toNat else s

/-- A copy fault (R258); a merge that faults drops its shadow (R262). -/
def State.copyFault (s : State) (cl : Nat) (c : Copy) (cause : BitVec 8) : State :=
  match c.merge with
  | some base =>
    let s := s.endCopy cl c.id
    s.modCtx c.ctx (fun x => { x with shadows := x.shadows.filter (fun h => h.base != base) })
  | none =>
    let s := match c.chan with
      | some n => s.modHeld c.gid (fun g => { g with ch := Tab.modify {} g.ch n (fun h => { h with flt := true }) })
      | none => s
    s.finishCopy cl c cause

/-- The tag that the slots of a copy receive (R132, R254): decoded values of a format window keep their target's type. -/
def State.copyTag (s : State) (c : Copy) (src : Word) : Tag :=
  let h := c.sh
  let image := if c.sos then none
    else match s.reach c.ctx c.smode Need.read src.toNat with
      | .dev x => (s.fwinAt x).map (fun w => if w.2.tgt then 10 else 9)
      | _ => none
  { fmt := BitVec.ofNat 4 (if h.cv then h.dfmt else image.getD h.dfmt), swz := BitVec.ofNat 4 h.swz, valid := true }

/-- No later element of the command writes into this slot. -/
def Copy.lastIn (c : Copy) (n slot : Nat) : Bool :=
  let h := c.sh
  (upTo h.total).all (fun j => j ≤ n || (sideAddr c.dst (h.index j) h.ds).toNat / 4096 != slot)

/-- Where a slot's 4,096 bytes come from, when the command writes each of them once, from one range in order, and no one
else has written there since it started (R414). -/
def Copy.cleanFrom (c : Copy) (slot : Nat) : Option Nat :=
  let h := c.sh
  let l := ((upTo h.total).map (fun j => ((sideAddr c.src (h.index j) h.ss).toNat, (sideAddr c.dst (h.index j) h.ds).toNat))).filter
    (fun x => x.2 / 4096 == slot)
  match l with
  | [] => none
  | x :: _ =>
    let base := x.1 - x.2 % 4096
    if !c.gather && !h.cv && !c.sos && !c.spoilt.contains slot && x.2 % 4096 ≤ x.1 && l.length * h.de == 4096
        && (l.map (·.2)).dedup.length == l.length && l.all (fun y => y.1 == base + y.2 % 4096) then some base
    else none

/-- The slot is CLEAN from now on, if its source is device memory: its intermediate address is kept (R414). -/
def State.setClean (s : State) (cl : Nat) (c : Copy) (slot : Nat) : State :=
  match c.cleanFrom slot with
  | none => s
  | some a => match s.place c.ctx c.smode Need.read a, s.place c.ctx c.smode Need.read (a + 4095) with
    | some (.dev off), some (.dev last) =>
      if last != off + 4095 then s
      else s.modCluster cl (fun k =>
        { k with clean := Tab.set none k.clean slot (some (s.board.devid.toNat * 2 ^ 42 + off, c.sh.swz)), readers := k.readers.filter (·.1 != slot) })
    | _, _ => s

/-- The element's conversion (R254). -/
def Shape.value (h : Shape) (x : Nat) : Nat :=
  if !h.cv then x
  else match Ty.ofCode h.dfmt, Ty.ofCode h.sfmt with
    | some d, some t => convert d t (if h.rnd = 1 then .rtz else if h.rnd = 2 then .rup else if h.rnd = 3 then .rdn else .rne) h.sat x
    | _, _ => x

/-- The element has been written at `da`: channel, counters, tag, and on to the next. In operand store its bytes stand behind
the swizzle, and it is those that a channel watches (R254, R261). -/
def State.elementDone (s : State) (cl : Nat) (c : Copy) (sa da : Word) : State :=
  let h := c.sh
  let s := match c.chan with
    | some n => s.modHeld c.gid (fun g => { g with ch := Tab.modify {} g.ch n (·.note c.dos (if c.dos then swzAddr h.swz da.toNat else da.toNat) h.de) })
    | none => s
  let s := s.countBytes c.ctx c.buf h.de
  let slot := da.toNat / 4096
  let last := c.dos && c.lastIn c.next slot
  let s := if last && h.tag then s.setTag cl slot (s.copyTag c sa) else s
  let s := if last then s.setClean cl c slot else s
  s.modCopy cl c.id (fun c => { c with next := c.next + 1, moved := h.total ≤ c.next + 1, token := none, parked := none })

/-- Where the bytes of element `c.next` go; a shadow that is still merging keeps its writers waiting (R262). -/
def State.copyWrite (s : State) (cl : Nat) (c : Copy) (da : Word) (bs : List Byte) : Put :=
  if c.dos then
    let a := swzAddr c.sh.swz da.toNat
    if (s.cluster cl).unrestored.contains (a / 4096) then .wait
    else .done ((s.osStore cl a (bs.map some)).modCopy cl c.id (fun x => { x with spoilt := c.spoilt }))
  else if c.shd then
    match (s.ctx c.ctx).shadowFor da.toNat bs.length c.seq with
    | .inside h => if h.merging then .wait else .done (s.shadowPut c.ctx h da.toNat bs (some c.core))
    | .dropped => .done s
    | .outside => .fault WINFAULT
  else s.engineWrite cl c.ctx c.share c.smode da.toNat bs

/-- The index of a row of CPYG, read and kept (R256). -/
def State.nextRow (s : State) (cl : Nat) (c : Copy) (row : Nat) (ix : List Nat) (at' : Int → Word) : Got × Word × State :=
  match s.copyRead cl c c.sh.osi (BitVec.ofNat 64 (c.sh.ibase + 4 * (ix[1]?).getD 0)) 4 none with
  | (.bytes bs, s) =>
    let k := signed 32 (leNat bs)
    (.bytes [], at' k, s.modCopy cl c.id (fun c => { c with row := some (row, k) }))
  | (x, s) => (x, 0, s)

/-- The source address of an element; CPYG reads its index before a row's elements, once (R256). -/
def State.copySource (s : State) (cl : Nat) (c : Copy) : Got × Word × State :=
  let h := c.sh
  let ix := h.index c.next
  let row := c.next / max 1 ((h.ext[0]?).getD 1)
  let at' := fun (k : Int) => sideAddr c.src (ix.set 1 0) h.ss + word (k * (h.ss[1]?).getD 0)
  if !c.gather then (.bytes [], sideAddr c.src ix h.ss, s)
  else match c.row with
    | some (r, k) => if r = row then (.bytes [], at' k, s) else s.nextRow cl c row ix at'
    | none => s.nextRow cl c row ix at'

/-- A command that waits at its element, or faults there. -/
def State.copyHeld (s : State) (cl : Nat) (c : Copy) : Got → State
  | .token h n => s.modCopy cl c.id (fun c => { c with token := some (h, n) })
  | .parked ln => s.modCopy cl c.id (fun c => { c with parked := some ln })
  | .fault e => s.copyFault cl c e
  | _ => s

/-- The engine moves the next element of a started command. -/
def State.copyElement (s : State) (cl : Nat) (c : Copy) : State :=
  let h := c.sh
  match s.copySource cl c with
  | (.bytes _, sa, s) =>
    match s.copyRead cl c c.sos sa h.se (if c.rc = 0 then none else some c.rc) with
    | (.bytes bs, t) =>
      let da := sideAddr c.dst (h.index c.next) h.ds
      -- a destination that has to wait leaves the source unread
      match t.copyWrite cl c da (leBytes h.de (h.value (leNat bs))) with
      | .done u => u.elementDone cl c sa da
      | .token hd n u => u.modCopy cl c.id (fun c => { c with token := some (hd, n) })
      | .wait => s
      | .fault e => t.copyFault cl c e
    | (x, t) => t.copyHeld cl c x
  | (x, _, s) => s.copyHeld cl c x

/-- The next line of a merge enters the shadow (R262). -/
def State.mergeElement (s : State) (cl : Nat) (c : Copy) (base : Nat) : State :=
  match (s.ctx c.ctx).shadows.find? (fun h => h.base == base) with
  | none => s.endCopy cl c.id
  | some h =>
    let va := base + 64 * c.next
    match s.engineRead cl c.ctx c.share c.smode va 64 none with
    | (.bytes bs, s) => (s.shadowPut c.ctx h va bs (some c.core)).modCopy cl c.id (fun c =>
        { c with next := c.next + 1, moved := h.len ≤ 64 * (c.next + 1), token := none, parked := none })
    | (x, s) => s.copyHeld cl c x

def execCopyElement (cluster id : Nat) (s : State) : Out :=
  .next (match (s.cluster cluster).copy id with
    | some c =>
      if !c.started || c.moved || !c.after.all (s.performed (4 * cluster)) || c.token.isSome || c.parked.any (fun l => s.cellOf l == cEVALUATING) then s
      else match c.merge with
        | some base => s.mergeElement cluster c base
        | none => s.copyElement cluster c
    | none => s)

/-- The steps of R255. -/
def execCopyComplete (cluster id : Nat) (s : State) : Out :=
  .next (match (s.cluster cluster).copy id with
    | some c => if c.moved && c.merge.isNone then s.finishCopy cluster c 0 else s
    | none => s)

def execShadowMergeDone (cluster id : Nat) (s : State) : Out :=
  .next (match (s.cluster cluster).copy id with
    | some c => match c.merge with
      | some base =>
        if c.moved then (s.endCopy cluster id).modCtx c.ctx (fun x => x.modShadow base (fun h => { h with merging := false })) else s
      | none => s
    | none => s)

/-! ## Shadows (R262–R265) -/

/-- The one window that holds the whole buffer, as SOPEN asks (R262). -/
def State.bufferWindow (s : State) (ctx : Nat) (smode : Bool) (base len : Nat) : Bool :=
  let x := s.ctx ctx
  match x.windowAt base with
  | none => false
  | some w =>
    let i := w.ia base
    2 ^ 56 > base + len && base + len ≤ w.high + 1 && w.admits smode Need.both && !w.host
      && i / 2 ^ 42 == s.board.devid.toNat && (i + len - 1) / 2 ^ 42 == i / 2 ^ 42
      && regionKind (i % 2 ^ 42) == 0 && regionKind ((i + len - 1) % 2 ^ 42) == 0
      && isHbm (i % 2 ^ 42) == isHbm ((i + len - 1) % 2 ^ 42)
      && ((upTo 16).map (Tab.get {} x.win)).all (fun v => !v.en || v == w || v.low < base || base + len ≤ v.low)

/-- Check 4 over every page of the buffer, for the group under way. -/
def State.bufferPages (s : State) (base len : Nat) : Option Verdict :=
  let g := s.me
  let q : Ask := { need := Need.both }
  ((upTo (len / 4096)).filterMap (fun i => match s.place g.ctx g.gstat.mode Need.both (base + 4096 * i) with
    | some p => s.pageCheck q p
    | none => some (.trap WINFAULT))).head?

/-- The buffer overlaps the image of an enabled format window. -/
def State.bufferImage (s : State) (ctx base len : Nat) : Bool :=
  (upTo (len / 4096)).any (fun i => match s.bufferPage ctx (base + 4096 * i) with
    | some p => (s.fwinAt p).isSome
    | none => false)

/-- The status that SOPEN returns when its checks pass: an overlap is answered before a want of room, R262 giving no order
(log 134). -/
def Ctx.openStatus (x : Ctx) (base len : Nat) : Nat :=
  if x.shadows.any (fun h => h.base == base && h.len == len) then 1
  else if x.shadows.any (fun h => h.base < base + len && base < h.base + h.len) then 3
  else if 16 ≤ x.shadows.length || field x.shpool.toNat 15 0 * 65536 < (x.shadows.map (·.len)).foldl (· + ·) 0 + len then 2
  else 0

/-- The shadow opens, with its merge when one is asked for. -/
def State.openShadow (s : State) (base len : Nat) (merge : Bool) : State :=
  let g := s.me
  let s := s.modCtx g.ctx (fun x => { x with shadows := x.shadows ++ [{ base := base, len := len, share := g.share, merging := merge }] })
  if !merge then s
  else
    let c : Copy :=
      { id := s.fresh, core := s.here.core, bank := (s.core s.here.core).front, gid := g.gid, ctx := g.ctx, share := g.share
        smode := g.gstat.mode, seq := s.fresh, time := s.time, dst := 0, src := 0, dos := false, sos := false, shd := false
        chan := none, bar := 0, arr := false, rc := 0, ev := false, buf := 0, shape := [], gather := false, started := true
        after := s.copyAfter g, merge := some base }
    { s.modCluster s.myCluster (fun k => { k with copies := k.copies ++ [c] }) with fresh := s.fresh + 1 }

def execSopen (y : Syl) (s : State) : Out :=
  syllable (.sopen y) y (fun s =>
    let g := s.me
    let a := (g.rdA y.srca.toNat).toNat
    let (n, t) := readA y.srcb s
    let len := n.toNat
    if a % 65536 ≠ 0 ∨ len = 0 ∨ len % 65536 ≠ 0 ∨ 2 ^ 30 < len then raise ALIGN s
    else if !s.bufferWindow g.ctx g.gstat.mode a len then raise WINFAULT s
    else match s.bufferPages a len with
      | some v => v.act s (fun _ => s)
      | none =>
        if s.bufferImage g.ctx a len then raise CELLFMT s
        else
          let st := (s.ctx g.ctx).openStatus a len
          finishA y.dst (BitVec.ofNat 64 st) (if st = 0 then t.openShadow a len (y.imm.getLsbD 0) else t)) s

/-- An EPRUN of the group writes a row into the shadow: under the configuration that the queue before it leaves in force
(R182, R264). -/
def Matrix.writesShadow (m : Matrix) (gid : Nat) (h : Shadow) : Bool :=
  let into := fun (g : Option EpCfg) (d : Nat) => g.any (fun g => g.shd && (upTo 32).any (fun r =>
    meetsRange (d + r * g.pitch) (128 * fmtBytes g.out.toNat) h.base h.len))
  ((m.queue.filter (fun c => c.gid == gid)).foldl (fun (acc : Option EpCfg × Bool) c => match c.kind with
    | .epcfg g => (some g, acc.2)
    | .eprun d _ _ => (acc.1, acc.2 || into acc.1 d.toNat)
    | _ => acc) (m.ep, false)).2

/-- Commands of the group that still write the shadow (R264). -/
def State.shadowBusy (s : State) (g : Group) (h : Shadow) : Bool :=
  h.merging
    || (s.cluster s.myCluster).copies.any (fun c => c.gid == g.gid && c.shd &&
        (let b := bounds c.dst c.sh.ext c.sh.ds c.sh.de
         decide ((h.base : Int) < b.2) && decide (b.1 < (h.base + h.len : Nat))))
    || (s.core s.here.core).mat.writesShadow g.gid h

def execPub (y : Syl) (s : State) : Out :=
  syllable (.pub y) y (fun s =>
    let g := s.me
    let base := (g.rdA y.srca.toNat).toNat
    let sc := y.im 22 21
    match (s.ctx g.ctx).shadows.find? (fun h => h.base == base) with
    | none => finishA y.dst 1 s
    | some h =>
      if !(s.ctx g.ctx).permits sc then raise PRIV s
      else if !s.drained s.here.core sc g.gid || s.shadowBusy g h || g.befE.any (fun id => !s.performed s.here.core id) then stallWith (.freeze 8) s
      else if s.divisible g || s.gangGroup g then
        let s := s.modCtx g.ctx (fun x =>
          { x.modShadow base (fun h => { h with mark := h.mark.or (some x.marks) }) with marks := x.marks + 1 })
        finishA y.dst 0 s
      else if s.logFull || s.bufferMoving g.ctx base h.len then stallWith (.freeze 8) s
      else match s.bufferFault g.ctx base h.len with
        | some (hd, page) => if g.pageFail = some page then raise PAGEFAIL s else stallWith (.page hd g.ctx page 2) s
        | none => match s.bufferFail g.ctx base h.len with
          | some cause => raise cause s
          | none => finishA y.dst 0 (s.publish g.ctx (((s.taskOf g).map (·.id)).getD 0) h (s.stampOf s.myCluster sc))) s

def execSdrop (y : Syl) (s : State) : Out :=
  syllable (.sdrop y) y (fun s =>
    let g := s.me
    let base := (g.rdA y.srca.toNat).toNat
    match (s.ctx g.ctx).shadows.find? (fun h => h.base == base) with
    | none => finishA y.dst 1 s
    | some h => finishA y.dst 0 (s.dropShadow g.ctx h)) s

end Sys2Proof.Machine
end

