-- ==== Sys2Proof/Machine/Random.lean ====
section
/-!
DEFINITION. The core generator of random words (R116): AES-128 of FIPS 197 over the bytes of R6, and W(K, c).
-/
namespace Sys2Proof.Machine

/-- Multiplication by x in GF(2^8) modulo x^8 + x^4 + x^3 + x + 1. -/
def gfDouble (a : Nat) : Nat := if a < 128 then 2 * a else (2 * a - 256) ^^^ 0x1B

/-- The product in GF(2^8), over the bits of the second factor. -/
def gfMul : Nat → Nat → Nat → Nat
  | 0, _, _ => 0
  | fuel + 1, a, b => (if b % 2 = 1 then a else 0) ^^^ gfMul fuel (gfDouble a) (b / 2)

def gfSquare (a : Nat) : Nat := gfMul 8 a a

/-- a^254, the inverse in GF(2^8), 0 for 0: the product of a^2, a^4, …, a^128. -/
def gfInverse (a : Nat) : Nat :=
  ((upTo 7).foldl (fun p _ => (gfSquare p.1, gfMul 8 p.2 (gfSquare p.1))) (a, 1)).2

/-- The byte substitution: the inverse, then the affine map. -/
def subByte (a : Nat) : Nat :=
  let b := gfInverse a
  let rot := fun n => (b * 2 ^ n) % 256 + b * 2 ^ n / 256
  b ^^^ rot 1 ^^^ rot 2 ^^^ rot 3 ^^^ rot 4 ^^^ 0x63

def xorBytes (a b : List Nat) : List Nat := List.zipWith (· ^^^ ·) a b

/-- The four words of the next round key. -/
def nextKey (rc : Nat) (k : List Nat) : List Nat :=
  let w := fun i => (k.drop (4 * i)).take 4
  let last := w 3
  let t := ((last.drop 1 ++ last.take 1).map subByte)
  let t := match t with
    | x :: xs => (x ^^^ rc) :: xs
    | [] => []
  let w0 := xorBytes (w 0) t
  let w1 := xorBytes (w 1) w0
  let w2 := xorBytes (w 2) w1
  let w3 := xorBytes (w 3) w2
  w0 ++ w1 ++ w2 ++ w3

/-- The rows of the state turn: byte r + 4c holds row r, column c. -/
def shiftRows (x : List Nat) : List Nat :=
  (upTo 16).map (fun i => (x[(i % 4) + 4 * ((i / 4 + i % 4) % 4)]?).getD 0)

def mixColumns (x : List Nat) : List Nat :=
  (upTo 16).map (fun i =>
    let a := fun k => (x[4 * (i / 4) + (i + k) % 4]?).getD 0
    gfDouble (a 0) ^^^ gfDouble (a 1) ^^^ a 1 ^^^ a 2 ^^^ a 3)

/-- The rounds from one on: key of the round before, round constant, state. -/
def aesRounds : Nat → List Nat → Nat → List Nat → List Nat
  | 0, _, _, x => x
  | n + 1, k, rc, x =>
    let k := nextKey rc k
    let x := shiftRows (x.map subByte)
    aesRounds n k (gfDouble rc) (xorBytes (if n = 0 then x else mixColumns x) k)

/-- AES-128 encryption; the byte at index 0 holds bits 7:0 (R6). -/
def aes128 (key block : Nat) : Nat :=
  let bytes := fun (n : Nat) => (upTo 16).map (fun i => n / 2 ^ (8 * i) % 256)
  let out := aesRounds 10 (bytes key) 1 (xorBytes (bytes block) (bytes key))
  (out.zip (upTo 16)).foldl (fun n b => n + b.1 * 2 ^ (8 * b.2)) 0

/-- W(K, c): sixteen blocks (R116). -/
def randomWord (key : Nat) (c : Word) : VReg :=
  BitVec.ofNat 2048 ((upTo 16).foldl (fun n j => n + aes128 key (c.toNat * 2 ^ 64 + j) * 2 ^ (128 * j)) 0)

end Sys2Proof.Machine
end

