-- ==== Sys2Proof/Machine/Video.lean ====
section
/-!
DEFINITION. The AV1 decoders: VDEC and its descriptor (R270), the layout of frames in operand store (R271, R272), frame
status words (R273), frames and the end of a batch (R274, R275). The decoding process itself is `Config.av1` (R269).
-/
namespace Sys2Proof.Machine

/-! ## VDEC -/

/-- Units of a load of `n` lines at an address whose alignment is `al`. -/
def lineWants (a : Word) (n al : Nat) : List Want :=
  (upTo n).map (fun i => { addr := a + BitVec.ofNat 64 (64 * i), len := 64, en := allBytes 64, aligned := a.toNat % al == 0 })

/-- Bytes of lines whose checks have passed, read at issue: `n` of each place. -/
def State.loadBytes (s : State) (ps : List Place) (n : Nat) : List Byte × State :=
  ps.foldl (fun acc p =>
    let s := acc.2
    let found := fun (x : Page) => match x with
      | .ok x => let (bs, s) := s.devRead x n none; (acc.1 ++ bs, s)
      | _ => acc
    match p with
    | .dev off => let (bs, s) := found (s.phys s.me.ctx off false); (bs, s.learn s.me.ctx off)
    | .host a => (acc.1 ++ memBytes s.host a n, s)
    | .far ia => found (s.farPhys ia false)
    | _ => acc) ([], s)

/-- A read at issue stands behind an acquire, or an access to its line, of an earlier bundle that has yet to perform (R227,
R231): the bundle waits with code 8 (log 107). -/
def State.readsLater (s : State) (ps : List Place) : Bool :=
  let g := s.me
  g.befR.any (fun id => !s.performed s.here.core id)
    || (s.mine s.here.core g.gid).any (fun a => a.bundle != g.bundles
      && a.pieces.any (fun q => ps.any (fun p => meetIn 64 g.ctx p 1 a.ctx q.place q.len)))

/-- VDEC: the load of its descriptor, in order with the group's other accesses; the answer comes with its data (R226, R229,
R231, R270). -/
def execVdec (y : Syl) (s : State) : Out :=
  syllable (.vdec y) y (fun s =>
    let g := s.me
    let q : Ask := { need := Need.read, load := true, store := true, reads := true }
    let ws := lineWants (g.rdA y.srca.toNat) 1 64
    (s.checks q ws none).act s (fun ps =>
      let (dst, s) := (s.countBytes g.ctx g.bufNo 64).accDst y.dst
      let a := s.newAcc (.vdec (y.im 4 0) (y.imm.getLsbD 5) (y.imm.getLsbD 6)) (piecesOf ws ps false) 0 dst
      (s.beforeStores a.id).issueAcc { a with after := a.after ++ g.befE.filter (fun id => !s.performed s.here.core id), sz := 4 })) s

/-! ## Frames -/

def State.modDecode (s : State) (id : Nat) (f : Decode → Decode) : State :=
  { s with decodes := s.decodes.map (fun d => if d.id = id then f d else d) }

def State.decoding (s : State) (n : Nat) : Option Decode := s.decodes.find? (fun d => d.decoder == some n)

/-- The first queued command starts on a free decoder. -/
def execVdecStart (id decoder : Nat) (s : State) : Out :=
  .next (match s.decodes.find? (fun d => d.decoder.isNone) with
    | some d =>
      if d.id = id ∧ decoder < s.board.decoders ∧ (s.decoding decoder).isNone then s.modDecode id (fun d => { d with decoder := some decoder })
      else s
    | none => s)

/-- A byte of the bitstream, none where its read fails (R273). -/
def State.streamByte (s : State) (d : Decode) (v : VDesc) (i : Nat) : Option Byte :=
  match s.reach d.ctx d.smode Need.read (v.bsaddr + i) with
  | .dev p => if tagged p && s.plainLine p then some (s.byteNow p) else none
  | .host a => some (Tab.get 0 s.host a)
  | _ => none

/-- What the decoder has to wait for before it can read a byte: page service, a cell, a moving page. -/
def State.streamWait (s : State) (d : Decode) (v : VDesc) (i : Nat) : Option Got :=
  match s.reach d.ctx d.smode Need.read (v.bsaddr + i) with
  | .wait h p => if d.pageFails.contains p then none else some (.token h p)
  | .moving => some .wait
  | .dev p =>
    let ln := p / 64
    if tagged p && !(s.lineMeta ln).poison && (s.cellOf ln == cSUSPENDED || s.cellOf ln == cEVALUATING)
        && !s.selfDep ln (s.toucher none d.share).own
    then some (.parked ln) else none
  | _ => none

/-- The element of a plane at row y and column x (R271, R272). -/
def VDesc.element (d : VDesc) (f : AvFrame) (p y x : Nat) : Nat :=
  let (w, h) := d.dims p
  let fw := if p = 0 then f.width else (f.width + 1) / 2
  let fh := if p = 0 then f.height else (f.height + 1) / 2
  if w ≤ x ∨ h ≤ y ∨ fw ≤ x ∨ fh ≤ y then d.padv % 2 ^ (8 * d.size)
  else
    let v := if f.mono ∧ p ≠ 0 then 2 ^ (if d.d10 then 9 else 7) else f.sample p y x
    if d.bf then
      let (sc, bi) := (d.map[p]?).getD (0, 0)
      let t : Fp := .fin false v 0
      bf16.sum .rne false [bf16.dec sc, t, bf16.dec bi] [(bf16.dec sc).mul t, bf16.dec bi]
    else v % 2 ^ (8 * d.size)

/-- The bytes of one slot: rows of 64 elements through swizzle 3; `elem` gives row and column within the slot. -/
def VDesc.slotBytes (d : VDesc) (elem : Nat → Nat → Nat) : List Byte :=
  let plain := (upTo d.q).flatMap (fun r => (upTo 64).flatMap (fun c => leBytes d.size (elem r c)))
  -- physical byte o holds the logical byte whose swizzled place it is
  let place := (upTo 4096).map (fun o => (swz 3 o, (plain[o]?).getD 0))
  (upTo 4096).map (fun o => ((place.find? (fun x => x.1 == o)).map (·.2)).getD 0)

/-- The bytes of a frame's slots, one list a slot. -/
def VDesc.frame (d : VDesc) (f : AvFrame) : List (List Byte) :=
  d.planes.flatMap (fun p =>
    let (nx, ny) := d.grid p
    (upTo (nx * ny)).map (fun t => d.slotBytes (fun r c => d.element f p (t / nx * d.q + r) (t % nx * 64 + c))))

/-- A frame of pad elements. -/
def VDesc.padFrame (d : VDesc) : List (List Byte) := (upTo d.spf).map (fun _ => d.slotBytes (fun _ _ => d.padv % 2 ^ (8 * d.size)))

/-- Bytes into the operand store of a command's context wherever it is held: the array, its saved image, or the image of a park
that holds the slot, one that the command's share claims or, where the whole cluster has parked, any (R276, R346). -/
def State.osHeldPut (s : State) (cl ctx share slot : Nat) (bs : List Byte) (t : Tag) : State :=
  let parked := fun (i : ParkImg) => i.share == share && (i.whole || ((s.share share).map s.claimOf).any (·.contains slot))
  if (s.cluster cl).parked.any parked then
    s.modCluster cl (fun k => { k with parked := k.parked.map (fun i =>
      if parked i then { i with os := memPut i.os (4096 * slot) (bs.map some), tags := Tab.set {} i.tags slot t } else i) })
  else if (s.cluster cl).ctx = some ctx then (s.osStore cl (4096 * slot) (bs.map some)).setTag cl slot t
  else s.modCluster cl (fun k => { k with saved := Tab.modify none k.saved ctx (·.map (fun g =>
    { g with os := memPut g.os (4096 * slot) (bs.map some), tags := Tab.set {} g.tags slot t })) })

/-- Slots written one after another. -/
def State.putSlots (s : State) (cl ctx share : Nat) (t : Tag) (slot : Nat) : List (List Byte) → State
  | [] => s
  | b :: bs => (s.osHeldPut cl ctx share slot b t).putSlots cl ctx share t (slot + 1) bs

/-- Bytes of a frame kept for repetition. -/
def keepFrame (bs : List (List Byte)) : List Host.Cell := memPut [] 0 (bs.flatten.map some)

def repeatFrame (m : List Host.Cell) (spf : Nat) : List (List Byte) := (upTo spf).map (fun i => memBytes m (4096 * i) 4096)

/-- The stream and the frame lie within what the decoders support, at the depth that the command expects (R269, R274). -/
def AvFrame.supported (f : AvFrame) (d10 : Bool) : Bool :=
  f.profile == 0 && f.layers ≤ 1 && (f.c420 || f.mono) && f.width ≤ 4096 && f.height ≤ 2304 && f.d10 == d10

/-- The outcome of a frame as this command sees it (R273, R274): NOTREACHED when its unit would begin at the stream's end,
CORRUPT when a read fails, the unit is cut short, or the decoding process finds a syntax or conformance error or a missing
reference, UNSUPPORTED outside R269, DAMAGED when it references a frame that this command made CORRUPT or DAMAGED. -/
def State.frameOf (s : State) (d : Decode) (v : VDesc) : AvFrame :=
  let read := s.streamByte d v
  let reads := Config.av1Reads read v.bslen d.next
  let f := Config.av1 read v.bslen d.next v.grain d.states
  if f.state = 4 ∨ v.bslen ≤ f.offset then { f with state := 4, offset := v.bslen, err := 0 }
  else if reads.any (fun i => i < v.bslen && (read i).isNone) then { f with state := 1, err := 4 }
  else if reads.any (v.bslen ≤ ·) then { f with state := 1, err := 1 }
  else if f.state = 3 then { f with err := 3 }
  else if f.state = 1 then { f with err := if f.err = 2 then 2 else 1 }
  else if !f.supported v.d10 then { f with state := 3, err := 3 }
  else if f.refs.any (fun r => d.states[r]? == some 1 || d.states[r]? == some 2) then { f with state := 2, err := 0 }
  else { f with state := 0, err := 0 }

def statusWord (f : AvFrame) : List Byte := leBytes 8 (f.offset % 2 ^ 32 * 2 ^ 16 + f.err % 256 * 2 ^ 8 + f.state % 256)

/-- The next frame of a running command (R271–R275). -/
def State.decodeOne (s : State) (d : Decode) : State :=
  let v := VDesc.of d.desc
  let reads := (Config.av1Reads (s.streamByte d v) v.bslen d.next).filter (· < v.bslen)
  match (reads.filterMap (s.streamWait d v)).head? with
  | some (.token h p) =>
    let (n, s) := s.pageFault h d.ctx p 4
    s.modDecode d.id (fun d => { d with token := some (h, n) })
  | some (.parked ln) =>
    let who := s.toucher (some d.cluster) d.share
    (s.firstTouch ln who true).inherit ln who.prio who.cls
  | some _ => s
  | none =>
    let f := s.frameOf d v
    let good := f.state == 0 || f.state == 2
    let bytes := if good then v.frame f else match v.pad, d.last with
      | false, some m => repeatFrame m v.spf
      | _, _ => v.padFrame
    let tag : Tag := { fmt := BitVec.ofNat 4 v.fmt, swz := 3, valid := true }
    let s := s.putSlots d.cluster d.ctx d.share tag (v.slot0 + d.next * v.spf) bytes
    let (w, s) := s.hwWrite d.ctx (v.staddr + 8 * d.next) (statusWord f) none d.pageFails
    match w with
    | .wait h n => s.modDecode d.id (fun d => { d with token := some (h, n) })
    | .moving => s
    | .lost c => s.modDecode d.id (fun d => { d with ended := some c, pageFails := [] })
    | .done =>
      let s := if d.arr then s.engineArrive d.cluster d.ctx d.bar (v.spf * 4096) (!good) else s
      s.modDecode d.id (fun d =>
        { d with next := d.next + 1, pageFails := [], states := d.states ++ [f.state], bad := if good then d.bad else d.bad + 1
                 damaged := if f.state = 2 then d.damaged + 1 else d.damaged
                 last := if good then some (keepFrame bytes) else d.last })

def execDecodeFrame (decoder : Nat) (s : State) : Out :=
  .next (match s.decoding decoder with
    | some d => if d.ended.isSome || d.token.isSome || (VDesc.of d.desc).nframes ≤ d.next then s else s.decodeOne d
    | none => s)

/-- The completion word, then the record (R275). -/
def State.decodeDone (s : State) (d : Decode) : State :=
  let v := VDesc.of d.desc
  let status := d.ended.getD (if d.bad = 0 then 0 else POISON)
  let word := completionWord v.cwseq status (min d.damaged 65535 * 65536 + min d.bad 65535)
  match s.hwWrite d.ctx v.cwaddr word (some (s.stampOf d.cluster v.cwsc)) d.pageFails with
  | (.wait h n, s) => s.modDecode d.id (fun d => { d with token := some (h, n) })
  | (.moving, s) => s
  | (_, s) =>
    let s := { s with decodes := s.decodes.filter (fun x => x.id != d.id) }
    if d.ev then s.postEvent d.cluster d.ctx d.gid d.core d.bank status 1 v.nframes else s

def execVdecComplete (decoder : Nat) (s : State) : Out :=
  .next (match s.decoding decoder with
    | some d => if d.token.isNone && (d.ended.isSome || (VDesc.of d.desc).nframes ≤ d.next) then s.decodeDone d else s
    | none => s)

end Sys2Proof.Machine
end

