-- ==== Sys2Proof/Machine/Tasks.lean ====
section
/-!
DEFINITION. The task instructions (R303–R312, R419), gang launches as they issue (R437–R440), WINW (R392) and GSWAP (R404).
-/
namespace Sys2Proof.Machine

/-- aD receives a number at the end of the bundle. -/
def answer (y : Syl) (n : Nat) (s : State) : State := finishA y.dst (BitVec.ofNat 64 n) s

/-! ## SPAWN (R303) -/

/-- The group that SPAWN starts: the step's registers, with the spawner's eight arguments. -/
def State.spawned (s : State) (g : Group) (core argb : Nat) (entry : Word) : Group :=
  let base : Group := match s.share g.share with
    | some h => match s.task h.task with
      | some t => s.stepGroup t h g.step
      | none => {}
    | none => {}
  let origin := 1 + core % 4
  let rctr : Word := (base.rctr &&& ~~~ (7#64 <<< 21)) ||| BitVec.ofNat 64 (origin * 2 ^ 21)
  bothRegs 1 ((upTo 8).map (fun i => g.rdA (argb + i)))
    { base with
      gid := s.fresh, ctx := g.ctx, share := g.share, step := g.step, origin := origin, apc := entry, xpc := entry
      tvec := (s.ctx g.ctx).dtvec, rctr := rctr, seg := firstSeg entry rctr s.fresh }

/-- The share may hold one more group in its cluster. -/
def State.roomForGroup (s : State) (g : Group) : Bool :=
  match s.share g.share with
  | some h => match s.task h.task with
    | some t => s.groupRoom h t
    | none => true
  | none => true

def execSpawn (y : Syl) (s : State) : Out :=
  syllable (.spawn y) y (fun s =>
    let g := s.me
    let entry := g.rdA y.srca.toNat
    let (k, t) := readA y.srcb s
    let core := 4 * s.myCluster + k.toNat % 4
    let d := s.core core
    if entry.toNat % 8 ≠ 0 then raise ALIGN s
    else if (d.bank d.front).isSome || (d.bank (!d.front)).any (fun h => h.ctx != g.ctx) || !s.roomForGroup g then
      raise SPAWNBUSY s
    else
      let new := s.spawned g core (y.im 4 0) entry
      let t := (t.setBank core d.front (some new)).modCore core (fun k => { k with fetch := [] })
      { t.modShare g.share (fun h => { h with groups := h.groups ++ [new.gid] }) with fresh := s.fresh + 1 }) s

/-! ## TLAUNCH (R309) -/

/-- What a group's launch is made for (R306, R320). -/
def State.launchCause (s : State) (g : Group) : Cause :=
  match s.taskOf g with
  | some t => { root := some t.root, path := t.child.2.1, depth := t.child.2.2, parent := BitVec.ofNat 64 t.id }
  | none => { root := none, path := [], depth := 0 }

/-- One more launch of the group's task (R320). -/
def State.countLaunch (s : State) (g : Group) : State :=
  match s.taskOf g with
  | some t => s.modTask t.id (fun t => { t with ordinal := t.ordinal + 1 })
  | none => s

/-- How a block that leaves the share is asked for (R205, R309, R439). -/
def blockAsk : Ask := { need := Need.read, load := true, store := true, reads := true }

def execTlaunch (y : Syl) (s : State) : Out :=
  syllable (.tlaunch y) y (fun s =>
    let g := s.me
    let a := g.rdA y.srca.toNat
    (s.checks blockAsk (lineWants a 4 256) none).act s (fun ps =>
      if s.readsLater ps then stallWith (.freeze 8) s else
      let (bs, t) := s.loadBytes ps 64
      let t := t.countBytes g.ctx g.bufNo 256
      let b := Block.ofBytes bs
      if !t.blockValid g.ctx b then answer y 0 t
      else match t.launch g.ctx b a.toNat (t.launchCause g) with
        | none => raise WAITFULL s
        | some (id, t) => answer y id ((t.countLaunch g).escape g.share))) s

/-! ## TWAIT and TSTAT (R307, R310) -/

def State.liveTask (s : State) (ctx : Nat) (id : Word) : Option Task :=
  s.tasks.find? (fun t => t.live && t.id == id.toNat && t.ctx == ctx)

def State.sharesOf (s : State) (t : Task) : List Share := s.shares.filter (fun h => h.task == t.id)

/-- A share stands in no launch queue and no overflow ring. -/
def State.unqueue (s : State) (h : Share) : State :=
  (s.modCluster h.cluster (fun k => { k with launchQ := k.launchQ.filter (· != h.id) })).modCtx h.ctx
    (fun x => { x with ovf := x.ovf.filter (fun o => o.share != h.id) })

/-- The task's READY and WAITING shares move to the front of a cluster's launch queue, none if any finds no room (R307). -/
def State.adopt (s : State) (cl : Nat) : List Share → Option State
  | [] => some s
  | h :: rest =>
    match s.adopt cl rest with
    | none => none
    | some s =>
      ((s.unqueue h).modShare h.id (fun h => { h with cluster := cl, front := true, chosen := false, seatAt := none, heldBack := false })).placeFront cl h.id h.ctx

def Group.hold (x : Hold) (g : Group) : Group := { g with holds := g.holds ++ [x] }

def execTwait (y : Syl) (s : State) : Out :=
  syllable (.twait y) y (fun s =>
    let g := s.me
    match s.liveTask g.ctx (g.rdA y.srca.toNat) with
    | none => answer y 1 s
    | some t =>
      let ready := (s.sharesOf t).filter (fun h => h.state == .ready || h.state == .waiting)
      if ready.isEmpty then s.upd (Group.hold (.twait t.id y.dst.toNat))
      else match s.adopt s.myCluster ready with
        | none => answer y 0 (s.upd (Group.hold (.twait t.id y.dst.toNat)))
        | some u => answer y 0 (u.upd (Group.hold (.adopted t.id y.dst.toNat)))) s

/-- The word of TSTAT for a task in the table. -/
def State.taskState (s : State) (t : Task) : Nat :=
  let unended := (s.sharesOf t).filter (fun h => h.state != .ended)
  let live := unended.filter (fun h => !(h.state == .droppedS || h.state == .replaced))
  let st :=
    if live.any (fun h => h.state == .ready || h.state == .waiting) then 1
    else if !live.isEmpty && live.all (fun h => h.state == .running || h.state == .switched || h.state == .parked) then 2
    else 3
  st + bool1 t.dropped * 4 + unended.length % 128 * 2 ^ 16

def execTstat (y : Syl) (s : State) : Out :=
  syllable (.tstat y) y (fun s => answer y (((s.liveTask s.me.ctx (s.me.rdA y.srca.toNat)).map s.taskState).getD 0) s) s

/-- An adopted parent is saved at the quiet boundary after TWAIT, if the overflow area has a unit; else it waits where it
stands, or goes on where the task has completed meanwhile (R307). -/
def State.saveParent (s : State) (c : Nat) : State :=
  match s.front c with
  | none => s
  | some g =>
    match g.holds.filterMap (fun h => match h with
        | .adopted t rd => some (t, rd)
        | _ => none) with
    | [] => s
    | (t, rd) :: _ =>
      if !(g.quiet && g.between && g.hist.isEmpty) || !(s.cluster (c / 4)).outbound.all (fun a => a.gid != g.gid) then s
      else if (s.ctx g.ctx).wovfFree = 0 then
        let live := s.tasks.any (fun x => x.id == t && x.live)
        s.modBank c (s.core c).front (fun g =>
          { g with holds := g.holds.filter (fun h => h != .adopted t rd) ++ (if live then [.twait t rd] else []) })
      else
        let s := s.modCtx g.ctx (fun x => { x with wovfUsed := x.wovfUsed + 1 })
        let moved := fun (h : Share) => h.task = t ∧ h.cluster = c / 4 ∧ h.front = true ∧ (h.state = .ready ∨ h.state = .waiting)
        let s := { s with shares := s.shares.map (fun h => if moved h then { h with seatAt := some c } else h) }
        (s.modCore c (fun k => { (k.setBank k.front none) with parents := k.parents ++ [g] })).bankFreed c

/-- A TWAIT that stopped with its group issues again once the group is back (R312). -/
def State.reTwait (s : State) (c : Nat) : State :=
  match s.front c with
  | none => s
  | some g =>
    match g.holds.filterMap (fun h => match h with
        | .retwait t rd => some (t, rd)
        | _ => none) with
    | [] => s
    | (t, rd) :: _ =>
      let put := fun (h : List Hold) (w : List Word) (s : State) => s.modBank c (s.core c).front (fun g =>
        w.foldl (fun g x => g.wrA rd x) { g with holds := g.holds.filter (fun h => h != .retwait t rd) ++ h })
      match s.tasks.find? (fun x => x.id == t && x.live) with
      | none => put [] [1] s
      | some task =>
        let ready := (s.sharesOf task).filter (fun h => h.state == .ready || h.state == .waiting)
        if ready.isEmpty then put [.twait t rd] [] s
        else match s.adopt (c / 4) ready with
          | none => put [.twait t rd] [0] s
          | some u => put [.adopted t rd] [0] u

/-- The group without the hold of a task that has completed. -/
def Group.resume (g : Group) : Group := { g with holds := [], frozenAt := none }

/-- The task that a saved parent waits on. -/
def Group.adoptedTask (g : Group) : Option Nat :=
  (g.holds.filterMap (fun h => match h with
    | .adopted t _ => some t
    | _ => none)).head?

/-- A saved group may return: its context holds the cluster, its share runs, and the core is not about to be scanned. -/
def State.mayReturn (s : State) (c : Nat) (g : Group) : Bool :=
  (s.cluster (c / 4)).ctx == some g.ctx && (s.share g.share).all (fun h => h.state == .running) && (s.core c).eclipse == .idle
    && (s.core c).eclSaved.isNone && !(s.core c).eclDue

/-- A saved parent whose task has completed, or a spilled group whose line has changed, returns to an empty bank of its
core, ahead of other shares (R307, R324, R325). -/
def execParentRestore (core : Nat) (s : State) : Out :=
  .next (
    let k := s.core core
    match k.emptyBank with
    | none => s
    | some _ =>
      match k.parents.find? (fun g => s.mayReturn core g && g.adoptedTask.all (fun t => !((s.task t).map (·.live)).getD false)) with
      | some g =>
        let s := (s.modCore core (fun k => { k with parents := k.parents.filter (fun h => h.gid != g.gid) })).modCtx g.ctx
          (fun x => { x with wovfUsed := x.wovfUsed - 1 })
        (s.seat core g.resume).getD s
      | none =>
        match k.spilled.find? (fun g => g.woken && s.mayReturn core g) with
        | some g =>
          let s := s.modCore core (fun k => { k with spilled := k.spilled.filter (fun h => h.gid != g.gid) })
          (s.seat core g).getD s
        | none => s)

/-! ## Operand-store allocations (R304) -/

def execSpalloc (y : Syl) (s : State) : Out :=
  syllable (.spalloc y) y (fun s =>
    let g := s.me
    let (size, t) := readA y.srca s
    let id := y.im 3 0
    let n := (size.toNat + 4095) / 4096
    if size = 0 then finishA y.dst (BitVec.allOnes 64) t
    else match s.share g.share, s.taskOf g with
      | some h, some task =>
        match h.allocs.find? (fun a => a.1 == id) with
        | some a => if a.2.2 = n then answer y (4096 * a.2.1) t else t.abortShare h.id
        | none => match h.findRun task.block n with
          | none => t.abortShare h.id
          | some first =>
            let t := t.modShare h.id (fun h => { h with allocs := h.allocs ++ [(id, first, n)] })
            let t := (upTo n).foldl (fun t i =>
              t.setTag t.myCluster (first + i) { t.tag t.myCluster (first + i) with valid := false, poison := false }) t
            answer y (4096 * first) t
      | _, _ => t) s

def execSpfree (y : Syl) (s : State) : Out :=
  syllable (.spfree y) y (fun s =>
    s.modShare s.me.share (fun h => { h with allocs := h.allocs.filter (fun a => a.1 != y.im 3 0) })) s

/-! ## YIELD, FUSE, DECPL, REJOIN (R305, R311) -/

def execYield (y : Syl) (s : State) : Out := syllable (.yield y) y (fun s => s.upd (fun g => { g with yieldReq := true })) s

def execDecpl (y : Syl) (s : State) : Out :=
  syllable (.decpl y) y (fun s => s.upd (fun g =>
    if g.gstat.fused then { g with decplReq := g.decplReq.or (some g.bundles) } else g)) s

/-- A member that has asked to fuse goes back to its bundle, to trap there at slot 7 (R305). -/
def Group.unfuse (g : Group) : Group :=
  match g.fuseHold with
  | none => g
  | some (_, a, _) =>
    { g with apc := a, midA := true, slotA := 7, trapPend := g.trapPend.or (some (ILLOP, true, 7))
             holds := g.holds.filter (fun h => match h with
               | .fuse _ _ _ => false
               | _ => true) }

/-- The members of a set that have asked to fuse trap (R305). -/
def State.unfuse (s : State) (cs : List Nat) : State :=
  cs.foldl State.takeTrap (cs.foldl (fun s k => (s.modBank k (s.core k).front Group.unfuse)) s)

/-- Every member that has asked to fuse traps; the syllable under way traps where it stands. -/
def State.fuseFails (s : State) (cs : List Nat) : State :=
  raise ILLOP (s.unfuse (cs.filter (fun k => k != s.here.core)))

/-- The front groups of the set are not all of one share. -/
def State.fuseMixed (s : State) (cs : List Nat) (share : Nat) : Bool := cs.any (fun k => (s.front k).any (fun p => p.share != share))

/-- A group that waits to fuse, and the others that do, trap at once when a partner's front group is of another share
(R305). -/
def State.fuseBreach (s : State) (c : Nat) : State :=
  match s.front c with
  | none => s
  | some g => match g.fuseHold with
    | some (fw, _, _) => if s.fuseMixed (fusionSet c fw) g.share then s.unfuse (fusionSet c fw) else s
    | none => s

/-- FUSE, or a REJOIN that acts: the group waits for the others of its set (R305). -/
def fuseForm (fw : BitVec 2) (rejoin : Bool) (s : State) : State :=
  let c := s.here.core
  let g := s.me
  let cs := fusionSet c fw
  let partners := (cs.filter (· != c)).filterMap s.front
  let all := partners.length + 1 == cs.length && partners.all (fun p => p.fuseHold.isSome)
  let agree := !g.gstat.fused && partners.all (fun p =>
    !p.gstat.fused && p.fuseHold == some (fw, s.here.addr, rejoin))
  if s.fuseMixed cs g.share || (all && !agree) then s.fuseFails cs
  else
    let s := s.upd (Group.hold (.fuse fw s.here.addr rejoin))
    if rejoin then s.modCluster (c / 4) (fun k => { k with fusion := k.fusion ||| BitVec.twoPow 4 (c % 4) }) else s

def execFuse (y : Syl) (s : State) : Out := syllable (.fuse y) y (fuseForm (BitVec.ofNat 2 (y.im 1 0)) false) s

def execRejoin (y : Syl) (s : State) : Out :=
  syllable (.rejoin y) y (fun s =>
    let st := s.me.gstat
    if !st.fused && st.fwidth ≠ 0 then fuseForm st.fwidth true s else s) s

/-- Every member has asked for the same fusion, and its execute stream has issued every earlier bundle: lock-step begins
(R48, R305). -/
def State.joinFusion (s : State) (c : Nat) : State :=
  match (s.front c).bind Group.fuseHold with
  | none => s
  | some (fw, a, r) =>
    let cs := fusionSet c fw
    let ready := cs.all (fun k => match s.front k with
      | some g => g.fuseHold == some (fw, a, r) && g.hist.isEmpty && !g.gstat.fused && g.trapPend.isNone && !g.midA
      | none => false)
    if !ready then s
    else
      let s := (cs.zip (upTo cs.length)).foldl (fun s k => s.modBank k.1 (s.core k.1).front (fun g =>
        { g with
          gstat := { g.gstat with fused := true, fwidth := fw, fidx := BitVec.ofNat 2 k.2 }
          frozenAt := none
          holds := g.holds.filter (fun h => match h with
            | .fuse _ _ _ => false
            | _ => true) })) s
      s.modCluster (c / 4) (fun k => { k with fusion := cs.foldl (fun f i => f &&& ~~~ BitVec.twoPow 4 (i % 4)) k.fusion })

def execFusionJoin (core : Nat) (s : State) : Out := .next (s.joinFusion core)

/-! ## SEGE and RDV (R419) -/

/-- SEGE: its bundle's issue has met the streams and written the record (R45, R46). -/
def execSege (y : Syl) (s : State) : Out := syllable (.sege y) y id s

def execRdv (y : Syl) (s : State) : Out :=
  syllable (.rdv y) y (fun s =>
    (s.modCore s.here.core (Core.clearRewind s.me.gid)).upd (Group.hold (.rdv (BitVec.ofNat 4 (y.im 3 0))))) s

/-! ## WINW and GSWAP (R392, R404) -/

/-- Reserved bits of a window's four words are zero, and LIMIT ≥ BASE. -/
def windowOk (a b c d : Nat) : Bool :=
  field a 63 56 == 0 && field a 15 0 == 0 && field b 63 56 == 0 && field b 15 0 == 0 && field c 63 52 == 0 && field c 15 0 == 0
    && field d 63 6 == 0 && field a 55 16 ≤ field b 55 16

def Window.ofWords (a b c d : Nat) : Window :=
  { base := BitVec.ofNat 40 (field a 55 16), limit := BitVec.ofNat 40 (field b 55 16), xlat := BitVec.ofNat 36 (field c 51 16)
    host := bit d 5, so := bit d 4, x := bit d 3, w := bit d 2, r := bit d 1, en := bit d 0 }

/-- Window `w` overlaps an enabled window of the context other than `n`. -/
def Ctx.windowClash (x : Ctx) (n : Nat) (w : Window) : Bool :=
  w.en && (upTo 16).any (fun i => i != n &&
    (let v := Tab.get {} x.win i
     v.en && v.low ≤ w.high && w.low ≤ v.high))

def execWinw (y : Syl) (s : State) : Out :=
  syllable (.winw y) y (privileged (fun s =>
    let g := s.me
    let a := g.rdA y.srca.toNat
    let q : Ask := { need := Need.read, load := true, reads := true }
    (s.checks q [{ addr := a, len := 32, en := allBytes 32, aligned := a.toNat % 32 == 0 }] none).act s (fun ps =>
      if s.readsLater ps then stallWith (.freeze 8) s else
      let (bs, s) := s.loadBytes ps 32
      let s := s.countBytes g.ctx g.bufNo 32
      let r := fun i => bytesAt bs (8 * i) 8
      let w := Window.ofWords (r 0) (r 1) (r 2) (r 3)
      if !windowOk (r 0) (r 1) (r 2) (r 3) then answer y 2 s
      else if (s.ctx g.ctx).windowClash (y.im 3 0) w then answer y 1 s
      else answer y 0 (s.modCtx g.ctx (fun x => { x with win := Tab.set {} x.win (y.im 3 0) w }))))) s

/-! ## GLAUNCH and GCOMMIT (R437–R440) -/

/-- Members of a gang descriptor; none when a field is reserved or out of range, or a member stands twice. -/
def gangMembers (bs : List Byte) : Option (Nat × List Nat) :=
  let n := bytesAt bs 0 1
  let lead := bytesAt bs 8 4
  let ms := (upTo n).map (fun i => bytesAt bs (0x40 + 2 * i) 2)
  if bytesAt bs 1 7 != 0 || bytesAt bs 0x0C 52 != 0 || bytesAt bs 0x7E 2 != 0 || n == 0 || 31 < n || lead < 10000 || 10000000 < lead
      || ms.any (1024 ≤ ·) || ms.dedup.length != ms.length then none
  else some (lead, ms)

/-- A member can be reached: this device, or one with a route (R432). -/
def State.reachable (s : State) (d : Nat) : Bool :=
  d == s.board.devid.toNat || s.routed d

def execGlaunch (y : Syl) (s : State) : Out :=
  syllable (.glaunch y) y (fun s =>
    let g := s.me
    let a := g.rdA y.srca.toNat
    let d := g.rdA y.srcb.toNat
    (s.checks blockAsk (lineWants a 4 256 ++ lineWants d 2 128) none).act s (fun ps =>
      if s.readsLater ps then stallWith (.freeze 8) s else
      let (bs, s) := s.loadBytes ps 64
      let s := s.countBytes g.ctx g.bufNo 384
      let b := Block.ofBytes (bs.take 256)
      let x := s.ctx g.ctx
      match gangMembers (bs.drop 256) with
      | none => answer y 0 s
      | some (lead, ms) =>
        if !s.blockValid g.ctx b || b.divisible || !ms.all s.reachable || 16 ≤ x.gangs.length then answer y 0 s
        else
          let count := nextCount x.launches
          let id := g.ctx * 2 ^ 58 + count
          let r : GangRec := { id := id, members := ms, lead := lead, block := bs.take 256, sentAt := s.time, cluster := s.myCluster, ctx := g.ctx }
          let s := s.modCtx g.ctx (fun x => { x with launches := count, gangs := x.gangs ++ [r] })
          let s := ms.foldl (fun s m => s.sendTo m (.arm m id g.ctx (bs.take 256))) s
          answer y id ((s.countLaunch g).escape g.share))) s

def execGcommit (y : Syl) (s : State) : Out :=
  syllable (.gcommit y) y (fun s =>
    let g := s.me
    let id := (g.rdA y.srca.toNat).toNat
    let drop := y.imm.getLsbD 0
    match (s.ctx g.ctx).gangs.find? (fun r => r.id == id) with
    | none => answer y 1 s
    | some r =>
      match r.status with
      | none => answer y 2 s
      | some 0 =>
        let s := s.modCtx g.ctx (fun x => { x with gangs := x.gangs.map (fun q =>
          if q.id = id then { q with commitAck := [], commitDrop := drop, commitAt := some s.time } else q) })
        (r.members.foldl (fun s m => s.sendTo m (.commit m id drop)) s).upd (Group.hold (.gcommit id y.dst.toNat))
      | some _ => answer y 1 (s.modCtx g.ctx (fun x => { x with gangs := x.gangs.filter (fun q => q.id != id) }))) s

end Sys2Proof.Machine
end

