-- ==== Sys2Proof/Machine/Streams.lean ====
section
/-!
DEFINITION. What happens to a core's streams between bundles: fetches (R57, R58, R447), landings (R31, R34), the taking
of a trap (R35), the group switch (R43), YIELD and DECPL at their boundary (R50, R311), stops that are asked for (R42),
the rewind (R46) and the refill of the random-bit queue (R118).
-/
namespace Sys2Proof.Machine

/-! ## Instruction lines (R57, R58, R447) -/

/-- The bundle that the access stream is to issue next, once the outcome that it waits for is there (R29, R96). -/
def Group.nextA (g : Group) : Option Word :=
  if g.endA then none
  else if !g.awaitBqe then some g.apc
  else match g.qs.bqe with
    | [] => none
    | o :: _ => if o.isEnd then none else if o.taken then some o.target else some g.apc

/-- The bundle that the execute stream is to issue next, if the access stream has issued it (R28). -/
def Group.nextX (g : Group) : Option Word := if g.endedX || (g.hist.isEmpty && g.slotX == 0) then none else some g.xpc

/-- The line that a bundle at an address still lacks in the fetch buffer of core `c`. -/
def State.lacks (s : State) (c : Nat) (a : Option Word) : List Nat :=
  match a with
  | none => []
  | some a => match s.bundle c a with
    | .missing n => [missingLine a n]
    | _ => []

/-- The lines that the streams of core `c` need for their next bundles (R447). -/
def State.demanded (s : State) (c : Nat) : List Nat :=
  match s.front c with
  | some g => s.lacks c g.nextA ++ s.lacks c g.nextX
  | none => []

/-- A fetch buffer with room for one more of its eight lines; none when every line waits for page service. -/
def makeRoom (pick : Nat) (l : List FLine) : Option (List FLine) :=
  if l.length < 8 then some l
  else
    let old := l.filter (fun x => x.token.isNone)
    match old[pick % max 1 old.length]? with
    | some x => some (l.filter (fun y => y.va != x.va))
    | none => none

/-- The line enters the buffer, in place of another when it is full: which one, the spec does not say. -/
def State.putLineF (s : State) (c : Nat) (x : FLine) : State :=
  match makeRoom (Config.choice s.free) ((s.core c).fetch.filter (fun y => y.va != x.va)) with
  | some l => { s.modCore c (fun k => { k with fetch := l ++ [x] }) with free := s.free + 1 }
  | none => s

/-- A fetch performs: on demand, or ahead and then abandoned where it would need service or cannot be made (R447). A line of
register space holds no code (log 135). -/
def State.fetchLine (s : State) (c va : Nat) (ahead : Bool) : State :=
  match s.front c with
  | none => s
  | some g =>
    let fails := if ahead then s else s.putLineF c { va := va, data := none, failed := true }
    if (s.core c).fetch.any (fun l => l.va == va && (l.data.isSome || l.failed || l.token.isSome)) then s
    else match s.reach g.ctx g.gstat.mode Need.fetch va with
      | .dev p =>
        if regionKind p = 2 then fails
        else if tagged p && (s.cellOf (p / 64) != cVALUE || (s.lineMeta (p / 64)).poison) then fails
        else
          let s := match s.place g.ctx g.gstat.mode Need.fetch va with
            | some (.dev off) => s.learn g.ctx off
            | _ => s
          let (bs, s) := s.codeRead p
          s.putLineF c { va := va, data := some (lineOf bs) }
      | .host a => s.putLineF c { va := va, data := some (lineOf (memBytes s.host a 64)) }
      | .wait h page =>
        if ahead then s
        else
          let (n, s) := s.pageFault h g.ctx page 3
          s.putLineF c { va := va, data := none, token := some (h, n) }
      | .moving => s
      | .fail _ => fails

def execLineFetch (core va : Nat) (s : State) : Out :=
  .next (
    let c := s.fetcher core
    if (s.members core).any (fun k => (s.demanded k).contains va) then s.fetchLine c va false else s)

def execFetchAhead (core va : Nat) (s : State) : Out :=
  .next (if va % 64 = 0 then s.fetchLine (s.fetcher core) va true else s)

/-! ## Landings (R31, R32, R34, R98) -/

def Flight.isQueue (f : Flight) : Bool :=
  match f.dst with
  | .queue _ _ => true
  | _ => false

/-- The queue entries due first receive their data; the latches and registers keep their execute cycles. -/
def Group.landEntries (g : Group) : Group :=
  let l := (g.flight ++ g.snap).filter Flight.isQueue
  let first := l.foldl (fun m f => min m f.left) 1000
  let due := fun (f : Flight) => f.isQueue && f.left == first
  let g := (l.filter due).foldl (fun g f => match f.dst with
    | .queue q id => g.fill q id (if q = 6 then zx (lo64 (f.val &&& f.en)) else f.val &&& f.en)
    | _ => g) g
  let done := fun (f : Flight) => if due f then { f with dst := .latch } else f
  { g with flight := g.flight.map done, snap := g.snap.map done }

/-- An execute cycle passes in which no bundle issues. While each stream waits for the other, only entries land. -/
def State.landing (s : State) (c : Nat) : State :=
  let cs := s.members c
  match s.front c with
  | none => s
  | some g =>
    if g.dead.isSome then s
    else if g.endedX || cs.any s.held then s.idleCycle cs
    else if s.freezeX1 c = 9 && s.freezeA1 c = 1 then s.modBank c (s.core c).front Group.landEntries
    else s

def execResultLanding (core : Nat) (s : State) : Out := .next (s.landing core)

/-! ## Traps (R35) -/

/-- A pending trap is taken once the other stream has stopped. -/
def execTrapEntry (core : Nat) (s : State) : Out := .next ((s.members core).foldl State.takeTrap s)

/-! ## The group switch (R43) -/

/-- The BWAIT that the next bundle of the access stream waits at: barrier and phase. -/
def State.waitedBarrier (s : State) (c : Nat) (g : Group) : Option (Nat × Bool) :=
  (s.bwaits c g).head?.map (fun b => (b, (s.bar (c / 4) g.ctx b).phase))

/-- The group is frozen on a cell, a barrier, a REJOIN or in PAGEFAULT_PENDING; a TWAIT counts as a barrier (R43, R307). -/
def State.switchable (s : State) (c : Nat) (g : Group) : Bool :=
  g.pageWait.isSome || g.parked.isSome || s.lateWait c g || (s.waitedBarrier c g).isSome
    || (s.core (s.fetcher c)).fetch.any (fun l => l.token.isSome && (s.demanded c).contains l.va)
    || g.holds.any (fun h => match h with
      | .fuse _ _ rejoin => rejoin
      | .twait _ _ => true
      | .barrier b ph => (s.bar (c / 4) g.ctx b).phase == ph
      | _ => false)

/-- The shadow bank holds a group that can issue. -/
def State.shadowReady (s : State) (c : Nat) : Bool :=
  let k := s.core c
  match k.bank (!k.front) with
  | some g => !g.ended && g.dead.isNone && s.waits c g == 0
  | none => false

/-- What a group that leaves the front still waits for: its pending access, its entry in the wait table, its barrier, its task. -/
def State.leaveFront (s : State) (c : Nat) (rewind : Bool) : State :=
  match s.front c with
  | none => s
  | some g =>
    let b := (s.core c).front
    let bar := s.waitedBarrier c g
    let ents := (s.cluster (c / 4)).wait.filter (fun w => w.gid == g.gid && !w.spilled)
    let s := if rewind then
        -- the entry of an access that the rewind has dropped goes with it
        (s.rewindOne c b).modCluster (c / 4) (fun k =>
          let live := fun (w : WaitEnt) => w.acc.all (fun id => k.outbound.any (fun a => a.id == id))
          let kept := k.wait.filter (fun w => !ents.contains w) ++ ents.filter live
          { k with wait := kept })
      else s
    s.modBank c b (fun h => Group.stopTwait
      { h with
        pageWait := g.pageWait
        parked := g.parked
        holds := match bar with
          | some (n, ph) => h.holds.filter (fun x => x != .barrier n ph) ++ [.barrier n ph]
          | none => h.holds })

/-- The front group of the core has been frozen for more than 2 µs, as a whole if it is fused. Between a non-idempotent operation
and the segment entry after it, away from a quiet boundary, R44 forbids the rewind that R43 asks for: the switch waits for that
entry, in a handler too (log 126). -/
def State.switchDue (s : State) (c : Nat) : Bool :=
  s.members c == s.fusedSet c && (s.members c).any (fun k => match s.front k with
    | some g => g.frozenAt.any (fun t => t + 2000 < s.time) && s.switchable k g && (g.quiet || !g.entering)
    | none => false)

/-- The switch of a group frozen for more than 2 µs, in every member of a fused group or in none (R43, R51). -/
def State.groupSwitch (s : State) (c : Nat) : State :=
  let cs := s.switchSet c
  if !cs.all s.switchDue || !cs.all s.shadowReady then s
  else
    let quiet := cs.all (fun k => (s.front k).all (fun g => g.quiet && g.between))
    let s := cs.foldl (fun s k => s.leaveFront k (!quiet)) s
    cs.foldl State.exchange s

def execGroupSwitch (core : Nat) (s : State) : Out := .next (s.groupSwitch core)

/-- A rewind before a frozen group is removed away from a quiet boundary: one asked to leave, or due for a switch (R47). An
uncorrectable error rewinds by its own event (R413). -/
def execRewind (core : Nat) (bank : Bool) (s : State) : Out :=
  .next (if (s.bank core bank).any (fun g => !(g.quiet && g.between)) && (s.stopAsked core || s.switchDue core)
      && s.bankStopped core bank then s.rewindBank core bank else s)

/-! ## Boundaries of the execute stream (R41, R42, R50, R311) -/

/-- Every member stands at a quiet boundary of the execute stream, and its access stream between bundles. -/
def State.quietAll (s : State) (cs : List Nat) : Bool := cs.all (fun k => (s.front k).all (fun g => g.quiet && g.between))

/-- YIELD at its boundary: the exchange where it would act in every member, else nothing (R311). -/
def State.doYield (s : State) (c : Nat) : State :=
  let cs := s.members c
  if cs.any (fun k => (s.front k).any (·.yieldReq)) && s.quietAll cs then
    let acts := cs == s.fusedSet c && (s.switchSet c).all cs.contains && cs.all (fun k =>
      let d := s.core k
      match d.bank d.front, d.bank (!d.front) with
      | some g, some h => g.yieldReq && h.ctx == g.ctx && s.shadowReady k
      | _, _ => false)
    let s := s.each cs (fun _ _ g => { g with yieldReq := false })
    if acts then cs.foldl State.exchange s else s
  else s

/-- DECPL at its boundary: all the members part, each with a fetch buffer of its own; while one runs a handler there is no
such boundary. Each member's execute stream has issued the DECPL bundle (R49, R50). -/
def State.doDecpl (s : State) (c : Nat) : State :=
  let cs := s.fusedSet c
  if cs == s.members c && cs.any (fun k => (s.front k).any (fun g => g.decplReq.isSome)) && s.quietAll cs
      && cs.all (fun k => (s.front k).all (fun g => g.decplReq.all (fun n => n + g.hist.length ≤ g.bundles))) then
    let s := s.each cs (fun _ _ g => { g with decplReq := none, gstat := { g.gstat with fused := false } })
    (cs.drop 1).foldl (fun s k => s.modCore k (fun d => { d with fetch := [] })) s
  else s

/-- What happens to the front group of core `c` between two bundles. -/
def State.boundary (s : State) (c : Nat) : State :=
  let s := s.doErr c
  let s := if s.stopAsked c then s else s.reTwait c
  (((s.saveParent c).doYield c).doDecpl c).fuseBreach c

/-- A group asked to stop issues nothing more once its execute stream has reached a quiet boundary (R42). -/
def State.mustStop (s : State) (c : Nat) (access : Bool) : Bool :=
  let cs := s.members c
  cs.any s.stopAsked && (cs.all (fun k => (s.front k).all (fun g => g.quiet && (g.between || !access)))
    || cs.any (fun k => (s.front k).any (fun g => s.stopHard g && (if access then g.between else g.slotX == 0))))

/-! ## The random-bit queue (R118) -/

/-- The counter of the word `n` places ahead: only WORD counts, modulo 2^21. -/
def rctrAhead (r : Word) (n : Nat) : Word := putField r 20 0 ((field r.toNat 20 0 + n) % 2 ^ 21)

def Ctx.rkey (x : Ctx) : Nat := x.rkey1.toNat * 2 ^ 64 + x.rkey0.toNat

/-- The next word enters the front group's queue, which holds up to eight. -/
def execRbqRefill (core : Nat) (s : State) : Out :=
  .next (match s.front core with
    | none => s
    | some g =>
      if 8 ≤ g.rbq.length then s
      else
        let w := randomWord (s.ctx g.ctx).rkey (rctrAhead g.rctr g.rbq.length)
        s.modBank core (s.core core).front (fun g => { g with rbq := g.rbq ++ [w] }))

end Sys2Proof.Machine
end

