-- ==== Sys2Proof/Machine/Service.lean ====
section
/-!
DEFINITION. The H-dies at work: LLC fills and victims (R129, R198), residency handles (R217–R219), page service
(R395–R398), invalidation (R394), migration (R399, R401, R402), the commons split (R196), hotness counters (R221), and
the requests of other devices at this device's memory (R199, R331, R401).
-/
namespace Sys2Proof.Machine

/-! ## Fills (R198) -/

/-- The read counts for which accesses on their way, STNT apart, and the next elements of copies want the line (R198, R210,
R215). -/
def State.wants (s : State) (ln : Nat) : List (Option Nat) :=
  let at' := fun (r : Page) => match r with
    | .ok p => p / 64 == ln
    | _ => false
  s.clusters.flatMap (fun k =>
    (k.2.outbound.filter (fun a => !a.done && a.kind != .storeNt && a.pieces.any (fun p => match p.place with
      | .dev off => at' (s.phys a.ctx off a.kind.writes)
      | _ => false))).map (fun a => match a.kind with
        | .loadRc n => some n
        | _ => none)
    ++ (k.2.copies.filter (fun c => c.started && !c.moved && !c.sos && c.merge.isNone && !c.gather &&
      (match s.reach c.ctx c.smode Need.read (sideAddr c.src (c.sh.index c.next) c.sh.ss).toNat with
      | .dev p => p / 64 == ln
      | _ => false))).map (fun c => if c.rc = 0 then none else some c.rc))

/-- A miss fills the line that an access is on its way to, once its set has given up its victims: for the first that wants
it, with the read count of that one. -/
def execLlcMissFill (line : Nat) (s : State) : Out :=
  .next (match s.wants line with
    | rc :: _ =>
      if (s.cached line).isNone && tagged (64 * line) && s.populated (64 * line) then
        ((s.fillLine line rc).usedLine line).spillLine line
      else s
    | [] => s)

/-! ## RHNEW and RHSET (R218, R219) -/

/-- The range maps to HBM or park-tier memory of this device. -/
def State.tensorHome (s : State) (ctx base len : Nat) : Bool :=
  match s.tensorOff ctx base len with
  | some off => (upTo 2).all (fun i => regionKind (off + i * (len - 1)) == 0)
      && isHbm off == isHbm (off + len - 1)
  | none => false

def execRhnew (y : Syl) (s : State) : Out :=
  syllable (.rhnew y) y (fun s =>
    let g := s.me
    let (base, len, t) := readA2 y.srca y.srcb s
    let x := s.ctx g.ctx
    let b := base.toNat
    let n := len.toNat
    if b % 65536 ≠ 0 || n % 65536 ≠ 0 || n = 0 then raise ALIGN s
    else if 2 ^ 56 ≤ b || !((x.windowAt b).any (fun w => b + n - 1 ≤ w.high && w.admits g.gstat.mode {})) then raise WINFAULT s
    else
      let clash := x.handles.any (fun h => h.2.used && b < h.2.base + h.2.len && h.2.base < b + n)
      match least (fun i => !(Tab.get {} x.handles i).used) 64 with
      | some i =>
        if clash || 2 ^ 40 < n || !s.tensorHome g.ctx b n then finishA y.dst (BitVec.allOnes 64) t
        else
          answer y i (t.modHandle g.ctx i (fun _ => { used := true, base := b, len := n, prio := BitVec.ofNat 3 (y.im 2 0) }))
      | none => finishA y.dst (BitVec.allOnes 64) t) s

/-- A free frame of a kind and size from the pool of an H-die, fit for a page. -/
def State.takeFrame (s : State) (h kind page size : Nat) : Option (Nat × State) :=
  let code := if size = 4096 then 0 else if size = 65536 then 1 else if size = 2 ^ 21 then 2 else 3
  match (s.hdie h).pool.find? (fun f => f.1 == kind && f.2.1 == code && s.frameOk page f.2.2 size) with
  | some f => some (f.2.2, s.modHdie h (fun d => { d with pool := d.pool.filter (fun x => x != f) }))
  | none => none

/-- A range of an enabled format window's encoded or AUX bytes meets a frame (R131). -/
def State.windowRange (s : State) (h frame size : Nat) : Bool :=
  (s.hdie h).fwin.any (fun e => e.2.en && (meetsRange frame size e.2.encAt e.2.encBytes || meetsRange frame size e.2.auxAt e.2.auxBytes))

/-- Where the entry of a mapped offset stands: the first of sixteen for a 64 KiB page. -/
def State.entryAddr (s : State) (off : Nat) : List Nat → Nat → Nat
  | [], t => t
  | sh :: rest, t =>
    let a := t + 8 * (off / 2 ^ sh % (if sh = 39 then 8 else 512))
    let e := s.wordNow a
    if sh = 12 then (if pteP64 e then t + 8 * (off / 65536 * 16 % 512) else a)
    else if pteLeaf e then a
    else s.entryAddr off rest (pteFrame e)

/-- A page begins to move to a frame (R401). -/
def State.startMove (s : State) (e : TlbEnt) (dst freed : Nat) (handle : Option (Nat × Nat)) : State :=
  let h := ownerOf e.page
  let pte := s.entryAddr e.page [39, 30, 21, 12] (ptroot (s.ctx e.ctx) h)
  s.modHdie h (fun d => { d with migr := d.migr ++
    [{ ctx := e.ctx, page := e.page, size := e.size, src := e.frame, dst := dst, pte := pte, freed := freed, handle := handle }] })

/-- The next page of a handle's action: none when every page stands in its tier, or no frame is left (R219, R399). -/
def State.moveNext (s : State) (ctx n : Nat) : Option State :=
  let h := s.handle ctx n
  let demote := h.act == 2
  let todo := (s.tensorPages ctx h).filter (fun e =>
    (if demote then isHbm e.frame else isPark e.frame) && (s.migrOf ctx e.page).isNone && !s.windowRange (ownerOf e.page) e.frame e.size)
  match todo with
  | [] => none
  | e :: _ => (s.takeFrame (ownerOf e.page) (if demote then 1 else 0) e.page e.size).map (fun f =>
      f.2.startMove e f.1 6 (some (ctx, n)))

def State.moving (s : State) (ctx n : Nat) : Bool := s.hdies.any (fun d => d.2.migr.any (fun m => m.handle == some (ctx, n)))

def execRhset (y : Syl) (s : State) : Out :=
  syllable (.rhset y) y (fun s =>
    let g := s.me
    let (a, t) := readA y.srca s
    let n := a.toNat
    let h := s.handle g.ctx n
    let act := y.im 3 0
    let pend := (s.mine s.here.core g.gid).map (·.id)
    if 64 ≤ n || !h.used then answer y 1 t
    else if act = 6 then
      answer y ((if h.act = 0 then 0 else 2) + bool1 ((s.tensorPages g.ctx h).any (fun e => isPark e.frame)) * 256) t
    else if h.act ≠ 0 then answer y 2 t
    else match act with
      | 0 => answer y 0 (t.modHandle g.ctx n (fun h => { h with prio := BitVec.ofNat 3 (y.im 6 4) }))
      | 5 => answer y 0 (t.modHandle g.ctx n (fun _ => {}))
      | _ =>
        let t := t.modHandle g.ctx n (fun h => { h with act := act, core := s.here.core, after := pend })
        answer y 0 (if act = 2 ∨ act = 3 then (t.moveNext g.ctx n).getD t else t)) s

/-- A line of a dropped tensor: what it held may have been written back before, or may not (R219). -/
def State.dropChoice (s : State) (ln : Nat) : State :=
  let t := { s with free := s.free + 1 }
  if Config.choice s.free = 0 then t.dropLine ln else t.evictLine ln

/-- A background action finishes; a migration takes its next page, and ends when there is none (R219). -/
def execRhsetActionDone (ctx handle : Nat) (s : State) : Out :=
  .next (
    let h := s.handle ctx handle
    let idle := fun (s : State) => s.modHandle ctx handle (fun h => { h with act := 0, after := [] })
    match h.act with
    | 1 => idle (s.evictLines (s.tensorLines ctx h))
    | 4 => if h.after.all (s.performed h.core) then idle ((s.tensorLines ctx h).foldl State.dropChoice s) else s
    | 0 => s
    | _ => if s.moving ctx handle then s else (s.moveNext ctx handle).getD (idle s))

/-! ## Requests of other devices (R199, R246, R331, R401) -/

def remoteKind : RemoteOp → AccKind
  | .load => .load
  | .store => .store
  | .storeNt => .storeNt
  | .loadRc n => .loadRc n
  | .amo op w8 => .amo op w8
  | .cas w8 e => .cas w8 e
  | .bank op ty => .bank op ty
  | .rres => .rres
  | .rpub i => .rpub i
  | .ringvoid i => .ringvoid i
  | .arrival n p => .barv 0 0 n p

def remotePieceOf (r : RemoteReq) : Piece :=
  { place := .dev r.off, va := r.off, len := r.len, off := 0, en := r.en, whole := r.whole }

/-- The request as an access of no group or share of this device; units of its line that follow stand for themselves (R215). -/
def remoteAcc (r : RemoteReq) (gid : Nat) : Acc :=
  { id := gid, core := 4 * r.cluster, bank := false, gid := gid, ctx := r.ctx, share := gid, smode := false, kind := remoteKind r.op
    pieces := if r.last then [] else [{ remotePieceOf r with len := 0 }], data := r.data
    dst := .none, scope := r.scope, acq := r.acq, rel := r.rel }

def State.reply (s : State) (r : RemoteReq) (data : VReg) (cause : Option (BitVec 8)) : State :=
  s.send (.answer r.dev r.cluster data cause)

/-- The request waits at its hub for page service. -/
def State.hold (s : State) (r : RemoteReq) (token : Option (Nat × Nat)) : State :=
  s.modHdie (ownerOf r.off) (fun d => { d with held := d.held ++ [{ req := r, token := token }] })

/-- The request parks on a cell: its record takes a unit of the creator context's overflow area, and its own device enters a
proxy; without a unit it completes with WAITFULL (R324, R331). -/
def State.parkRemote (s : State) (r : RemoteReq) (ln : Nat) : State :=
  let owner := s.creator 0 ln
  if (s.ctx owner).wovfFree = 0 then s.reply r 0 (some WAITFULL)
  else
    (((s.inherit ln r.prio r.cls).modCtx owner (fun x => { x with wovfUsed := x.wovfUsed + 1 })).modHdie (ownerOf r.off) (fun d =>
      { d with held := d.held ++ [{ req := r, parked := some ln, owner := owner }] })).send (.park r.dev r.cluster (r.off / 64))

/-- Performing at a physical offset; the stamp that a release leaves names the requester's device (R232). -/
def State.remotePiece (s : State) (r : RemoteReq) (phys : Nat) : Did × State :=
  let own := s.board.devid
  let (d, t) := State.devPiece { s with board := { s.board with devid := BitVec.ofNat 10 r.dev } } (remoteAcc r s.fresh) (remotePieceOf r) phys (RemoteReq.toucher r)
  (d, { t with board := { t.board with devid := own } })

/-- The request is served, waits, or fails; none while its piece is MIGRATING. -/
def State.serve (s : State) (r : RemoteReq) : Option State :=
  if (s.ctx r.ctx).state != 1 then some (s.reply r 0 (some PAGEFAIL))
  else match s.phys r.ctx r.off (remoteKind r.op).writes with
    | .moving => none
    | .bad => some (s.reply r 0 (some PAGEFAIL))
    | .fault =>
      let h := ownerOf r.off
      let (n, s) := s.pageFault h r.ctx (pageOf r.off) (if (remoteKind r.op).writes then 2 else 1)
      some (s.hold r (some (h, n)))
    | .ok p => match (s.learn r.ctx r.off).remotePiece r p with
      | (.done a, s) => some (s.reply r a.data none)
      | (.fail c, s) => some (s.reply r 0 (some c))
      | (.wait a, s) => some (s.parkRemote r (a.parked.getD 0))

/-- The request arrives through a link port: the stall buffer takes 32, then the port is refused until the refused request
has been accepted (R401). -/
def State.acceptRemote (s : State) (port : Nat) (r : RemoteReq) : State :=
  let h := ownerOf r.off
  let d := s.hdie h
  match d.refusing.find? (fun e => e.1 == port && e.2 != r) with
  | some _ => s.send (.retry r.dev r.cluster)
  | none =>
    let ok := fun (s : State) => s.modHdie h (fun d => { d with refusing := d.refusing.filter (fun e => e.1 != port) })
    match s.serve r with
    | some s => ok s
    | none =>
      if d.stall.length < 32 then ok (s.modHdie h (fun d => { d with stall := d.stall ++ [r] }))
      else (s.modHdie h (fun d => { d with refusing := d.refusing.filter (fun e => e.1 != port) ++ [(port, r)] })).send (.retry r.dev r.cluster)

/-- Requests held for a moving piece perform in the order they were held (R401). -/
def State.drainStall (s : State) (h : Nat) : State :=
  (s.hdie h).stall.foldl (fun s r => match s.serve r with
    | some t => t.modHdie h (fun d => { d with stall := d.stall.erase r })
    | none => s) s

/-- A flush or a disable ends, and requests that a disable has held perform (R128). -/
def execFwinBusyDone (hdie n : Nat) (s : State) : Out :=
  .next (if isFwin hdie n && (s.fwin hdie n).busy then (s.fwinDone hdie n).drainStall hdie else s)

/-- Requests whose token has been answered OK translate again (R398). -/
def State.retryHeld (s : State) (h : Nat) : State :=
  let go := (s.hdie h).held.filter (fun e => e.token.isNone && e.parked.isNone)
  let s := s.modHdie h (fun d => { d with held := d.held.filter (fun e => e.token.isSome || e.parked.isSome) })
  go.foldl (fun s e => match s.serve e.req with
    | some t => t
    | none => s.modHdie h (fun d => { d with stall := d.stall ++ [e.req] })) s

/-! ## The fault ring (R395–R397) -/

/-- A record into host memory, if the ring has room (R396, R397): an intermediate page names this device, a frame none. -/
def State.writeRecord (s : State) (h : Nat) : State :=
  let d := s.hdie h
  match d.recs with
  | [] => s
  | r :: rest =>
    let log := field d.frbase.toNat 4 0
    if log < 6 || 20 < log || 2 ^ log ≤ (d.frhead - d.frtail).toNat then s
    else
      let dev := if r.kind = 6 ∨ r.kind = 7 ∨ r.kind = 9 then 0 else s.board.devid.toNat * 2 ^ 42
      let count := if 1 ≤ r.kind ∧ r.kind ≤ 5 then
          ((d.tokens.find? (fun t => t.num == r.token && t.page == r.page)).map (·.count)).getD r.count
        else r.count
      let addr := field d.frbase.toNat 51 6 * 64 + 32 * (d.frhead.toNat % 2 ^ log)
      let words := [(dev + r.page) / 4096 % 2 ^ 40 * 4096 + r.kind * 256 + r.ctx, r.gen.toNat * 2 ^ 32 + min count 65535 * 2 ^ 16 + r.token % 8192, r.time,
        d.frhead.toNat]
      { s with host := memPut s.host addr ((words.flatMap (leBytes 8)).map some) }.modHdie h (fun d =>
        { d with
          recs := rest
          frhead := d.frhead + 1
          tokens := d.tokens.map (fun (t : Token) => if t.num = r.token ∧ t.page = r.page then { t with written := true } else t) })

def execFaultRecordWrite (hdie : Nat) (s : State) : Out := .next (s.writeRecord hdie)

/-- The host has consumed records. -/
def execFrtailWrite (hdie : Nat) (w : Word) (s : State) : Out :=
  .next (if hdie < 2 then s.modHdie hdie (fun d => { d with frtail := w.setWidth 32 }) else s)

/-- The oldest fault that waits takes the lowest free token, and writes its record (R395). -/
def State.takeToken (s : State) (h : Nat) : State :=
  let d := s.hdie h
  match d.noToken, d.freeToken with
  | r :: rest, some n =>
    let s := s.modHdie h (fun d =>
      { d with
        noToken := rest
        tokens := d.tokens ++ [{ num := n, ctx := r.ctx, gen := r.gen, page := r.page, kind := r.kind, count := r.count, time := r.time }]
        recs := d.recs ++ [{ r with token := n }] })
    s.mapTokens (fun x => if x = (h, r.token) then some (h, n) else some x)
  | _, _ => s

def execTokenFreeTake (hdie : Nat) (s : State) : Out := .next (s.takeToken hdie)

/-! ## REPLAY (R398, R451) -/

/-- A record of the launch ring is refused (R287). -/
def Ctx.refuse (cause : BitVec 8) (x : Ctx) : Ctx :=
  { x with lrindex := x.lrhead, lrcause := cause, lrhead := x.lrhead + 1, lrToken := none, lrBusy := false }

/-- Every access that waits on the token completes with PAGEFAIL. -/
def State.failToken (s : State) (k : Nat × Nat) (page : Nat) : State :=
  let hit := fun (t : Option (Nat × Nat)) => t == some k
  let accs := s.clusters.flatMap (fun e => (e.2.outbound.filter (fun a => hit a.token)).map (fun a => (e.1, a)))
  let copies := s.clusters.flatMap (fun e => (e.2.copies.filter (fun c => hit c.token)).map (fun c => (e.1, c)))
  let cells := (s.tags.filter (fun e => e.2.eval.any (fun v => hit v.token))).map (·.1)
  let tasks := s.tasks.filter (fun t => hit t.token)
  let rows := s.cores.filterMap (fun e => (e.2.mat.epRun.filter (fun r => hit r.1.token)).map (fun r => (e.1, r.1)))
  let ends := s.shares.filter (fun h => h.state != .waiting && hit h.token)
  let held := s.hdies.flatMap (fun e => e.2.held.filter (fun r => hit r.token))
  let grp := fun (g : Option Group) => g.map (fun g => if hit g.pageWait then { g with pageWait := none, pageFail := some page } else g)
  let s : State :=
    { s with
      cores := s.cores.map (fun e => (e.1, { e.2 with
        bank0 := grp e.2.bank0
        bank1 := grp e.2.bank1
        fetch := e.2.fetch.map (fun l => if hit l.token then { l with token := none, failed := true } else l) }))
      ctxs := s.ctxs.map (fun e => (e.1, if hit e.2.lrToken then e.2.refuse PAGEFAIL else e.2))
      decodes := s.decodes.map (fun d => if hit d.token then { d with token := none, pageFails := page :: d.pageFails } else d)
      hdies := s.hdies.map (fun e => (e.1, { e.2 with held := e.2.held.filter (fun r => !hit r.token) })) }
  let s := accs.foldl (fun s e =>
    (s.putAcc e.1 e.2.id none).modGroup e.2.gid (e.2.blame PAGEFAIL)) s
  let s := copies.foldl (fun s e => s.copyFault e.1 e.2 PAGEFAIL) s
  let s := rows.foldl (fun s e => s.cmdFault e.1 e.2 PAGEFAIL true) s
  let s := ends.foldl (fun s h => s.failShare h.id PAGEFAIL 0) s
  let s := cells.foldl State.failCell s
  let s := tasks.foldl State.taskGone s
  let s := held.foldl (fun s r => s.reply r.req 0 (some PAGEFAIL)) s
  s.mapTokens (fun x => if x = k then none else some x)

def State.replay (s : State) (h : Nat) (w : Word) : State :=
  let d := s.hdie h
  let st := field w.toNat 31 30
  match d.tokens.find? (fun t => t.num == field w.toNat 12 0) with
  | none => s
  | some t =>
    if 2 ≤ st || (s.ctx t.ctx).gen.toNat != field w.toNat 63 32 then s
    else
      let s := s.modHdie h (fun d => { d with tokens := d.tokens.filter (fun u => u.num != t.num) })
      if st = 0 then (s.mapTokens (fun x => if x = (h, t.num) then none else some x)).retryHeld h
      else s.failToken (h, t.num) t.page

def execReplay (hdie : Nat) (w : Word) (s : State) : Out := .next (s.replay hdie w)

/-! ## Invalidation (R394) -/

def pageBytes (code : Nat) : Nat := if code = 0 then 4096 else if code = 1 then 65536 else if code = 2 then 2 ^ 21 else 2 ^ 30

/-- The entries that an invalidation names leave the translation cache of an H-die of device `dev`. -/
def HDie.invalidate (dev : Nat) (w : Word) (d : HDie) : HDie :=
  let x := w.toNat
  let ctx := field x 5 0
  let page := field x 41 12 * 4096
  let size := pageBytes (field x 61 60)
  let hit := fun (e : TlbEnt) => e.ctx == ctx && (w.getLsbD 62 || (field x 51 42 == dev && meetsRange e.page e.size page size))
  { d with tlb := d.tlb.filter (fun e => !hit e) }

/-- A write of TLBINV; one under way completes first. -/
def execTlbinv (hdie : Nat) (w : Word) (s : State) : Out :=
  .next (if hdie < 2 then
      s.modHdie hdie (fun d => { (match d.tlbinv with
        | some o => d.invalidate s.board.devid.toNat o
        | none => d) with tlbinv := some w })
    else s)

def execTlbinvDone (hdie : Nat) (s : State) : Out :=
  .next (s.modHdie hdie (fun d => match d.tlbinv with
    | some w => { d.invalidate s.board.devid.toNat w with tlbinv := none }
    | none => d))

/-! ## Migration (R399, R401, R402) -/

/-- A write of MIGCMD: checked, then the page moves piece by piece. -/
def State.migGo (s : State) (h : Nat) (w : Word) : State :=
  let d := s.hdie h
  let x := w.toNat
  let ctx := field x 5 0
  let page := field x 41 12 * 4096
  let size := pageBytes (field x 61 60)
  let dst := d.migdst.toNat * 4096
  let fin := fun (r : Nat) => s.modHdie h (fun d => { d with migResult := BitVec.ofNat 4 r })
  if !w.getLsbD 63 || d.migBusy then s
  else if field x 51 42 != s.board.devid.toNat || regionKind page == 3 || ownerOf page != h then fin 1
  else match s.walkFrom ctx page [39, 30, 21, 12] (ptroot (s.ctx ctx) h) with
    | .leaf e =>
      if e.page != page || e.size != size || (s.migrOf ctx page).isSome then fin 1
      else if !s.frameOk page dst size || dst == e.frame then fin 2
      else if s.windowRange h e.frame size then fin 3
      else (s.startMove e dst 0 none).modHdie h (fun d => { d with migBusy := true })
    | _ => fin 1

def execMigcmdGo (hdie : Nat) (w : Word) (s : State) : Out := .next (if hdie < 2 then s.migGo hdie w else s)

/-- Line numbers of a moved piece, old to new. -/
def movedLine (src dst ln : Nat) : Nat := if src / 64 ≤ ln ∧ ln < src / 64 + 64 then ln - src / 64 + dst / 64 else ln

/-- Whoever waits on a line of the piece waits on it in its new place. -/
def State.renumber (f : Nat → Nat) (s : State) : State :=
  let s := s.mapGroups (fun g => { g with parked := g.parked.map f })
  { s with
    clusters := s.clusters.map (fun e => (e.1, { e.2 with
      wait := e.2.wait.map (fun w => { w with line := if w.proxy then w.line else f w.line })
      outbound := e.2.outbound.map (fun a => { a with parked := a.parked.map f })
      copies := e.2.copies.map (fun c => { c with parked := c.parked.map f }) }))
    tasks := s.tasks.map (fun t => { t with cell := t.cell.map f })
    hdies := s.hdies.map (fun e => (e.1, { e.2 with held := e.2.held.map (fun r => { r with parked := r.parked.map f }) })) }

/-- One line moves: its data in memory and in the LLC, its tag, its stamp and its poison (R401). -/
def State.moveLine (s : State) (a b : Nat) : State :=
  let m := s.lineMeta a
  let s := { s with mem := memPut s.mem (64 * b) ((lineBytes (s.backing a)).map some) }
  let held := s.cached a
  let s := s.setCached a none
  let s := s.setCached b (held.map (fun l => { l with bank := (s.hdie (ownerOf (64 * b))).bankFor b }))
  ((s.spillLine b).modMeta b (fun _ => m)).modMeta a (fun _ => {})

def State.movePiece (s : State) (src dst : Nat) : State :=
  ((upTo 64).foldl (fun s i => s.moveLine (src / 64 + i) (dst / 64 + i)) s).renumber (movedLine src dst)

/-- The entries of a moved page name its new frame. -/
def State.rewriteEntry (s : State) (m : Migr) : State :=
  let n := if m.size = 65536 then 16 else 1
  (upTo n).foldl (fun s i =>
    let a := m.pte + 8 * i
    s.putWord a (putField (s.wordNow a) 41 12 (m.dst / 4096))) s

/-- A record that needs no reply (R399, R416). -/
def State.noteFrame (s : State) (h frame kind ctx : Nat) (gen : BitVec 32) : State :=
  s.modHdie h (fun d => { d with recs := d.recs ++
    [{ page := frame, kind := kind, ctx := ctx, gen := gen, count := 1, token := 0, time := s.time }] })

/-- A frame leaves service for good: its record, its lifetime counter, and no pool takes it again (R410, R416, R424). -/
def State.withdrawFrame (s : State) (h frame size kind : Nat) : State :=
  let s := s.noteFrame h frame kind 0 0
  -- withdrawals are counted for DRAM banks alone
  let s := if isCommons frame then s
    else s.countLife lifeDram (Config.eccBank (frame / 64)) (if kind = 9 then cKind9 else cKind7)
  { s with board := { s.board with withdrawn := s.board.withdrawn ++ [(frame, size)] } }

/-- The page stands in its new frame: its entry is rewritten, the old frame reported or kept from the pool. -/
def State.endMove (s : State) (h : Nat) (m : Migr) : State :=
  let s := s.modHdie h (fun d => { d with
    migr := d.migr.filter (fun x => !(x.ctx == m.ctx && x.page == m.page))
    tlb := d.tlb.filter (fun e => !(e.ctx == m.ctx && meetsRange e.page e.size m.page m.size)) })
  let s := s.rewriteEntry m
  let s := if m.freed = 0 then s.modHdie h (fun d => { d with migBusy := false, migResult := 0 })
    else if m.freed = 6 then s.noteFrame h m.src 6 m.ctx (s.ctx m.ctx).gen
    else s.withdrawFrame h m.src m.size m.freed
  match m.handle with
  | some (x, n) => (s.moveNext x n).getD s
  | none => s

/-- A 4 KiB piece has moved; requests held for it perform. -/
def State.pieceDone (s : State) (h page : Nat) : State :=
  match (s.hdie h).migr.find? (fun m => m.page == page) with
  | none => s
  | some m =>
    let s := s.movePiece (m.src + 4096 * m.next) (m.dst + 4096 * m.next)
    let m' := { m with next := m.next + 1 }
    let s := s.modHdie h (fun d => { d with migr := d.migr.map (fun x => if x = m then m' else x) })
    let s := if 4096 * m'.next < m.size then s else s.endMove h m'
    s.drainStall h

def execMigrationPieceDone (hdie page : Nat) (s : State) : Out := .next (s.pieceDone hdie page)

/-! ## Withdrawn frames (R410) -/

/-- The mapped pages below a table of a context (R393). -/
def State.leaves (s : State) (ctx : Nat) (root : Nat) : List Nat → Nat → Nat → List TlbEnt
  | [], _, _ => []
  | sh :: rest, table, base =>
    (upTo (if sh = 39 then 8 else 512)).flatMap (fun i =>
      let e := s.wordNow (table + 8 * i)
      let off := base + i * 2 ^ sh
      if !pteValid e then []
      else if sh != 12 && !pteLeaf e then s.leaves ctx root rest (pteFrame e) off
      else match s.walkFrom ctx off [39, 30, 21, 12] root with
        | .leaf x => [x]
        | _ => [])

/-- The pages of every live context that a 4 KiB frame of an H-die backs. -/
def State.pagesOn (s : State) (frame : Nat) : List TlbEnt :=
  let h := ownerOf frame
  ((s.ctxs.filter (fun e => e.2.state == 1)).flatMap (fun e =>
    let root := ptroot e.2 h
    (s.leaves e.1 root [39, 30, 21, 12] root 0).filter (fun x => meetsRange x.frame x.size frame 4096))).dedup

/-- A mapped page begins to leave its frame; none when it moves already, or no frame is free (R399, R410). -/
def State.vacate (s : State) (kind : Nat) (e : TlbEnt) : Option State :=
  let h := ownerOf e.frame
  if (s.migrOf e.ctx e.page).isSome || s.windowRange h e.frame e.size then none
  else
    let tier := if isHbm e.frame then some 0 else if isPark e.frame then some 1 else none
    tier.bind (fun t => (s.takeFrame h t e.page e.size).map (fun f => f.2.startMove e f.1 kind none))

/-- One listed frame: its pages begin to move; a frame that backs none is withdrawn at once. None while it waits. -/
def State.withdrawOne (s : State) (frame kind : Nat) : Option State :=
  let h := ownerOf frame
  match s.pagesOn frame with
  | [] =>
    if s.windowRange h frame 4096 then none
    else some ((s.withdrawFrame h frame 4096 kind).modHdie h
      (fun d => { d with pool := d.pool.filter (fun f => !meetsRange f.2.2 (pageBytes f.2.1) frame 4096) }))
  | l => l.foldl (fun s e => s.bind (fun s => s.vacate kind e)) (some s)

/-- Every frame that is to be withdrawn is tried again. -/
def State.withdrawAll (s : State) : State :=
  s.board.leaving.foldl (fun s x => match s.withdrawOne x.1 x.2 with
    | some t => { t with board := { t.board with leaving := t.board.leaving.filter (· != x) } }
    | none => s) s

/-- A free frame for the pool (R396). -/
def execFramepush (hdie : Nat) (w : Word) (s : State) : Out :=
  .next (
    let x := w.toNat
    let size := field x 61 60
    let kind := field x 57 56
    let frame := field x 51 12 * 4096
    let last := frame + pageBytes size - 1
    let fits := kind ≤ 1 && frame % pageBytes size == 0 && s.populated frame && s.populated last && ownerOf frame == hdie
      && (if kind = 0 then isHbm frame && isHbm last else isPark frame && isPark last) && !s.board.withdrawn.any (fun w => meetsRange w.1 w.2 frame (pageBytes size))
    if hdie < 2 && fits && (s.hdie hdie).pool.length < 4096 then
      (s.modHdie hdie (fun d => { d with pool := d.pool ++ [(kind, size, frame)] })).withdrawAll
    else s)

/-! ## The commons split (R196) -/

/-- A write of CMSPLIT that changes NSTEP. -/
def execCmsplitWrite (hdie : Nat) (w : Word) (s : State) : Out :=
  .next (
    let n := field w.toNat 3 0
    let d := s.hdie hdie
    if hdie < 2 && n ≤ 8 && n != (if d.splitBusy then d.nstepNew else d.nstep) then
      s.modHdie hdie (fun d => { d with splitBusy := true, nstepNew := n })
    else s)

/-- The banks that pass between the commons and the LLC: lines written back and gone, contents lost or zero. -/
def State.splitDone (s : State) (h : Nat) : State :=
  let d := s.hdie h
  if !d.splitBusy then s
  else
    let lo := 8 * min d.nstep d.nstepNew
    let hi := 8 * max d.nstep d.nstepNew
    let base := 2 ^ 41 + h * 2 ^ 28
    let inside := fun (a : Nat) => base + lo * 2 ^ 22 ≤ a && a < base + hi * 2 ^ 22
    -- lines held in the banks leave, and what was decoded from the banks' own bytes
    let leaves := fun (e : Nat × Option LLine) => inside (64 * e.1) || e.2.any (fun l => l.bank.any (fun b => lo ≤ b && b < hi))
    let s := s.evictLines ((d.llc.filter leaves).map (·.1))
    let s := { s with
      mem := Tab.dropIf inside s.mem
      tags := Tab.dropIf (fun ln => inside (64 * ln)) s.tags
      ringStamps := Tab.dropIf inside s.ringStamps }
    (s.modHdie h (fun d => { d with nstep := d.nstepNew, splitBusy := false })).drainStall h

def execCmsplitDone (hdie : Nat) (s : State) : Out := .next (s.splitDone hdie)

/-! ## Hotness counters (R221) -/

def execHotnessClear (ctx n : Nat) (stall : Bool) (s : State) : Out :=
  .next (s.modCtx ctx (fun x =>
    if stall then { x with stalls := Tab.set 0 x.stalls n 0 } else { x with bytes := Tab.set 0 x.bytes n 0 }))

end Sys2Proof.Machine
end

