-- ==== Sys2Proof/Machine/Contexts.lean ====
section
/-!
DEFINITION. Contexts: enabling (R388), halting (R389), killing (R400), and the gang switch of a cluster (R403).
-/
namespace Sys2Proof.Machine

/-! ## The area checks of an enable (R388) -/

/-- A range of populated HBM or park-tier memory of this device, inside one aperture; an empty one is nowhere. -/
def State.memArea (s : State) (base len : Nat) (park : Bool) : Bool :=
  len == 0 || (s.populated base && s.populated (base + len - 1) && regionKind base == 0 && base / 2 ^ 36 == (base + len - 1) / 2 ^ 36
    && (!park || isPark base))

def Ctx.gsaveBase (x : Ctx) : Nat := field x.gsave.toNat 51 20 * 2 ^ 20
def gsaveBytes : Nat := 72 * 2 ^ 23
def Ctx.lovfBase (x : Ctx) : Nat := field x.lovf.toNat 51 12 * 4096
def Ctx.lovfBytes (x : Ctx) : Nat := 64 * 2 ^ field x.lovf.toNat 4 0
def Ctx.wovfBase (x : Ctx) : Nat := field x.wovf.toNat 51 15 * 32768
def Ctx.wovfBytes (x : Ctx) : Nat := 32768 * field x.wovf.toNat 11 0
def Ctx.poolBase (x : Ctx) : Nat := field x.shpool.toNat 51 16 * 65536
def Ctx.poolBytes (x : Ctx) : Nat := 65536 * field x.shpool.toNat 15 0

/-- The areas of a context, each with its bytes. -/
def Ctx.areas (x : Ctx) : List (Nat × Nat) :=
  [(x.gsaveBase, gsaveBytes), (x.lovfBase, x.lovfBytes), (x.wovfBase, x.wovfBytes), (x.poolBase, x.poolBytes)]

/-- A root table stands in memory of its H-die. -/
def State.rootOk (s : State) (h : Nat) (w : Word) : Bool :=
  let a := field w.toNat 51 6 * 64
  s.populated a && regionKind a == 0 && ownerOf a == h

/-- No two of a list of ranges overlap. -/
def apart : List (Nat × Nat) → Bool
  | [] => true
  | x :: t => t.all (fun y => !meetsRange x.1 x.2 y.1 y.2) && apart t

/-- The checks of R388. -/
def State.areasOk (s : State) (x : Ctx) : Bool :=
  let n := field x.lovf.toNat 4 0
  s.rootOk 0 x.ptroot0 && s.rootOk 1 x.ptroot1
    && s.memArea x.gsaveBase gsaveBytes true && s.memArea x.lovfBase x.lovfBytes false && s.memArea x.wovfBase x.wovfBytes false
    && s.memArea x.poolBase x.poolBytes false && apart x.areas && 6 ≤ n && n ≤ 20

/-- HALTED: HALT is set and no cluster holds the context (R389). -/
def State.noteHalted (s : State) (x : Nat) : State :=
  s.modCtx x (fun c => { c with halted := c.halt && s.clusters.all (fun e => e.2.ctx != some x) })

/-- A context that becomes LIVE: its counters, its launch ring and its cycle record are cleared (R388). -/
def Ctx.enliven (x : Ctx) : Ctx :=
  { x with
    state := 1, err := false
    bytes := [], stalls := []
    lrbase := 0, lren := false, lrlog := 0, lrtail := 0, lrhead := 0, lrindex := 0, lrcause := 0, lrOpen := false, lrBusy := false, lrToken := none
    links := [], nlink := 0, dcCount := 0 }

def State.enable (s : State) (x : Nat) : State :=
  if (s.ctx x).state != 0 then s
  else if s.areasOk (s.ctx x) then s.modCtx x Ctx.enliven
  else s.modCtx x (fun c => { c with err := true })

/-- Step 1 of a kill (R400). -/
def State.kill (s : State) (x : Nat) : State :=
  if (s.ctx x).state = 1 then s.modCtx x (fun c => { c with state := 2, lren := false, lrBusy := false }) else s

def State.setHalt (s : State) (x : Nat) (on : Bool) : State := (s.modCtx x (fun c => { c with halt := on })).noteHalted x

/-- A write of CTXCFG: its plain fields, then KILL and EN (R387). -/
def State.cfgWrite (s : State) (x : Nat) (w : Word) : State :=
  let n := w.toNat
  let s := s.modCtx x (fun c =>
    { c with
      scopes := BitVec.ofNat 4 (field n 23 20), pceil := BitVec.ofNat 3 (field n 19 17), cmin := BitVec.ofNat 3 (field n 16 14)
      devr := w.getLsbD 13 })
  let s := s.setHalt x (w.getLsbD 28)
  let s := if w.getLsbD 29 then s.kill x else s
  if w.getLsbD 0 then s.enable x else s

def execCtxEnable (ctx : Nat) (w : Word) (s : State) : Out := .next (if ctx < 64 then s.cfgWrite ctx (w ||| 1) else s)

def execCtxKill (ctx : Nat) (s : State) : Out := .next (if ctx < 64 then s.kill ctx else s)

def execCtxHalt (ctx : Nat) (on : Bool) (s : State) : Out := .next (if ctx < 64 then s.setHalt ctx on else s)

/-! ## The gang state of a cluster (R403) -/

/-- Bytes and tags of the slots that satisfy `p`. -/
def keepSlots {α : Type} (p : Nat → Bool) (size : Nat) (t : Tab α) : Tab α := Tab.dropIf (fun a => !p (a / size)) t

def State.mapShares (s : State) (f : Share → Share) : State := { s with shares := s.shares.map f }

/-- Slots claimed by the shares of a context that a cluster holds in one of the states given. -/
def State.claimedIn (s : State) (cl ctx : Nat) (p : ShState → Bool) : List Nat :=
  ((s.shares.filter (fun h => h.cluster == cl && h.ctx == ctx && p h.state)).filterMap (fun h => s.task h.task)).flatMap
    (fun t => t.block.claimed)

/-- Banks and matrix unit of a core, where an eclipse has put them aside as well (R420). -/
def Core.contents (k : Core) : Option Group × Option Group × Bool × Matrix :=
  match k.eclSaved with
  | some e => (e.1, e.2.1, k.front, e.2.2.unwait)
  | none => (k.bank0, k.bank1, k.front, k.mat.unwait)

/-- A core emptied of a context's state. -/
def Core.cleared (k : Core) : Core :=
  { k with bank0 := none, bank1 := none, mat := {}, eclSaved := none, fetch := [] }

/-- The state put back, aside while the core is being scanned. -/
def Core.refill (e : Option Group × Option Group × Bool × Matrix) (k : Core) : Core :=
  let thaw := fun (g : Option Group) => g.map (fun g => { g with frozenAt := none })
  match k.eclipse with
  | .scanning _ => { k with front := e.2.2.1, eclSaved := some (thaw e.1, thaw e.2.1, e.2.2.2) }
  | _ => ({ k with bank0 := thaw e.1, bank1 := thaw e.2.1, front := e.2.2.1, mat := e.2.2.2 } : Core).freshFront

/-- Banks settled for their removal: rewound where they are frozen elsewhere than at a quiet boundary, an entry in the wait
table then a spilled record that takes no unit (R47, R324, R332); the entry of an access goes with the access. -/
def State.settleBanks (s : State) (cl : Nat) (bs : List (Nat × Bool)) : State :=
  let ents := (s.cluster cl).wait
  let gids := bs.filterMap (fun e => (s.bank e.1 e.2).map (·.gid))
  let settled := fun (w : WaitEnt) => !w.spilled && gids.contains w.gid
  let mine := fun (w : WaitEnt) => settled w && w.acc.isNone
  let s := bs.foldl (fun s e => s.settleBank e.1 e.2) s
  let kept := (ents.filter (fun w => mine w || !settled w)).map (fun w => if mine w then { w with spilled := true, owner := 64 } else w)
  let s := s.modCluster cl (fun k => { k with wait := kept })
  (ents.filter mine).foldl (fun s w => s.modGroup w.gid (fun g => { g with parked := some w.line })) s

def banksIn (cl : Nat) : List (Nat × Bool) := (coresOf cl).flatMap (fun c => [(c, false), (c, true)])

/-- The gang state as it is saved. -/
def State.gangOf (s : State) (cl x : Nat) : Gang :=
  let k := s.cluster cl
  let claim := s.claimedIn cl x (fun st => st == .running)
  { cores := (coresOf cl).map (fun c => (s.core c).contents)
    routines := Tab.dropIf (· < 32) k.routines
    words := Tab.dropIf (· < 2048) k.words
    os := Tab.dropIf (fun a => !claim.contains (a / 4096)) k.os
    tags := Tab.dropIf (fun t => !claim.contains t) k.tags
    copies := k.copies, events := k.events }

/-- A cluster that holds no context: slots read zero, their tags too, routines 32–63 are EMPTY. -/
def Cluster.vacate (k : Cluster) : Cluster :=
  { k with
    ctx := none, os := [], tags := [], clean := [], readers := [], unrestored := [], refetch := [], copies := [], events := [], fusion := 0
    routines := Tab.dropIf (32 ≤ ·) k.routines, words := Tab.dropIf (2048 ≤ ·) k.words }

/-- The resident context's state leaves the cluster for its save area. -/
def State.saveGang (s : State) (cl : Nat) : State :=
  match (s.cluster cl).ctx with
  | none => s
  | some x =>
    let s := s.settleBanks cl (banksIn cl)
    let g := s.gangOf cl x
    let s := s.modCluster cl (fun k => { k.vacate with saved := Tab.set none k.saved x (some g) })
    let s := (coresOf cl).foldl (fun s c => s.modCore c Core.cleared) s
    let s := s.mapShares (fun h => if h.cluster = cl ∧ h.ctx = x ∧ h.state = .running then { h with state := .switched, readyAt := s.time } else h)
    s.noteHalted x

/-- The two halves of a sparse table joined: its entries below the others in key order. -/
def joinTab {α : Type} [DecidableEq α] (d : α) (a b : Tab α) : Tab α := b.foldl (fun t e => Tab.set d t e.1 e.2) a

/-- A context's state enters a cluster that holds none; its claimed slots are still to be restored, and every other slot reads
zero. -/
def State.loadGang (s : State) (cl x : Nat) : State :=
  let claim := s.claimedIn cl x (fun st => st == .switched)
  let s : State := match Tab.get none (s.cluster cl).saved x with
    | none => s.modCluster cl (fun k => { k with ctx := some x })
    | some g =>
      let s := s.modCluster cl (fun k =>
        { k with
          ctx := some x, saved := Tab.set none k.saved x none
          os := keepSlots claim.contains 4096 g.os, tags := keepSlots claim.contains 1 g.tags, unrestored := claim.dedup, copies := g.copies, events := g.events
          routines := joinTab {} k.routines g.routines, words := joinTab 0 k.words g.words })
      ((coresOf cl).zip g.cores).foldl (fun (s : State) e => s.modCore e.1 (Core.refill e.2)) s
  s.mapShares (fun h => if h.cluster = cl ∧ h.ctx = x ∧ h.state = .switched then { h with state := .running } else h)

/-- The cluster may change its context: every bank has stopped, no share of it is ABORTING, the copies that have started
have completed, and the arrivals on their way to other clusters have performed (R47, R276, R302, R403). -/
def State.gangStopped (s : State) (cl x : Nat) : Bool :=
  (coresOf cl).all (fun c => s.bankSettled c false && s.bankSettled c true)
    && s.shares.all (fun h => !(h.cluster == cl && h.ctx == x && h.state == .aborting))
    && (s.cluster cl).copies.all (fun c => !c.started)
    && (s.cluster cl).outbound.all (fun a => a.done || (match a.kind with
        | .barv .. => false
        | _ => true))

/-- A context that a cluster may take. -/
def State.choosable (s : State) (x : Nat) : Bool := (s.ctx x).state == 1 && !(s.ctx x).halt

/-- The cluster gives up its context and takes the one it is to switch to, if any. -/
def State.changeGang (s : State) (cl : Nat) (to' : Option Nat) : State :=
  let s := (s.saveGang cl).modCluster cl (fun k => { k with switchTo := none })
  (match to' with
  | some y => s.loadGang cl y
  | none => s).noteRequest cl

/-- The gang switch of R293, R389 and R404, once the cluster has stopped. -/
def State.gangSwitch (s : State) (cl : Nat) : State :=
  let k := s.cluster cl
  match k.ctx with
  | none => match k.switchTo with
    | some y => if s.choosable y then s.changeGang cl (some y) else s.modCluster cl (fun k => { k with switchTo := none })
    | none => s
  | some x =>
    let to' := k.switchTo.filter s.choosable
    if to'.isNone && !(s.ctx x).halt then s.modCluster cl (fun k => { k with switchTo := none })
    else if !s.gangStopped cl x then s
    else s.changeGang cl to'

def execGangSwitch (cluster : Nat) (s : State) : Out := .next (s.slopeHeld (fun s => s.gangSwitch cluster))

/-- A slot has been restored: accesses to it freeze no longer (R403). -/
def execSlotRestore (cluster slot : Nat) (s : State) : Out :=
  .next (s.modCluster cluster (fun k => { k with unrestored := k.unrestored.filter (fun n => n != slot || k.refetch.contains n) }))

/-! ## The kill (R400) -/

/-- A fault record in host memory takes KIND 0. -/
def State.purgeRecord (x h : Nat) (s : State) (n : Nat) : State :=
  let d := s.hdie h
  let log := field d.frbase.toNat 4 0
  let a := field d.frbase.toNat 51 6 * 64 + 32 * (n % 2 ^ log)
  let w := BitVec.ofNat 64 (leNat (memBytes s.host a 8))
  -- records of KIND 7 and 9 are no context's (R416)
  if field w.toNat 5 0 = x ∧ field w.toNat 11 8 ≠ 7 ∧ field w.toNat 11 8 ≠ 9 then { s with host := memPut s.host a ((leBytes 8 (putField w 11 8 0).toNat).map some) } else s

/-- Step 5 at one H-die: tokens, records, translation cache. -/
def State.purgeFaults (s : State) (x : Nat) (h : Nat) : State :=
  let d := s.hdie h
  let count := (d.frhead - d.frtail).toNat
  let s := (upTo (min count (2 ^ 20))).foldl (fun s i => s.purgeRecord x h (d.frtail.toNat + i)) s
  let gone := d.held.filter (fun r => r.req.ctx == x)
  let s := s.modHdie h (fun d =>
    { d with
      tokens := d.tokens.filter (·.ctx != x)
      noToken := d.noToken.filter (·.ctx != x)
      recs := d.recs.filter (fun r => r.ctx != x || 6 ≤ r.kind)
      tlb := d.tlb.filter (·.ctx != x)
      held := d.held.filter (fun r => r.req.ctx != x) })
  gone.foldl (fun s r => (if r.parked.isSome then s.freeUnit r.owner else s).reply r.req 0 (some PAGEFAIL)) s

/-- Steps 2 and 3 in one cluster: its gang state of the context, saved images, barriers, copies. -/
def Cluster.purge (x : Nat) (gone : Nat → Bool) (k : Cluster) : Cluster :=
  let k := if k.ctx = some x then k.vacate else k
  { k with
    saved := Tab.set none k.saved x none
    parked := k.parked.filter (fun i => !gone i.share)
    bars := Tab.dropIf (fun n => n / 32 == x) k.bars
    arrivals := k.arrivals.filter (fun a => a.1 != x)
    launchQ := k.launchQ.filter (fun h => !gone h)
    outbound := k.outbound.filter (fun a => a.ctx != x)
    copies := k.copies.filter (fun c => c.ctx != x)
    wait := k.wait.filter (fun w => w.ctx != x)
    switchTo := k.switchTo.filter (· != x) }

/-- Every share of the context ends, and no completion word is written: its tasks leave the table (R400, R441). -/
def State.endTasks (s : State) (x : Nat) : State :=
  let s := s.mapShares (fun h =>
    if h.ctx = x ∧ h.state ≠ .ended ∧ h.state ≠ .droppedS ∧ h.state ≠ .replaced then
      { h with state := .ended, status := some KILL, groups := [], allocs := [], token := none }
    else h)
  let s : State := { s with tasks := s.tasks.map (fun t => if t.ctx = x ∧ t.live then t.note s.time 0 KILL 0 else t) }
  (s.tasks.filter (fun t => t.ctx == x && t.live)).foldl State.taskGone s

/-- Cells whose evaluator is, or was to be, the context's become FAILED (R329, R400). -/
def State.failCells (s : State) (x : Nat) : State :=
  ((s.tags.filter (fun e => e.2.eval.any (fun v => recCtx v.record == x))).map (·.1)).foldl State.failCell s

/-- Every group of the context has stopped. -/
def State.ctxStopped (s : State) (x : Nat) : Bool :=
  s.cores.all (fun e => [false, true].all (fun b => !((e.2.bank b).any (fun g => g.ctx == x)) || s.bankStopped e.1 b))

/-- Steps 2 to 6 of a kill. -/
def State.killDone (s : State) (x : Nat) : State :=
  if (s.ctx x).state != 2 || !s.ctxStopped x then s
  else
    let gone := fun (n : Nat) => (s.share n).any (fun h => h.ctx == x)
    let held := s.clusters.filter (fun e => e.2.ctx == some x) |>.map (·.1)
    let s := s.dropGroups (fun g => g.ctx == x)
    let s := s.endTasks x
    let s : State := { s with
      clusters := s.clusters.map (fun e => (e.1, e.2.purge x gone))
      cores := s.cores.map (fun e => (e.1, { (if held.contains (e.1 / 4) then { e.2 with mat := {}, fetch := [] } else e.2) with
        rewound := e.2.rewound.filter (fun r => !gone r.2) }))
      decodes := s.decodes.filter (fun d => d.ctx != x) }
    let s := s.failCells x
    let s := [0, 1].foldl (fun s h => s.purgeFaults x h) s
    -- a member that has not formed its shares reports here (R441)
    let s := (s.ctx x).armed.foldl (fun s a => s.sendTo a.dev (.done a.dev a.gang KILL s.time)) s
    let s := held.foldl State.noteRequest s
    (s.modCtx x (fun (c : Ctx) =>
      { c with
        state := 0, gen := c.gen + 1
        win := c.win.map (fun (e : Nat × Window) => (e.1, { e.2 with en := false }))
        handles := [], shadows := [], dropped := [], ovf := [], gangs := [], armed := [], lrBusy := false, lrToken := none })).noteHalted x

def execCtxKillDone (ctx : Nat) (s : State) : Out := .next (s.slopeHeld (fun s => s.killDone ctx))

end Sys2Proof.Machine
end

