-- ==== Sys2Proof/Machine/Control.lean ====
section
/-!
DEFINITION. Control transfers, END, TRAP, SVC, ERET, NOP (R95–R100) and the CSR instructions (R101–R104).
-/
namespace Sys2Proof.Machine

/-! ## Control transfers (R95, R96) -/

/-- bundle_address + bundle_size. -/
def State.nextBundle (s : State) : Word := s.here.addr + BitVec.ofNat 64 s.here.size

/-- The outcome of a transfer into bqe. -/
def Group.pushBqe (o : BOut) (g : Group) : Group := g.setQs { g.qs with bqe := g.qs.bqe ++ [o] }

/-- Taken: the outcome in bqe, and the execute stream's next bundle. -/
def take (target : Word) (s : State) : State :=
  s.upd (fun g => { (g.pushBqe { taken := true, target := target }) with xNext := some target })

/-- Not taken: both streams go on at the next bundle. -/
def pass (s : State) : State := s.upd (Group.pushBqe { taken := false, target := s.nextBundle })

/-- A transfer: ILLOP first; guarded off it makes its queue traffic and is not taken (R61, R96). -/
def transfer (i : Instr) (y : Syl) (act : State → State) (s : State) : Out :=
  if !i.wf then .next (raise ILLOP s)
  else if s.me.guardX y.guard 0 then .next (act s)
  else .next (pass (traffic i s))

/-- bundle_address + sext(IMM24) × 8. -/
def State.branchTo (s : State) (y : Syl) : Word := s.here.addr + y.simm * 8

/-- A transfer through a register: ALIGN before anything happens (R95). -/
def indirect (target : Word) (t s : State) : State :=
  if target.toNat % 8 ≠ 0 then raise ALIGN s else take target t

def execBr (y : Syl) (s : State) : Out := transfer (.br y) y (fun s => take (s.branchTo y) s) s

def execCall (y : Syl) (s : State) : Out :=
  transfer (.call y) y (fun s => take (s.branchTo y) (finishS 1 y.dst s.nextBundle s)) s

def execRet (y : Syl) (s : State) : Out :=
  transfer (.ret y) y (fun s => let (a, t) := readX y.srca s; indirect a t s) s

def execJr (y : Syl) (s : State) : Out :=
  transfer (.jr y) y (fun s => let (a, t) := readX y.srca s; indirect (a + y.simm * 8) t s) s

/-- END (R98). -/
def execEndStep (y : Syl) (s : State) : Out :=
  transfer (.endStep y) y (fun s => s.upd (fun g =>
    { (g.pushBqe { taken := false, target := s.nextBundle, isEnd := true }) with endX := true })) s

/-! ## TRAP, SVC, NOP, ERET (R36, R99, R100) -/

/-- The slot after the trapping syllable counts as the first uncommitted one (R35, R99). -/
def execTrap (y : Syl) (s : State) : Out := syllable (.trap y) y (raiseAt TRAPC 1) s

def execSvc (y : Syl) (s : State) : Out := syllable (.svc y) y (raiseAt SVCC 1) s

def execNop (y : Syl) (s : State) : Out := syllable (.nop y) y id s

/-- ERET's checks in the order of R36, then its effect; the bundle goes no further. The access stream has waited behind it, so
that one guarded off answers it as a transfer not taken (log 96). -/
def execEret (y : Syl) (s : State) : Out :=
  if !(Instr.eret y).wf || !s.here.sole then .next (raise ILLOP s)
  else if !s.me.guardX y.guard 0 then .next (pass s)
  else if s.userMode then .next (raise PRIV s)
  else if !s.me.gstat.valid then .next (raise ILLOP s)
  else
    let s := (s.upd Group.eret).flushFetch s.here.core
    .next { s with here := { s.here with off := s.here.core :: s.here.off } }

/-! ## CSR access (R101) -/

inductive CsrOp where
  | r | w | s | c
  deriving DecidableEq, Repr

/-- The new value that an operation asks for. -/
def CsrOp.new (o : CsrOp) (old v : Word) : Word :=
  match o with
  | .r => old
  | .w => v
  | .s => old ||| v
  | .c => old &&& ~~~ v

/-- csr_op of R101, after the encoding check. -/
def csrOp (o : CsrOp) (y : Syl) (s : State) : State :=
  let n := y.im 11 0
  let sm := !s.userMode
  let rd := csrRead sm n
  let wr := csrWrite sm n
  if rd = 0 ∧ wr = 0 then raise PRIV s
  else
    let now := s.csrValue s.here.core s.me n
    let old := now &&& rd
    let (v, t) := match o with
      | .r => (0, s)
      | _ => readX y.srca s
    let new := o.new old v
    let t := if o = .r ∨ wr = 0 then t
      else t.upd (fun g => { g with csrw := g.csrw ++ [(n, (now &&& ~~~ wr) ||| (new &&& wr))] })
    finishS 1 y.dst old t

def execCsrr (y : Syl) (s : State) : Out := syllable (.csrr y) y (csrOp .r y) s
def execCsrw (y : Syl) (s : State) : Out := syllable (.csrw y) y (csrOp .w y) s
def execCsrs (y : Syl) (s : State) : Out := syllable (.csrs y) y (csrOp .s y) s
def execCsrc (y : Syl) (s : State) : Out := syllable (.csrc y) y (csrOp .c y) s

end Sys2Proof.Machine
end

