-- ==== Sys2Proof/Machine/Parks.lean ====
section
/-!
DEFINITION. The curtailment park of a share (R346): what leaves the cluster with it, from its banks or from a saved gang
(R191, R302), and its return to the same cluster (R348).
-/
namespace Sys2Proof.Machine

/-! ## Leaving -/

/-- A group's part of its core's matrix unit (R191). -/
def Matrix.part (m : Matrix) (g : Group) : Resume :=
  { gid := g.gid, active := m.active, shadow := m.shadow, ashape := m.ashape, ep := m.ep, epRows := m.epRows, chk := m.chk
    run := m.run.filter (fun r => r.cmd.gid == g.gid), epRun := m.unwait.epRun.filter (fun r => r.1.gid == g.gid) }

/-- The group of a bank as it is parked. -/
def parkOne (core : Nat) (bank : Bool) (m : Matrix) (g : Group) : ParkGroup :=
  let ring := m.ringOf g.gid
  { core := core, bank := bank, group := g, ring := ring
    tiles := (ring.map (fun r => r.tiles.map m.tile)).getD []
    queue := m.queue.filter (fun c => c.gid == g.gid)
    rest := m.part g }

/-- The groups of a core's two banks that satisfy `p`, with the unit that stays. -/
def parkTwo (p : Group → Bool) (core : Nat) (e : Option Group × Option Group × Matrix) :
    List ParkGroup × (Option Group × Option Group × Matrix) :=
  let m := e.2.2
  let out := ((e.1.filter p).toList.map (parkOne core false m)) ++ ((e.2.1.filter p).toList.map (parkOne core true m))
  let ids := out.map (·.group.gid)
  let keep := fun (g : Option Group) => g.filter (fun g => !p g)
  (out, keep e.1, keep e.2.1, m.dropGroups ids.contains)

/-- The groups of a share leave core `c`, from where an eclipse has put them too. -/
def Core.parkOut (p : Group → Bool) (c : Nat) (k : Core) : List ParkGroup × Core :=
  let (a, e) := parkTwo p c (k.bank0, k.bank1, k.mat)
  let k := { k with bank0 := e.1, bank1 := e.2.1, mat := e.2.2 }
  match k.eclSaved with
  | some s =>
    let (b, s) := parkTwo p c s
    (a ++ b, { k with eclSaved := some s })
  | none => (a, k)

/-- A running share that has stopped goes to the park tier (R346). -/
def State.parkRunning (s : State) (h : Share) (t : Task) : State :=
  let cl := h.cluster
  let s := s.settleBanks cl (s.banksOf h.id)
  let mine := fun (g : Group) => g.share == h.id
  let alone := s.shares.all (fun x => x.id == h.id || x.cluster != cl || !(x.state == .running || x.state == .aborting))
  let claim := fun (n : Nat) => alone || t.block.claimed.contains n
  let k := s.cluster cl
  let img : ParkImg :=
    { share := h.id, whole := alone
      groups := (coresOf cl).flatMap (fun c => ((s.core c).parkOut mine c).1)
      os := keepSlots claim 4096 k.os, tags := keepSlots claim 1 k.tags
      copies := k.copies.filter (fun c => c.share == h.id) }
  let s := (coresOf cl).foldl (fun (s : State) c => (s.modCore c (fun k => (k.parkOut mine c).2)).bankFreed c) s
  let s := s.modCluster cl (fun k =>
    { k with
      parked := k.parked ++ [img]
      os := Tab.dropIf (fun a => claim (a / 4096)) k.os
      tags := Tab.dropIf claim k.tags
      clean := Tab.dropIf claim k.clean
      readers := k.readers.filter (fun r => !claim r.1)
      copies := k.copies.filter (fun c => c.share != h.id) })
  let s := s.modShare h.id (fun h => { h with state := .parked, parkedAt := s.fresh })
  ({ s with fresh := s.fresh + 1 } : State).noteRequest cl

/-- A switched share is parked where it stands: its groups leave the saved gang for an image of their own (R302). -/
def State.parkSwitched (s : State) (h : Share) (t : Task) : State :=
  let cl := h.cluster
  let mine := fun (g : Group) => g.share == h.id
  let s : State := match Tab.get none (s.cluster cl).saved h.ctx with
    | none => s
    | some g =>
      let l := ((coresOf cl).zip g.cores).map (fun e => parkTwo mine e.1 (e.2.1, e.2.2.1, e.2.2.2.2))
      let claim := t.block.claimed.contains
      let img : ParkImg :=
        { share := h.id, groups := l.flatMap (·.1)
          os := keepSlots claim 4096 g.os, tags := keepSlots claim 1 g.tags
          copies := g.copies.filter (fun c => c.share == h.id) }
      let g' : Gang :=
        { g with
          cores := (g.cores.zip l).map (fun e => (e.2.2.1, e.2.2.2.1, e.1.2.2.1, e.2.2.2.2))
          copies := g.copies.filter (fun c => c.share != h.id) }
      s.modCluster cl (fun k => { k with parked := k.parked ++ [img], saved := Tab.set none k.saved h.ctx (some g') })
  let s := s.modShare h.id (fun h => { h with state := .parked, parkedAt := s.fresh })
  { s with fresh := s.fresh + 1 }

/-! ## Returning (R348) -/

/-- The bank that a parked group takes: its own if it is empty. -/
def Core.bankFor (k : Core) (b : Bool) : Option Bool :=
  if (k.bank b).isNone then some b else if (k.bank (!b)).isNone then some (!b) else none

/-- A parked group's part of the matrix unit comes back to bank `b`: at once when the core was empty, else its copy is loaded
before its first resumed command (R191). None while its ring finds too few free tiles. -/
def Matrix.putBack (m : Matrix) (b alone : Bool) (e : ParkGroup) : Option Matrix :=
  let m := m.freeRing e.group.gid
  let taken := m.rings.flatMap (·.tiles)
  let free := (upTo 16).filter (fun t => !taken.contains t)
  if free.length < e.tiles.length then none
  else
    let mine := free.take e.tiles.length
    let m := (mine.zip e.tiles).foldl (fun m x => m.setTile x.1 x.2) m
    let m := { m with rings := m.rings ++ (e.ring.map (fun (r : Ring) => { r with tiles := mine })).toList }
    let own := fun (c : MCmd) => { c with bank := b }
    let r : Resume := { e.rest with run := e.rest.run.map (fun r => { r with cmd := own r.cmd }), epRun := e.rest.epRun.map (fun x => (own x.1, x.2)) }
    let m := { m with queue := m.queue ++ e.queue.map own }
    some (if alone then
        { m with active := r.active, shadow := r.shadow, ashape := r.ashape, ep := r.ep, epRows := r.epRows, chk := r.chk
                 run := m.run.or r.run, epRun := m.epRun.or r.epRun }
      else { m with resumes := m.resumes ++ [r] })

/-- One group back into its core. -/
def Core.putBack (alone : Bool) (e : ParkGroup) (k : Core) : Option Core :=
  match k.bankFor e.bank with
  | none => none
  | some b => (k.mat.putBack b alone e).map (fun m =>
    let k := { k.setBank b (some { e.group with frozenAt := none }) with mat := m, fetch := [] }
    if b = k.front then k.freshFront else k)

/-- The core holds no group and no matrix command. -/
def Core.vacant (k : Core) : Bool := k.bank0.isNone && k.bank1.isNone && k.mat.queue.isEmpty && k.mat.run.isNone && k.mat.epRun.isNone

/-- Every group of an image back into its core; none while one finds no room. -/
def State.putGroups (s : State) : List ParkGroup → Option State
  | [] => some s
  | e :: t =>
    let k := s.core e.core
    if k.eclipse != .idle || k.eclSaved.isSome || k.eclDue then none
    else
      let alone := k.vacant || (k.mat.resumes.isEmpty && [k.bank0, k.bank1].all (fun g => g.all (fun g => g.share == e.group.share)))
      (k.putBack alone e).bind (fun k' => ((s.modCore e.core (fun _ => k')).bankFreed e.core).putGroups t)

/-- A released share resumes in its cluster at the boundaries where it stopped. -/
def State.unpark (s : State) (h : Share) (t : Task) : Option State :=
  let cl := h.cluster
  match (s.cluster cl).parked.find? (fun i => i.share == h.id) with
  | none => some (s.modShare h.id (fun h => { h with state := .running }))
  | some img =>
    (s.putGroups img.groups).map (fun s =>
      let alone := s.shares.all (fun x => x.id == h.id || x.cluster != cl || !(x.state == .running || x.state == .aborting))
      let claim := fun (n : Nat) => (alone && img.whole) || t.block.claimed.contains n
      let s := s.modCluster cl (fun k =>
        { k with
          parked := k.parked.filter (fun i => i.share != h.id)
          os := joinTab 0 (Tab.dropIf (fun a => claim (a / 4096)) k.os) (keepSlots claim 4096 img.os)
          tags := joinTab {} (Tab.dropIf claim k.tags) (keepSlots claim 1 img.tags)
          unrestored := k.unrestored ++ t.block.claimed.filter (fun n => !k.unrestored.contains n)
          copies := img.copies.foldl (fun l c => insertCopy c l) k.copies })
      s.modShare h.id (fun h => { h with state := .running }))

end Sys2Proof.Machine
end

