-- ==== Sys2Proof/Machine/Sched.lean ====
section
/-!
DEFINITION. The scheduler: launch rings (R286, R287), overflow (R289), readiness (R290), choice and pre-emption (R291,
R293), GSWAP (R404), and the start of steps (R294–R296, R344).
-/
namespace Sys2Proof.Machine

/-! ## Launch rings (R286, R287) -/

/-- A write of LRTAIL; one that overruns the ring leaves its records undefined. -/
def Ctx.tailWrite (w : Word) (x : Ctx) : Ctx :=
  let t := w.setWidth 32
  { x with lrtail := t, lrOpen := x.lrOpen || decide (2 ^ x.lrlog.toNat < (t - x.lrhead).toNat) }

def execLrtailWrite (ctx : Nat) (w : Word) (s : State) : Out := .next (if ctx < 64 then s.modCtx ctx (Ctx.tailWrite w) else s)

/-- A write of LRCFG: LOG2N outside 1–16 leaves EN at 0 (R286). -/
def Ctx.ringCfg (w : Word) (x : Ctx) : Ctx :=
  let n := field w.toNat 4 0
  { x with lrbase := BitVec.ofNat 58 (field w.toNat 63 6), lrlog := BitVec.ofNat 5 n, lren := w.getLsbD 5 && decide (1 ≤ n) && decide (n ≤ 16) }

/-- A ring that has a record to consume; a record that waits is consumed though EN has been cleared since (R286). -/
def Ctx.pending (x : Ctx) : Bool := x.state == 1 && (x.lren || x.lrBusy) && x.lrhead != x.lrtail && x.lrToken.isNone

/-- A record has been taken: HEAD moves on. -/
def Ctx.taken (x : Ctx) : Ctx := { x with lrhead := x.lrhead + 1, lrToken := none, lrBusy := false, lrOpen := x.lrOpen && x.lrhead + 1 != x.lrtail }

/-- The record at HEAD waits: it is the current one (R286). -/
def Ctx.current (x : Ctx) : Ctx := { x with lrBusy := true }

/-- The bytes of the record at HEAD. -/
def State.ringRecord (s : State) (c : Nat) : BlockRead :=
  let x := s.ctx c
  if x.lrOpen then .ok ((upTo 64).map (Config.freeByte s.free))
  else s.hwBytes c ((x.lrbase.toNat * 64 + 64 * (x.lrhead.toNat % 2 ^ x.lrlog.toNat)) % 2 ^ 64) 1

/-- A record or block that cannot be had: page service, a moving page, or a refusal. -/
def State.ringStall (s : State) (c : Nat) : BlockRead → State
  | .wait h p =>
    let (n, s) := s.pageFault h c p 4
    s.modCtx c (fun x => { x.current with lrToken := some (h, n) })
  | .fail cause => s.modCtx c (Ctx.refuse cause)
  | _ => s.modCtx c Ctx.current

/-- The record at HEAD is consumed (R287). -/
def State.consume (s : State) (c : Nat) : State :=
  if !(s.ctx c).pending then s
  else
    let s0 := if (s.ctx c).lrOpen then { s with free := s.free + 1 } else s
    match s.ringRecord c with
    | .ok r =>
      let block := bytesAt r 0 8
      let argp := bytesAt r 8 8
      let due := bytesAt r 0x10 8
      if bytesAt r 0x18 40 ≠ 0 ∨ block % 256 ≠ 0 then s0.modCtx c (Ctx.refuse ILLOP)
      else match s0.hwBytes c block 4 with
        | .ok bs =>
          let b := Block.ofBytes bs
          let b := { b with argp := if argp = 0 then b.argp else BitVec.ofNat 64 argp, deadline := if due = 0 then b.deadline else due }
          if !s0.blockValid c b then s0.modCtx c (Ctx.refuse ILLOP)
          else match s0.launch c b block { root := none, path := [], depth := 0 } with
            | some (_, t) => t.modCtx c Ctx.taken
            | none => s0.modCtx c Ctx.current
        | x => s0.ringStall c x
    | x => s0.ringStall c x

def execLaunchRecordConsume (ctx : Nat) (s : State) : Out := .next (s.consume ctx)

/-! ## Overflow (R289) -/

def execOverflowShareMove (cluster : Nat) (s : State) : Out := .next (s.overflowMove cluster)

/-! ## Readiness (R290, R451) -/

/-- The test of a WAITING share: it becomes READY, waits for a page, or goes on waiting. -/
def State.testReady (s : State) (id : Nat) : State :=
  match s.share id with
  | none => s
  | some h => match s.task h.task with
    | none => s
    | some t =>
      if h.state != .waiting || h.token.isSome then s
      else if s.predsReached h.ctx t.block then s.readyShare id
      else match s.predFault h.ctx t.block with
        | some (hd, p) =>
          let (n, s) := s.pageFault hd h.ctx p 4
          s.modShare id (fun h => { h with token := some (hd, n) })
        | none => s

def execReadinessRecheck (share : Nat) (s : State) : Out := .next (s.testReady share)

def execReadinessPoll (share : Nat) (s : State) : Out := .next (s.testReady share)

/-! ## The order of choice (R291) -/

/-- Microseconds that a share has stood at its context's priority ceiling; none below it. -/
def State.atCeiling (s : State) (h : Share) : Option Nat :=
  let x := s.ctx h.ctx
  let p := ((s.task h.task).map (·.prio)).getD 0
  let need := (x.pceil.toNat - p) * 2 ^ x.age
  let aged := if need ≤ s.waited h then some (s.waited h - need) else none
  let lent := (s.lent h).bind (fun e => if x.pceil.toNat ≤ e.prio then some (min (s.waited h) ((s.time - e.lentAt) / 1000)) else none)
  match aged, lent with
  | some a, some b => some (max a b)
  | a, b => a.or b

/-- Rule 1 of R291 applies to the share. -/
def State.overdue (s : State) (h : Share) : Bool := (s.atCeiling h).any (fun w => 16 * 2 ^ (s.ctx h.ctx).age < w)

/-- A deadline, 0 as the latest. -/
def State.dueAt (s : State) (h : Share) : Nat :=
  let d := ((s.task h.task).map (·.block.deadline)).getD 0
  if d = 0 then 2 ^ 64 else d

/-- `a` comes strictly before `b`: an adopted share first (R307), then R291's four rules. -/
def State.comesBefore (s : State) (a b : Share) : Bool :=
  if a.front != b.front then a.front
  else match s.overdue a, s.overdue b with
    | true, false => true
    | false, true => false
    | true, true => a.readyAt < b.readyAt
    | false, false =>
      let p := s.effPrio a
      let q := s.effPrio b
      q < p || (p == q && (s.dueAt a < s.dueAt b || (s.dueAt a == s.dueAt b && a.launchedAt < b.launchedAt)))

/-- The first of a list in that order; the earlier one of equals. -/
def State.firstOf (s : State) : List Share → Option Share
  | [] => none
  | h :: t => match s.firstOf t with
    | none => some h
    | some b => if s.comesBefore b h then some b else some h

/-! ## Candidates -/

/-- A park threshold keeps the share from being chosen (R346). -/
def State.parkHeld (s : State) (h : Share) : Bool := s.gov.pthr != 0 && s.gov.pthr ≤ s.effClass h

/-- Another resident share holds a part of the claim (R304). -/
def State.claimBusy (s : State) (h : Share) : Bool :=
  s.shares.any (fun x => x.id != h.id && x.cluster == h.cluster && x.ctx == h.ctx && (x.state == .running || x.state == .aborting)
    && (s.claimOf x).any ((s.claimOf h).contains ·))

/-- Shares that could be chosen for a cluster: READY ones and released parked ones of its launch queue, and SWITCHED ones. -/
def State.candidates (s : State) (cl : Nat) : List Share :=
  let q := ((s.cluster cl).launchQ.filterMap s.share).filter (fun h => h.state == .ready || h.state == .parked)
  let sw := s.shares.filter (fun h => h.cluster == cl && h.state == .switched)
  (q ++ sw).filter (fun h => s.choosable h.ctx && !s.parkHeld h)

/-- Shares that run in a cluster. -/
def State.runningIn (s : State) (cl : Nat) : List Share := s.shares.filter (fun h => h.cluster == cl && h.state == .running)

/-! ## Dealing (R295) -/

/-- The core, 0–3, that a step is dealt to. -/
def Block.dealt (b : Block) (t : Nat) : Nat := if b.fixed then b.dcore else t % 4

/-- A saved parent or a spilled group is to come back to the core first (R307, R324). -/
def State.returning (s : State) (c : Nat) : Bool :=
  let k := s.core c
  k.eclSaved.isSome || k.parents.any (fun g => g.ctx == ((s.cluster (c / 4)).ctx).getD 64
      && g.adoptedTask.all (fun t => !((s.task t).map (·.live)).getD false))
    || k.spilled.any (fun g => g.woken && g.ctx == ((s.cluster (c / 4)).ctx).getD 64)

/-- The core may take a dealt step: an empty bank, no eclipse near or due, its die powered, its cluster enabled and not about
to change its context. -/
def State.coreOpen (s : State) (c : Nat) : Bool :=
  let cl := c / 4
  let k := s.core c
  k.emptyBank.isSome && k.eclipse == .idle && !s.nearSlot c && !k.eclDue && k.eclWait.isNone && !s.returning c && s.enabled cl && !s.dieGated cl
    && (s.cluster cl).switchTo.isNone

/-- The writes that an evaluator's cell was made after have performed: its first bundle acquires its DEFER (R317, log 109). -/
def State.creatorSeen (s : State) (t : Task) : Bool :=
  match t.cell.bind (fun ln => (s.lineMeta ln).eval) with
  | some e => e.before.2.all (s.performed e.before.1)
  | none => true

/-- The core that a share's next step goes to: the first of an adopted task's shares starts in the bank that its parent has
left, every other step where it is dealt (R295, R307). -/
def Share.coreFor (h : Share) (b : Block) : Nat := h.seatAt.getD (4 * h.cluster + b.dealt h.next)

/-- The bank that core `c` has free is kept for a share that an adoption starts there (R307, log 112). -/
def State.seatKept (s : State) (c : Nat) (h : Share) : Bool :=
  s.shares.any (fun x => x.id != h.id && x.seatAt == some c && (x.state == .ready || x.state == .running) && x.ctx == h.ctx
    && s.choosable x.ctx && !s.parkHeld x && !s.claimBusy x)

/-- The share's next step can start now on core `c`. -/
def State.mayBegin (s : State) (c : Nat) (h : Share) : Bool :=
  match s.task h.task with
  | none => false
  | some t =>
    h.state == .running && h.cluster == c / 4 && (s.cluster (c / 4)).ctx == some h.ctx && h.next < h.total t.block
      && h.coreFor t.block == c && !s.seatKept c h && s.groupRoom h t && s.choosable h.ctx && !s.parkHeld h && s.coreOpen c && s.creatorSeen t

/-- The operating point for a share's next step (R344). -/
def State.pointFor (s : State) (h : Share) (t : Task) : Nat :=
  let b := t.block
  if b.vary then s.chooseAmong b ((upTo (b.nops + 1)).filter (fun i => b.tiles i == b.tiles t.opidx)) else h.op

/-- One of an adopted task's shares has started in the bank kept for it: the others go where they are dealt. -/
def State.unseat (s : State) (h : Share) : State :=
  if h.seatAt.isNone then s
  else { s with shares := s.shares.map (fun x => if x.task = h.task then { x with seatAt := none } else x) }

/-- A dealt step begins in an empty bank (R295, R296). -/
def State.beginStep (s : State) (c : Nat) (h : Share) (t : Task) : State :=
  let h := { h with op := s.pointFor h t }
  let g := s.stepGroup t h h.next
  let s := { (s.seat c g).getD s with fresh := s.fresh + 1 }
  let s := s.modShare h.id (fun x =>
    { x with op := h.op, next := h.next + 1, groups := x.groups ++ [g.gid], chosen := false })
  (s.unseat h).noteRequest (c / 4)

def State.startStepOn (s : State) (c : Nat) : State :=
  match s.firstOf ((s.runningIn (c / 4)).filter (s.mayBegin c)) with
  | some h => match s.task h.task with
    | some t => s.beginStep c h t
    | none => s
  | none => s

def execStepStart (core : Nat) (s : State) : Out := .next (s.startStepOn core)

/-! ## Choice and pre-emption (R291, R293) -/

/-- The share runs from now on; its first step waits to be dealt, or its groups come back. -/
def State.choose (s : State) (h : Share) : State :=
  let s := s.modCluster h.cluster (fun k => { k with launchQ := k.launchQ.filter (· != h.id) })
  (s.modShare h.id (fun h => { h with state := .running, chosen := true })).noteRequest h.cluster

/-- The core of a share's first step has room for it. -/
def State.firstCoreOpen (s : State) (h : Share) : Bool :=
  match s.task h.task with
  | some t => s.coreOpen (h.coreFor t.block) && !s.seatKept (h.coreFor t.block) h
  | none => false

/-- One choice among the resident context's shares: the first of all, or, while a chosen share waits for its core, the first
that could start at once in a bank that stands free (R291). -/
def State.chooseOne (s : State) (cl : Nat) : State :=
  match (s.cluster cl).ctx with
  | none => s
  | some x =>
    let busy := (s.runningIn cl).any (fun h => (coresOf cl).any (fun c => s.mayBegin c h))
    if busy || !(coresOf cl).any s.coreOpen then s
    else
      let all := (s.candidates cl).filter (fun h => h.ctx == x && h.state != .switched && !s.claimBusy h)
      let waits := (s.runningIn cl).any (fun h => h.chosen)
      let l := if waits then all.filter (fun h => h.state == .parked || s.firstCoreOpen h) else all
      match s.firstOf l with
      | none => s
      | some h =>
        if h.state == .parked then
          match (s.task h.task).bind (fun t => s.unpark h t) with
          | some t => (t.modCluster cl (fun k => { k with launchQ := k.launchQ.filter (· != h.id) })).noteRequest cl
          | none => s
        else s.choose h

/-- Candidates for a cluster in which no share runs: while its context has a share to start, a share of another context
that was switched out returns only after PRETH (R293, R404). -/
def State.idleCandidates (s : State) (cl : Nat) : List Share :=
  let k := s.cluster cl
  let cand := s.candidates cl
  if cand.any (fun h => k.ctx == some h.ctx && h.state != .switched) then
    cand.filter (fun h => k.ctx == some h.ctx || h.state != .switched || decide ((s.ctx h.ctx).preth < s.waited h))
  else cand

/-- A share of another context outranks every running one and has waited longer than PRETH: the cluster is to switch to its
context. A cluster in which no share runs takes the first candidate's context at once. -/
def State.preempt (s : State) (cl : Nat) : State :=
  let k := s.cluster cl
  let cand := s.candidates cl
  let run := s.shares.filter (fun h => h.cluster == cl && (h.state == .running || h.state == .aborting))
  if k.switchTo.isSome || !s.enabled cl || s.dieGated cl then s
  else if run.isEmpty then
    match s.firstOf (s.idleCandidates cl) with
    | none => s
    | some h =>
      if k.ctx == some h.ctx && h.state != .switched then s
      else match k.ctx with
        | some x => if s.gangStopped cl x then s.changeGang cl (some h.ctx) else s
        | none => s.changeGang cl (some h.ctx)
  else
    match s.firstOf (cand.filter (fun h => k.ctx != some h.ctx && (s.ctx h.ctx).preth < s.waited h && run.all (fun r => s.effPrio r < s.effPrio h))) with
    | some h => s.modCluster cl (fun k => { k with switchTo := some h.ctx })
    | none => s

/-- The scheduler's work in one cluster at one moment of R293. -/
def State.schedule (s : State) (cl : Nat) : State :=
  let s := s.preempt cl
  if (s.cluster cl).switchTo.isSome || !s.enabled cl || s.dieGated cl then s
  else (upTo 8).foldl (fun s _ => s.chooseOne cl) s

/-- GSWAP (R404): a share that could be chosen for the cluster is one of another context. -/
def State.othersReady (s : State) (cl ctx : Nat) : List Share := (s.candidates cl).filter (fun h => h.ctx != ctx)

def execGswap (y : Syl) (s : State) : Out :=
  syllable (.gswap y) y (privileged (fun s =>
    match s.firstOf (s.othersReady s.myCluster s.me.ctx) with
    | none => answer y 1 s
    | some h => answer y 0 (s.modCluster s.myCluster (fun k => { k with switchTo := some h.ctx })))) s

def execSchedulerTick (cluster : Nat) (s : State) : Out := .next (if cluster < 72 then s.schedule cluster else s)

end Sys2Proof.Machine
end

