-- ==== Sys2Proof/Machine/Sign.lean ====
section
/-!
DEFINITION. The signatures of the device: SHA-384 (FIPS 180-4) and the verification of ECDSA on P-384 (FIPS 186-5), as R335,
R338, R425 and R443 name them.
-/
namespace Sys2Proof.Machine

/-! ## SHA-384 -/

/-- The first `n` primes found from `k` on. -/
def primesFrom : Nat → Nat → Nat → List Nat
  | 0, _, _ => []
  | _, 0, _ => []
  | fuel + 1, n + 1, k =>
    if (List.range k).all (fun d => d < 2 || k % d != 0) then k :: primesFrom fuel n (k + 1) else primesFrom fuel (n + 1) (k + 1)

def primes80 : List Nat := primesFrom 420 80 2

/-- The greatest `r` of `b` bits with p(r) true, found bit by bit from the top. -/
def greatest (p : Nat → Bool) : Nat → Nat → Nat
  | 0, r => r
  | b + 1, r => greatest p b (if p (r + 2 ^ b) then r + 2 ^ b else r)

/-- The first 64 bits of the fractional part of a cube root, and of a square root. -/
def cubeFrac (p : Nat) : Nat := greatest (fun r => r * r * r ≤ p * 2 ^ 192) 68 0 % 2 ^ 64
def sqrtFrac (p : Nat) : Nat := greatest (fun r => r * r ≤ p * 2 ^ 128) 69 0 % 2 ^ 64

abbrev W64 := BitVec 64

def shaK : List W64 := primes80.map (fun p => BitVec.ofNat 64 (cubeFrac p))

/-- The initial value of SHA-384: from the ninth to the sixteenth prime. -/
def shaInit : List W64 := ((primes80.drop 8).take 8).map (fun p => BitVec.ofNat 64 (sqrtFrac p))

def beNat (bs : List (BitVec 8)) : Nat := bs.foldl (fun n b => 256 * n + b.toNat) 0

def beBytes (n x : Nat) : List (BitVec 8) := (leBytes n x).reverse

/-- The message schedule: the last sixteen words, newest first, and how many words are still to come. -/
def shaSchedule : Nat → List W64 → List W64 → List W64
  | 0, _, acc => acc.reverse
  | n + 1, w, acc =>
    let at' : Nat → W64 := fun i => (w[i]?).getD 0
    let s0 := (at' 14).rotateRight 1 ^^^ (at' 14).rotateRight 8 ^^^ (at' 14) >>> 7
    let s1 := (at' 1).rotateRight 19 ^^^ (at' 1).rotateRight 61 ^^^ (at' 1) >>> 6
    let x := s1 + at' 6 + s0 + at' 15
    shaSchedule n (x :: w.take 15) (x :: acc)

def shaRound (h : List W64) (k w : W64) : List W64 :=
  match h with
  | [a, b, c, d, e, f, g, i] =>
    let s1 := e.rotateRight 14 ^^^ e.rotateRight 18 ^^^ e.rotateRight 41
    let ch := (e &&& f) ^^^ (~~~ e &&& g)
    let t1 := i + s1 + ch + k + w
    let s0 := a.rotateRight 28 ^^^ a.rotateRight 34 ^^^ a.rotateRight 39
    let t2 := s0 + ((a &&& b) ^^^ (a &&& c) ^^^ (b &&& c))
    [t1 + t2, a, b, c, d + t1, e, f, g]
  | _ => h

def shaBlock (h : List W64) (blk : List (BitVec 8)) : List W64 :=
  let w := (upTo 16).map (fun i => BitVec.ofNat 64 (beNat ((blk.drop (8 * i)).take 8)))
  let ws := w ++ shaSchedule 64 w.reverse []
  List.zipWith (· + ·) h ((shaK.zip ws).foldl (fun h x => shaRound h x.1 x.2) h)

def shaBlocks : Nat → List W64 → List (BitVec 8) → List W64
  | 0, h, _ => h
  | n + 1, h, bs => shaBlocks n (shaBlock h (bs.take 128)) (bs.drop 128)

/-- The SHA-384 digest of a message, as a number. -/
def sha384 (m : List (BitVec 8)) : Nat :=
  let pad := (239 - m.length % 128) % 128
  let bs := m ++ [0x80] ++ List.replicate pad 0 ++ beBytes 16 (8 * m.length)
  ((shaBlocks (bs.length / 128) shaInit bs).take 6).foldl (fun n w => 2 ^ 64 * n + w.toNat) 0

/-! ## P-384 -/

def p384 : Nat := 2 ^ 384 - 2 ^ 128 - 2 ^ 96 + 2 ^ 32 - 1

def n384 : Nat := 0xFFFFFFFFFFFFFFFFFFFFFFFFFFFFFFFFFFFFFFFFFFFFFFFFC7634D81F4372DDF581A0DB248B0A77AECEC196ACCC52973

def b384 : Nat := 0xB3312FA7E23EE7E4988E056BE3F82D19181D9C6EFE8141120314088F5013875AC656398D8A2ED19D2A85C8EDD3EC2AEF

/-- A point; none is the point at infinity. -/
abbrev Pt := Option (Nat × Nat)

def g384 : Pt :=
  some (0xAA87CA22BE8B05378EB1C71EF320AD746E1D3B628BA79B9859F741E082542A385502F25DBF55296C3A545E3872760AB7,
    0x3617DE4A96262C6F5D9E98BF9292DC29F8F41DBD289A147CE9DA3113B5F0B8C00A60B1CE1D7E819D7A431D7C90EA0E5F)

/-- x ^ e modulo m, the exponent taken by its low `b` bits. -/
def powMod (m x : Nat) : Nat → Nat → Nat
  | 0, _ => 1 % m
  | b + 1, e =>
    let r := powMod m (x * x % m) b (e / 2)
    if e % 2 = 1 then r * x % m else r

/-- The inverse modulo a prime. -/
def invMod (m x : Nat) : Nat := powMod m (x % m) 384 (m - 2)

def subMod (m a b : Nat) : Nat := (a + (m - b % m)) % m

/-- Addition on y² = x³ − 3x + b. -/
def ptAdd (a b : Pt) : Pt :=
  match a, b with
  | none, q => q
  | q, none => q
  | some (x1, y1), some (x2, y2) =>
    let p := p384
    if x1 = x2 && (y1 + y2) % p == 0 then none
    else
      let l := if x1 = x2 then (3 * x1 * x1 + (p - 3)) * invMod p (2 * y1) % p else subMod p y2 y1 * invMod p (subMod p x2 x1) % p
      let x3 := subMod p (subMod p (l * l) x1) x2
      some (x3, subMod p (l * subMod p x1 x3) y1)

def ptMul (q : Pt) : Nat → Nat → Pt
  | 0, _ => none
  | b + 1, k =>
    let r := ptMul (ptAdd q q) b (k / 2)
    if k % 2 = 1 then ptAdd r q else r

def onCurve (q : Nat × Nat) : Bool :=
  q.1 < p384 && q.2 < p384 && q.2 * q.2 % p384 == (q.1 * q.1 * q.1 + (p384 - 3) * q.1 + b384) % p384

/-- The signature of 96 bytes — r, then s, each big-endian — verifies over the message under a public key (R335). -/
def ecdsaOk (key : Nat × Nat) (m sig : List (BitVec 8)) : Bool :=
  let r := beNat (sig.take 48)
  let s := beNat ((sig.drop 48).take 48)
  if sig.length ≠ 96 ∨ r = 0 ∨ n384 ≤ r ∨ s = 0 ∨ n384 ≤ s ∨ onCurve key = false then false
  else
    let w := invMod n384 s
    let u1 := sha384 m % n384 * w % n384
    let u2 := r * w % n384
    match ptAdd (ptMul g384 384 u1) (ptMul (some key) 384 u2) with
    | none => false
    | some (x, _) => x % n384 == r

end Sys2Proof.Machine
end

