-- ==== Sys2Proof/Machine/Governor.lean ====
section
/-!
DEFINITION. The budget governor: the checks of a submitted curve (R334–R338), the segment in force (R339), the response to
a fall of the target (R345, R346, R349) and its lifting (R348).
-/
namespace Sys2Proof.Machine

/-! ## The image of a curve (R334, R335) -/

def Segment.ofBytes (bs : List Byte) : Segment :=
  { start := bytesAt bs 0 8, cap := bytesAt bs 8 4, floor := bytesAt bs 12 4, rup := bytesAt bs 16 4, rdn := bytesAt bs 20 4
    band := bytesAt bs 24 2, grade := BitVec.ofNat 8 (bytesAt bs 26 1) }

def Segment.mode (x : Segment) : Nat := x.grade.toNat % 4

/-- The lowest class that may be parked or shed; 0 counts as 1. -/
def Segment.tclass (x : Segment) : Nat := max 1 (field x.grade.toNat 6 4)

/-- NSEG of an image. -/
def imageSegs (bs : List Byte) : Nat := bytesAt bs 0x28 2

/-- Bytes of segment `n`. -/
def segBytes (bs : List Byte) (n : Nat) : List Byte := (bs.drop (0x40 + 32 * n)).take 32

def Curve.ofBytes (bs : List Byte) : Curve :=
  { issue := bytesAt bs 0x10 8, vfrom := bytesAt bs 0x18 8, vto := bytesAt bs 0x20 8
    segs := (upTo (imageSegs bs)).map (fun n => Segment.ofBytes (segBytes bs n)) }

/-- A list that rises strictly. -/
def rising : List Nat → Bool
  | a :: b :: t => a < b && rising (b :: t)
  | _ => true

/-- Bytes of a segment that is in its form: reserved bytes and bits zero, FLOOR ≤ CAP ≤ 57,600, MODE not 3. -/
def segWellFormed (bs : List Byte) : Bool :=
  let x := Segment.ofBytes bs
  bytesAt bs 0x1B 5 == 0 && field x.grade.toNat 3 2 == 0 && !x.grade.getLsbD 7 && x.mode != 3
    && x.floor ≤ x.cap && x.cap ≤ 57600

/-- Check 1 of R338 on the image's bytes. -/
def imageWellFormed (bs : List Byte) : Bool :=
  let n := imageSegs bs
  let c := Curve.ofBytes bs
  bytesAt bs 0 4 == 0x45504845 && bytesAt bs 4 2 == 1 && 1 ≤ n && n ≤ 256 && bytesAt bs 7 1 ≤ 1 && bytesAt bs 0x2A 22 == 0
    && c.vfrom < c.vto && rising (c.segs.map (·.start)) && (upTo n).all (fun k => segWellFormed (segBytes bs k))

/-- UTC now, in ns (R337). -/
def State.utcNow (s : State) : Int := s.time + s.gov.utcoff.toInt

/-- The image names this device, or a fleet of its signed identity. -/
def State.imageNames (s : State) (bs : List Byte) : Bool :=
  let id := BitVec.ofNat 64 (bytesAt bs 8 8)
  if bytesAt bs 7 1 = 0 then id == s.board.serial else s.board.fleets.contains id

/-- The verdict on a submission: 0, or the cause of the first check that fails (R338, R361). -/
def State.verdict (s : State) : Nat :=
  let bs := s.gov.image
  let c := Curve.ofBytes bs
  let body := 0x40 + 32 * imageSegs bs
  if !s.gov.readable || !imageWellFormed bs then 1
  else match (if bytesAt bs 6 1 < 4 then Tab.get none s.board.keys (bytesAt bs 6 1) else none) with
    | none => 2
    | some key =>
      if !ecdsaOk key (bs.take body) ((bs.drop body).take 96) then 3
      else if !s.imageNames bs then 4
      else if (c.vto : Int) ≤ s.utcNow then 5
      else if s.gov.lastIssue.any (c.issue ≤ ·) then 6
      else 0

/-! ## The submission (R336) -/

/-- Bytes of device memory that the lead Perigee reads; none where it finds no memory, a line that is no VALUE, or poison. -/
def State.readPlain (s : State) (a n : Nat) : Option (List Byte) :=
  if (upTo ((n + 63) / 64)).all (fun i => s.populated (a + 64 * i) && s.plainLine (a + 64 * i)) then some (s.bytesNow a n) else none

/-- The image at EPHADDR, read once. -/
def State.readImage (s : State) : Option (List Byte) :=
  let ia := s.gov.ephaddr.toNat * 64
  let a := ia % 2 ^ 42
  if ia / 2 ^ 42 ≠ s.board.devid.toNat then none
  else (s.readPlain a 64).bind (fun h =>
    let n := imageSegs h
    if n < 1 ∨ 256 < n then some h else s.readPlain a (160 + 32 * n))

/-! ## The segment in force (R339, R340) -/

/-- START of the segment in force at this time; none for the default envelope, which applies until READY (R339, R442). -/
def State.segmentNow (s : State) : Option Nat :=
  if s.gov.leadDead || s.board.stage != 5 then none
  else match s.gov.curve with
    | none => none
    | some c =>
      if (c.vfrom : Int) ≤ s.utcNow ∧ s.utcNow < c.vto then
        ((c.segs.filter (fun x => decide ((x.start : Int) ≤ s.utcNow))).map (·.start)).getLast?
      else none

/-- The target goes on from its value now. -/
def Governor.rebase (now : Nat) (g : Governor) : Governor := { g with target := g.rampTarget now, rampAt := now }

/-! ## Grades (R345, R346, R349) -/

/-- The limit comes down, and every cluster's target with it. -/
def State.raiseSlow (s : State) (l : Nat) : State :=
  let l := min s.gov.limit l
  (upTo 72).foldl (fun s c => s.modDvfs c (fun d => if l < d.target then d.aim l else d)) { s with gov := { s.gov with limit := l } }

/-- A share of class θ or above is shed. -/
def State.shedShare (θ : Nat) (s : State) (h : Share) : State :=
  if s.effClass h < θ then s
  else match h.state with
    | .running | .switched | .parked | .aborting => s.abortWith h.id 4 (some SHED) 0
    | .waiting | .ready =>
      (((s.unqueue h).modShare h.id (fun h => { h with state := .droppedS, status := some SHED, token := none }))).modTask h.task
        (Task.note s.time h.cluster SHED 0)
    | _ => s

/-- A lower threshold; 0 is none. -/
def tighter (θ old : Nat) : Nat := if old = 0 then θ else min θ old

/-- A grade's bound begins, beside those that run: the target before it is kept for the window (R341), and nothing is relaxed
until it ends. -/
def Governor.bound (now ns preT : Nat) (park : Bool) (g : Governor) : Governor :=
  { g with bounds := g.bounds.filter (fun b => now < b.ends) ++ [{ at' := now, ends := now + ns, preT := preT, park := park }], lifts := [] }

/-- The end of the last bound that runs. -/
def Governor.boundTo (g : Governor) : Nat := (g.bounds.map (·.ends)).foldl max 0

/-- The target that a window counts: while bounds run, the one before the earliest of them (R341, log 118). -/
def Governor.counted (now target : Nat) (g : Governor) : Nat :=
  match g.bounds.find? (fun b => now < b.ends) with
  | some b => b.preT
  | none => target

/-- The response to a curtailment event, with the target just before it. -/
def State.respond (s : State) (preT : Nat) : State :=
  let mode := (s.gov.seg.map Segment.mode).getD 0
  let tc := (s.gov.seg.map Segment.tclass).getD 1
  let t := s.targetNow
  let fits := fun (l : Nat) (p : Share → Bool) => fitsTarget (s.projected l p) s.gov.prest t
  let l := ((upTo 16).reverse.find? (fun l => fits l (fun _ => true))).getD 0
  let all := fits l (fun _ => true)
  let θ := (((upTo 8).reverse.filter (tc ≤ ·)).find? (fun θ => fits l (fun h => s.effClass h < θ))).getD tc
  let hit := fits l (fun h => s.effClass h < θ)
  let now := s.time
  let s : State := if l < 15 then { s.raiseSlow l with gov := (s.raiseSlow l).gov.bound now 1000000 preT false } else s
  if all then { s with gov := { s.gov with capmiss := false } }
  else if mode = 1 then s
  else
    let s : State := { s with gov := { s.gov with capmiss := !hit, lifting := false } }
    if mode = 2 then
      let s : State := { s with gov := ({ s.gov with sthr := tighter θ s.gov.sthr } : Governor).bound now 4000000 preT false }
      s.shares.foldl (State.shedShare θ) s
    else { s with gov := ({ s.gov with pthr := tighter θ s.gov.pthr } : Governor).bound now 30000000 preT true }

/-! ## Lifting (R348) -/

/-- The target exceeds the projection at level `l` with the classes below θ restored, plus tol. -/
def State.liftTest (s : State) (l θ : Nat) : Bool :=
  let p := ((s.shares.filter (fun h => h.state == .running || (h.state == .parked && s.effClass h < θ))).map
    (s.projectShare l)).foldl (· + ·) 0
  let t := s.targetNow
  decide (100 * (p + s.gov.prest * weightAll) + max t 19200 * weightAll < 100 * t * weightAll)

/-- The lower of the two thresholds in force; 0 for none. -/
def Governor.threshold (g : Governor) : Nat := if g.sthr = 0 then g.pthr else tighter g.sthr g.pthr

/-- The relaxations that remain, the next first: class by class, and then level by level. Each stands as the level and the
threshold that it leads to. -/
def Governor.liftPath (g : Governor) : List (Nat × Nat) :=
  let θ := g.threshold
  (if θ = 0 then [] else (upTo (8 - θ)).map (fun i => (g.limit, θ + 1 + i))) ++ (upTo (15 - g.limit)).map (fun i => (g.limit + 1 + i, 8))

def liftKey (p : Nat × Nat) : Nat := 16 * p.2 + p.1

/-- How long each relaxation's test has held without a break, counted from the end of the bound (R349). -/
def State.noteLift (s : State) : State :=
  { s with gov := { s.gov with
    lifts := if s.gov.graded && s.gov.boundTo ≤ s.time then
        (s.gov.liftPath.filter (fun p => s.liftTest p.1 p.2)).map (fun p => (liftKey p, Tab.get s.time s.gov.lifts (liftKey p)))
      else [] } }

/-- The test of the next relaxation has held for 10 ms. -/
def State.liftDue (s : State) : Bool :=
  match s.gov.liftPath with
  | [] => false
  | p :: _ => s.gov.lifts.any (fun e => e.1 == liftKey p && e.2 + 10000000 ≤ s.time)

/-- A threshold of class θ goes up by one class; above 7 it is gone. -/
def liftClass (θ x : Nat) : Nat := if x = θ then (if 7 ≤ θ then 0 else θ + 1) else x

/-- One relaxation. -/
def Governor.relax (g : Governor) : Governor :=
  let θ := g.threshold
  if θ ≠ 0 then { g with pthr := liftClass θ g.pthr, sthr := liftClass θ g.sthr, lifting := true }
  else { g with limit := min 15 (g.limit + 1) }

/-- The share waits in a queue of its cluster. -/
def State.queued (s : State) (h : Share) : Bool :=
  (s.cluster h.cluster).launchQ.contains h.id || (s.ctx h.ctx).ovf.any (fun o => o.share == h.id)

/-- A share at its place in an order of falling `parkedAt`. -/
def insertParked (h : Share) : List Share → List Share
  | [] => [h]
  | x :: t => if x.parkedAt ≤ h.parkedAt then h :: x :: t else x :: insertParked h t

/-- Parked shares by class from 7 down, and the later parked first: the order in which each is put at the front. -/
def State.backOrder (s : State) (l : List Share) : List Share :=
  (upTo 8).reverse.flatMap (fun k => (l.filter (fun h => s.effClass h == k)).foldr insertParked [])

/-- Once no die is gated, released shares return to the fronts of their clusters' queues: class 0 foremost, and within a
class in the order in which they parked. -/
def State.releaseParked (s : State) : State :=
  if !s.gov.gated.isEmpty then s
  else
    let l := s.shares.filter (fun h => h.state == .parked && !s.parkHeld h && !s.queued h)
    (s.backOrder l).foldl (fun s h =>
      ((s.modShare h.id (fun h => { h with readyAt := s.time })).placeFront h.cluster h.id h.ctx).getD s) s

end Sys2Proof.Machine
end

