-- ==== Sys2Proof/Machine/Energy.lean ====
section
/-!
DEFINITION. Energy: submissions and segments (R336–R340), grades as they act on shares and dies (R346–R348), rail samples,
allowances and windows (R19, R341, R342), DVFS and droop (R351, R352, R355), ballast (R357), LLC banks (R359).
-/
namespace Sys2Proof.Machine

/-- A grid of `period` ns has a point after `last` and not after `now`. -/
def due (period last now : Nat) : Bool := last / period < now / period

/-! ## Submissions (R336–R338) -/

def execEphSubmit (s : State) : Out :=
  .next (if s.board.stage = 0xFF then s
    else if s.gov.ephgo then { s with gov := { s.gov with cause := 7 } }
    else
      let img := s.readImage
      { s with gov := { s.gov with ephgo := true, image := img.getD [], readable := img.isSome } })

/-- The envelope in force may have changed: the target goes on from its value, and a curtailment event is answered
(R340, R345). -/
def State.envelope (s : State) (seg : Option Nat) (curve : Option Curve) : State :=
  let before := s.targetNow
  let s : State := { s with gov := { s.gov.rebase s.time with segNow := seg, curve := curve, dflt := seg.isNone } }
  let mode := (s.gov.seg.map Segment.mode).getD 0
  (if s.gov.live && (mode != 0 || s.targetNow < s.gov.meas) then s.respond before else s).noteLift

/-- The verdict, unless the lead has stopped responding (R19). -/
def State.judge (s : State) : State :=
  if !s.gov.ephgo || s.gov.leadDead then s
  else
    let v := s.verdict
    let s1 : State := { s with gov := { s.gov with ephgo := false, cause := BitVec.ofNat 8 v, image := [] } }
    if v ≠ 0 then s1
    else
      let c := Curve.ofBytes s.gov.image
      let s2 : State := { s1 with gov := { s1.gov with lastIssue := some c.issue } }
      s2.envelope ({ s2 with gov := { s2.gov with curve := some c } } : State).segmentNow (some c)

def execEphVerdict (s : State) : Out := .next s.judge

def execUtcoffWrite (w : Word) (s : State) : Out := .next (s.utcWrite w)

def execSegmentChange (s : State) : Out :=
  .next (if s.segmentNow = s.gov.segNow then s else s.envelope s.segmentNow s.gov.curve)

/-! ## Park (R346, R347) -/

/-- The share has stopped, and a fall of its power is covered. -/
def State.parkOne (s : State) (h : Share) (t : Task) : State :=
  if !s.parkHeld h then s
  else match h.state with
    | .running =>
      if s.shareSettled h.id && (s.cluster h.cluster).copies.all (fun c => !(c.share == h.id && c.started)) && s.stopRoom h then
        s.parkRunning h t
      else s
    | .switched => s.parkSwitched h t
    | _ => s

def execCurtailmentPark (share : Nat) (s : State) : Out :=
  .next (match s.share share with
    | none => s
    | some h => match s.task h.task with
      | none => s
      | some t => s.slopeHeld (fun s => s.parkOne h t))

/-- Clusters of a die. -/
def clustersOf (d : Nat) : List Nat := (upTo 9).map (9 * d + ·)

/-- Shares queued for a cluster, in its launch queue and in overflow rings. -/
def State.queuedFor (s : State) (c : Nat) : List Share :=
  (s.cluster c).launchQ.filterMap s.share ++ (s.overflowed c).filterMap (fun e => s.share e.2.share)

/-- A gating candidate (R347). -/
def State.gatable (s : State) (d : Nat) : Bool :=
  d < 8 && !s.gov.gated.contains d && (clustersOf d).all (fun c =>
    s.shares.all (fun h => !(h.cluster == c && (h.state == .running || h.state == .switched || h.state == .aborting)))
      && (s.queuedFor c).all (fun h => s.effClass h != 0)
      && (match (s.cluster c).ctx with
        | some x => s.gangStopped c x
        | none => true))

/-- READY shares below the threshold that a die's queues hold. -/
def State.dieWork (s : State) (d : Nat) : Nat :=
  ((clustersOf d).flatMap s.queuedFor |>.filter (fun h => h.state == .ready && s.effClass h < s.gov.pthr)).length

/-- The candidate that is gated first. -/
def State.firstGate (s : State) : Option Nat := leastBy s.dieWork ((upTo 8).filter s.gatable)

/-- Contexts' states leave the die's clusters, and its cores the eclipse rotation. -/
def State.gateDie (s : State) (d : Nat) : State :=
  let cs := clustersOf d
  let s := cs.foldl State.saveGang s
  let s := (cs.flatMap coresOf).foldl (fun (s : State) c => s.modCore c (fun k => { k with eclDue := true, eclipse := .idle, eclWait := none })) s
  { s with gov := { s.gov with
    gated := s.gov.gated ++ [d]
    gateAt := s.time
    bounds := s.gov.bounds.map (fun b => if b.park then { b with ends := b.ends + 2000000 } else b) } }

def execDieGate (die : Nat) (s : State) : Out :=
  .next (if s.gov.pthr ≠ 0 ∧ !s.gov.lifting ∧ (s.gov.gated = [] ∨ s.gov.gateAt + 2000000 ≤ s.time) ∧ s.firstGate = some die then
      s.slopeHeld (fun s => s.gateDie die)
    else s)

/-! ## Lifting (R348) -/

def execGradeLift (s : State) : Out :=
  .next (let s := s.noteLift
    if s.liftDue then (({ s with gov := s.gov.relax } : State).noteLift).releaseParked else s.releaseParked)

def execDieUngate (die : Nat) (s : State) : Out :=
  .next (if s.gov.lifting ∧ s.gov.gateAt + 2000000 ≤ s.time ∧ s.gov.gated.getLast? = some die then
      ({ s with gov := { s.gov with gated := s.gov.gated.dropLast, gateAt := s.time } } : State).releaseParked
    else s)

/-! ## Ballast (R357) -/

def execBallastTaper (s : State) : Out := .next s.noteBallast

/-! ## Rails, allowances and windows (R19, R341, R342) -/

/-- A cluster's rail reading joins its window; the third in a row above the allowance lowers the cluster one level, or is denied at
level 0 (R342, R351). -/
def Dvfs.sample (p : Nat) (working : Bool) (d : Dvfs) : Dvfs :=
  let d := { d with power := p, window := d.window + p, samples := d.samples + 1 }
  if !working || p ≤ d.allow then { d with above := 0 }
  else if d.above < 2 then { d with above := d.above + 1 }
  else if d.target = 0 then { d with above := 0, deny := min 65535 (d.deny + 1) }
  else { d with above := 0 }.aim (d.target - 1)

/-- A cluster's rail as the lead reads it: of C-dies 4–7, which H-die 1's core is assigned, from its last report (R19,
log 119). -/
def State.railNow (s : State) (c : Nat) : Nat := if c < 36 then Config.railPower s.free c else Tab.get 0 s.gov.reported c

/-- Mean of a list, rounded down. -/
def mean (l : List Nat) : Nat := l.foldl (· + ·) 0 / max 1 l.length

def State.sampleRails (s : State) : State :=
  let n := s.free
  let before := s.targetNow
  let old := s.gov.targetAt s.gov.sampledAt
  let oldMeas := s.gov.meas
  let s := (upTo 72).foldl (fun s c => if s.dieGated c then s.modDvfs c (fun d => { d with power := 0, above := 0 })
    else s.modDvfs c (Dvfs.sample (s.railNow c) (s.working c))) s
  let rest := Config.railPower n 72 + s.gov.reportPower
  let all := (upTo 72).foldl (fun p c => p + (s.cluster c).dvfs.power) rest
  let l := (all :: s.gov.samples).take 100
  let s : State := { s.noteBallast with free := n + 1 }
  let g := s.gov
  let s : State := { s with gov := { g with
    sampledAt := s.time, prest := rest, samples := l, meas := mean l, ballastSum := g.ballastSum + g.ballast
    winTarget := g.winTarget + g.counted s.time before, winPower := g.winPower + all, winN := g.winN + 1 } }
  let t := s.targetNow
  let kept := s.projected s.gov.limit (fun h => s.gov.threshold = 0 || s.effClass h < s.gov.threshold)
  -- a ramp has brought the target below the mean, or lowers it further while the grades in force do not answer it (R340, R345)
  (if s.gov.live && t < old && t < s.gov.meas && (oldMeas ≤ old || !fitsTarget kept rest t) then s.respond before else s).noteLift

def execRailSample (s : State) : Out := .next (if due 10000 s.gov.sampledAt s.time then s.sampleRails else s)

/-- Equal allowances, and the undrawn part shared among the clusters that reached theirs (R342). -/
def State.allot (s : State) : State :=
  let cs := (upTo 72).filter (fun c => s.working c && !s.dieGated c)
  let equal := s.shareable / max 1 cs.length
  let drawn := fun (c : Nat) => (s.cluster c).dvfs.window / max 1 (s.cluster c).dvfs.samples
  let spare := cs.foldl (fun n c => n + (equal - drawn c)) 0
  let full := cs.filter (fun c => equal ≤ drawn c)
  let s := cs.foldl (fun (s : State) c => s.modDvfs c (fun d => { d with
    drawn := drawn c, allow := equal + (if full.contains c then spare / max 1 full.length else 0) })) s
  let s := (upTo 72).foldl (fun (s : State) c => s.modDvfs c (fun d => { d with window := 0, samples := 0 })) s
  { s with gov := { s.gov with allowAt := s.time, given := if cs.isEmpty then none else some (s.shareable, s.targetNow) } }

def execAllowanceRecompute (s : State) : Out := .next (if due 100000 s.gov.allowAt s.time then s.allot else s)

/-- H-die 1 reports its rail and those assigned to it to the lead, which counts the readings until the next report (R19, R342). -/
def execPerigeeReport (s : State) : Out :=
  .next (if due 10000 s.gov.reportAt s.time then
      { s with
        gov := { s.gov with
          reportAt := s.time, reportPower := Config.railPower s.free 73
          reported := (upTo 36).foldl (fun t i => Tab.set 0 t (36 + i) (Config.railPower s.free (36 + i))) [] }
        free := s.free + 1 }
    else s)

/-- The lead has stopped responding: the default envelope until reset (R19, R363). -/
def execLeadTimeout (s : State) : Out :=
  .next (if s.gov.leadDead then s
    else ({ s with gov := { s.gov with leadDead := true } } : State).envelope none s.gov.curve)

/-- A window ends: the floor and the slope-excused energy of it (R341, R358). -/
def Governor.closeWindow (now : Nat) (g : Governor) : Governor :=
  let n := max 1 g.winN
  let t := g.winTarget / n
  let p := g.winPower / n
  let seg := g.seg
  let floor := (seg.map (·.floor)).getD 0
  let band := (seg.map (·.band)).getD 0
  let extra := min (p - (t + max (t / 100) 192)) (g.ballastSum / n)
  { g with
    floormiss := floor != 0 && decide (p + band < floor)
    excused := min 65535 (extra * 50 / 16), reduce := extra
    winTarget := 0, winPower := 0, winN := 0, ballastSum := 0, windowAt := now }

def execTrackingWindowEnd (s : State) : Out :=
  .next (if due 50000000 s.gov.windowAt s.time then { s with gov := s.gov.closeWindow s.time } else s)

/-! ## DVFS and droop (R351, R352, R355) -/

/-- The target after a sample of ratio `r` (R351). -/
def Dvfs.follow (r : Nat) (d : Dvfs) : Dvfs :=
  let d := { d with sratio := r }
  if 128 ≤ r then
    if d.target = 0 then { d with deny := min 65535 (d.deny + 1) } else { d with target := d.target - 1 }
  else if r < 32 then
    match d.requested with
    | some q => if d.target < q then { d with target := d.target + 1 } else d
    | none => d
  else d

def State.stallSample (s : State) (cl : Nat) : State :=
  let d := (s.cluster cl).dvfs
  -- a sample without a cycle has no ratio: a free value
  let r := if d.cycles = 0 then Config.choice s.free % 256 else 255 * d.stalled / d.cycles
  let s : State := if d.cycles = 0 then { s with free := s.free + 1 } else s
  s.modDvfs cl (fun d =>
    let d := d.follow r
    { d with stalled := 0, cycles := 0, sampledAt := s.time }.aim (min d.target s.gov.limit))

def execStallSample (cluster : Nat) (s : State) : Out :=
  .next (if cluster < 72 ∧ due 10000 (s.cluster cluster).dvfs.sampledAt s.time then s.stallSample cluster else s)

def execFrequencySwitchDone (cluster : Nat) (s : State) : Out :=
  .next (if cluster < 72 then s.slopeHeld (fun s => s.switchDone cluster) else s)

def execVoltageRampDone (cluster : Nat) (s : State) : Out :=
  .next (if cluster < 72 then s.slopeHeld (fun s => s.rampDone cluster) else s)

/-- The alarm of a droop detector. -/
def execDroopAlarm (cluster : Nat) (s : State) : Out :=
  .next (if cluster < 72 then
      (s.modCluster cluster (fun k => { k with stretch := 6, gaps := 64, alarms := min 65535 (k.alarms + 1) })).countLife
        lifeCluster cluster cDroop
    else s)

/-! ## LLC banks (R359) -/

/-- The bank served fewer than 1/256 of the hits of the millisecond that ended at `now`'s, and another may be gated. -/
def HDie.coldBank (d : HDie) (now minb bank : Nat) : Bool :=
  let ms := d.lastMs (now / 1000000 * 10)
  let hits : Nat := (ms.map (fun x => (x.hits.map (·.2)).sum)).sum
  let own : Nat := (ms.map (fun x => Tab.get 0 x.hits bank)).sum
  d.poweredBanks.contains bank && decide (256 * own < hits) && decide (minb < d.poweredBanks.length)

/-- The miss rate of the 1 ms that ended at `now`'s tenth exceeds `rate` ÷ 65,536. -/
def HDie.missing (d : HDie) (now rate : Nat) : Bool :=
  let ms := d.lastMs (now / 100000)
  decide (rate * (ms.map (·.accesses)).sum < 65536 * (ms.map (·.misses)).sum)

/-- The estimator's millisecond: the bank is written back and gated if it is cold. -/
def State.estimate (s : State) (h bank : Nat) : State :=
  let d := s.hdie h
  let s := if d.coldBank s.time s.board.minb bank then
      (s.evictLines ((d.llc.filter (fun e => e.2.any (fun l => l.bank == some bank))).map (·.1))).modHdie h
        (fun d => { d with gatedBanks := d.gatedBanks ++ [bank] })
    else s
  s.modHdie h (fun d => { d with bankAt := s.time })

def execLlcBankGate (hdie bank : Nat) (s : State) : Out :=
  .next (if hdie < 2 ∧ due 1000000 (s.hdie hdie).bankAt s.time then s.estimate hdie bank else s)

def execLlcBankReenable (hdie bank : Nat) (s : State) : Out :=
  .next (let d := s.hdie hdie
    if hdie < 2 ∧ d.gatedBanks.contains bank ∧ due 100000 d.enableAt s.time ∧ d.missing s.time s.board.rate then
      s.modHdie hdie (fun d => { d with gatedBanks := d.gatedBanks.filter (· != bank), enableAt := s.time })
    else s)

end Sys2Proof.Machine
end

