-- ==== Sys2Proof/Machine/Gangs.lean ====
section
/-!
DEFINITION. The gang protocol (R439–R441): what a member does with ARM, GO, GANGBREAK and a commit, and what the initiator
does with the answers, the timeouts and the final statuses. A message between a device and itself is taken from the
device's outbox; one from another device is an input.
-/
namespace Sys2Proof.Machine

/-! ## Messages -/

/-- A message that this device sent to itself has arrived; one that it did not send has not. From another device it comes in
while domain traffic is enabled (R432). -/
def State.takeMsg (s : State) (sender : Nat) (m : Msg) : Option State :=
  if sender ≠ s.board.devid.toNat then (if s.board.domEn then some s else none)
  else if s.board.outbox.contains m then some { s with board := { s.board with outbox := s.board.outbox.erase m } }
  else none

def isArmed (dev gang : Nat) (a : Armed) : Bool := a.gang == gang && a.dev == dev

/-- The reservation of a gang, with its context. -/
def State.findArmed (s : State) (dev gang : Nat) : Option (Nat × Armed) :=
  (s.ctxs.flatMap (fun e => (e.2.armed.filter (isArmed dev gang)).map (fun a => (e.1, a)))).head?

def State.modArmed (s : State) (f : List Armed → List Armed) : State :=
  { s with ctxs := s.ctxs.map (fun e => (e.1, { e.2 with armed := f e.2.armed })) }

def State.disarm (s : State) (dev gang : Nat) : State := s.modArmed (fun l => l.filter (fun a => !isArmed dev gang a))

/-- Tasks of a gang on this device. -/
def State.gangTasks (s : State) (dev gang : Nat) : List Task := s.tasks.filter (fun t => t.gang == some (dev, gang))

/-! ## The member -/

/-- A gang's share into a launch-queue entry: its member has reserved it there, and the overflow ring takes none (R439). -/
def State.enqueueKept (s : State) (sh : Share) : Option State :=
  if s.queueRoom sh.cluster then
    some (({ s with shares := s.shares ++ [sh] } : State).modCluster sh.cluster (fun k => { k with launchQ := k.launchQ ++ [sh.id] }))
  else none

/-- The launch of a gang's block; no message carries the block's address, so a6 of its steps is a free value (R296). -/
def State.gangLaunch (s : State) (dev gang ctx : Nat) (bs : List Byte) : Option (Nat × State) :=
  let b := Block.ofBytes bs
  ({ s with free := s.free + 1 } : State).launchAt ctx b (Config.choice s.free)
    { root := none, path := [], depth := 0, gang := some (dev, gang) } (s.chooseOp b) (s.clustersFrom b.home) false State.enqueueKept

/-- The clusters that a gang's shares would go to now (R288). -/
def State.gangClusters (s : State) (b : Block) : List Nat := (s.clustersFrom b.home).take (b.boxes (b.tiles (s.chooseOp b))).length

/-- ARM: LIVE, valid, and room for the shares. -/
def State.mayArm (s : State) (dev gang ctx : Nat) (bs : List Byte) : Bool :=
  ctx < 64 && (s.ctx ctx).state == 1 && s.blockValid ctx (Block.ofBytes bs) && (s.gangLaunch dev gang ctx bs).isSome

def execArm (dev gang ctx : Nat) (block : List Byte) (s : State) : Out :=
  .next (match s.takeMsg dev (.arm dev gang ctx block) with
    | none => s
    | some s =>
      if s.mayArm dev gang ctx block then
        (s.modCtx ctx (fun x => { x with armed := x.armed ++
          [{ gang := gang, dev := dev, block := block, start := none, since := s.time, cls := s.gangClusters (Block.ofBytes block) }] })).sendTo dev (.armOk dev gang)
      else s.sendTo dev (.armRefuse dev gang))

def execDisarm (dev gang : Nat) (s : State) : Out :=
  .next (match s.takeMsg dev (.disarm dev gang) with
    | none => s
    | some s => s.disarm dev gang)

def execGoWaitTimeout (dev gang : Nat) (s : State) : Out :=
  .next (match s.findArmed dev gang with
    | some (_, a) => if a.start.isNone && decide (a.since + 1000000 ≤ s.time) then s.disarm dev gang else s
    | none => s)

def execGo (dev gang start : Nat) (s : State) : Out :=
  .next (match s.takeMsg dev (.go dev gang start) with
    | none => s
    | some s => match s.findArmed dev gang with
      | none => s
      | some (_, a) =>
        -- 1 ms without GO has released the reservation
        if a.start.isNone && decide (a.since + 1000000 < s.time) then s.disarm dev gang
        else (s.modArmed (fun l => l.map (fun a => if isArmed dev gang a then { a with start := a.start.or (some start) } else a))).sendTo
          dev (.goAck dev gang))

/-- The start time has come: the block is launched, once the reserved entries can be had. -/
def execGangStart (dev gang : Nat) (s : State) : Out :=
  .next (match s.findArmed dev gang with
    | some (x, a) =>
      if !a.start.any (· ≤ s.time) then s
      else match (s.disarm dev gang).gangLaunch dev gang x a.block with
        | some (_, t) => t
        | none => s
    | none => s)

/-- A gang share is broken off: a started one is aborted without a split, another ends at once. -/
def State.breakShare (s : State) (h : Share) : State :=
  match h.state with
  | .running | .switched | .parked | .aborting => s.abortWith h.id 2 (some GANGBREAK) 0
  | .waiting | .ready => (s.unqueue h).endShare h.id (some GANGBREAK) 0
  | _ => s

/-- GANGBREAK at a member: nothing starts any more, every share is broken off, every shadow dropped. -/
def State.breakGang (s : State) (dev gang : Nat) : State :=
  let s := s.disarm dev gang
  let hs := s.shares.filter (fun h => (s.gangTasks dev gang).any (fun t => t.id == h.task))
  let s := hs.foldl State.breakShare s
  hs.foldl (fun s h => s.dropShadowsOf h.ctx h.id) s

def execGangbreak (dev gang : Nat) (s : State) : Out :=
  .next (match s.takeMsg dev (.gangbreak dev gang) with
    | none => s
    | some s => s.breakGang dev gang)

/-- A gang's marked shadows on this device, with their tasks, in marking order whatever share opened them (R264, R440). -/
def State.gangMarked (s : State) (dev gang : Nat) : List (Task × Shadow) :=
  let ts := s.gangTasks dev gang
  let owner := fun (y : Shadow) => (s.share y.share).bind (fun h => ts.find? (fun t => t.id == h.task))
  ((ts.map (·.ctx)).dedup).flatMap (fun x =>
    (((s.ctx x).shadows.filter (fun y => y.mark.isSome)).foldl (fun l y => insertMark y l) []).filterMap
      (fun y => (owner y).map (fun t => (t, y))))

/-- A commit has been carried out in full: it is acknowledged. -/
def State.commitDone (s : State) (dev gang : Nat) (drop : Bool) : State :=
  ({ s with board := { s.board with commits := s.board.commits.erase (dev, gang, drop) } } : State).sendTo dev (.commitAck dev gang)

/-- A commit under way goes on: every marked shadow is dropped, or the next one is published, each at an instant of its own,
under a stamp of any cluster at SYSTEM scope (R264, R440, R451); one waits while the log is full, or for a page (R421). -/
def State.commitStep (s : State) (dev gang : Nat) (drop : Bool) : State :=
  match s.gangMarked dev gang with
  | [] => s.commitDone dev gang drop
  | (t, y) :: rest =>
    if drop then (((t, y) :: rest).foldl (fun s e => s.dropShadow e.1.ctx e.2) s).commitDone dev gang drop
    else if s.logFull || s.bufferMoving t.ctx y.base y.len then s
    else match s.bufferFault t.ctx y.base y.len with
      | some (hd, p) => (s.pageFault hd t.ctx p 5).2
      | none =>
        let s := s.publish t.ctx t.id y { cl := none, dev := some s.board.devid.toNat, sc := 3 }
        if rest.isEmpty then s.commitDone dev gang drop else s

/-- A commit that has come goes on from here, event by event; one that comes anew starts. -/
def execGangCommitMessage (dev gang : Nat) (drop : Bool) (s : State) : Out :=
  .next (if s.board.commits.contains (dev, gang, drop) then s.commitStep dev gang drop
    else match s.takeMsg dev (.commit dev gang drop) with
      | none => s
      | some s =>
        ({ s with board := { s.board with commits := s.board.commits ++ [(dev, gang, drop)] } } : State).commitStep dev gang drop)

/-! ## The initiator -/

def State.findGang (s : State) (gang : Nat) : Option GangRec := (s.ctxs.flatMap (fun e => e.2.gangs)).find? (fun r => r.id == gang)

def State.modGang (s : State) (gang : Nat) (f : GangRec → GangRec) : State :=
  { s with ctxs := s.ctxs.map (fun e => (e.1, { e.2 with gangs := e.2.gangs.map (fun r => if r.id = gang then f r else r) })) }

/-- DETAIL: the members that acknowledged the last phase sent, and whether GO was sent. -/
def GangRec.detail (r : GangRec) : Nat :=
  let acks := if r.goSent then r.goAck else r.armOk
  ((r.members.zip (upTo 31)).map (fun m => if acks.contains m.1 then 2 ^ m.2 else 0)).foldl (· + ·) 0 + bool1 r.goSent * 2 ^ 31

/-- The completion word of a gang whose outcome is known; until it is written the gang is not complete (R439, R451). -/
def State.gangWord (s : State) (gang : Nat) : State :=
  match s.findGang gang with
  | none => s
  | some r => match r.verdict with
    | none => s
    | some v =>
      let b := Block.ofBytes r.block
      let fin := fun (s : State) => s.modGang gang (fun r => { r with status := some v, verdict := none, phase := 2 })
      if b.cwaddr = 0 then fin s
      else match s.hwWrite r.ctx b.cwaddr (completionWord b.cwseq (BitVec.ofNat 8 v) r.detail) (some (s.stampOf r.cluster b.cwsc)) [] with
        | (.wait _ _, s) => s
        | (.moving, s) => s
        | (_, s) => fin s

/-- The outcome of a gang is known: a failure after GO breaks off every member. -/
def State.endGang (s : State) (r : GangRec) (v : Nat) : State :=
  let s := s.modGang r.id (fun r => { r with verdict := some v })
  let s := if v ≠ 0 && r.goSent then r.members.foldl (fun s m => s.sendTo m (.gangbreak m r.id)) s else s
  s.gangWord r.id

/-- The gang is still waited for. -/
def GangRec.pending (r : GangRec) : Bool := r.status.isNone && r.verdict.isNone

/-- ARM has failed: every member is released. -/
def State.armFails (s : State) (r : GangRec) : State :=
  (r.members.foldl (fun s m => s.sendTo m (.disarm m r.id)) s).endGang r GANG_INCOMPLETE.toNat

def execArmOk (dev gang : Nat) (s : State) : Out :=
  .next (match s.takeMsg dev (.armOk dev gang) with
    | none => s
    | some s => match s.findGang gang with
      | none => s
      | some r =>
        if !r.pending || r.goSent || !r.members.contains dev || r.armOk.contains dev then s.gangWord gang
        else if r.sentAt + 200000 < s.time then s.armFails r
        else
          let ok := r.armOk ++ [dev]
          if r.members.all ok.contains then
            let start := s.time + r.lead
            let s := s.modGang gang (fun r => { r with armOk := ok, phase := 1, goSent := true, sentAt := s.time, start := start })
            r.members.foldl (fun s m => s.sendTo m (.go m gang start)) s
          else s.modGang gang (fun r => { r with armOk := ok }))

def execArmRefuse (dev gang : Nat) (s : State) : Out :=
  .next (match s.takeMsg dev (.armRefuse dev gang) with
    | none => s
    | some s => match s.findGang gang with
      | none => s
      | some r => if !r.pending || r.goSent || !r.members.contains dev then s.gangWord gang else s.armFails r)

def execArmTimeout (gang : Nat) (s : State) : Out :=
  .next (match s.findGang gang with
    | none => s
    | some r => if r.pending && !r.goSent && decide (r.sentAt + 200000 ≤ s.time) then s.armFails r else s.gangWord gang)

/-- A GO-ACK is missing 200 µs after GO. -/
def State.goLate (s : State) (r : GangRec) : Bool := r.goSent && !r.members.all r.goAck.contains && decide (r.sentAt + 200000 < s.time)

def execGoAck (dev gang : Nat) (s : State) : Out :=
  .next (match s.takeMsg dev (.goAck dev gang) with
    | none => s
    | some s => match s.findGang gang with
      | none => s
      | some r =>
        if !r.pending || !r.goSent || !r.members.contains dev || r.goAck.contains dev then s.gangWord gang
        else if s.goLate r then s.endGang r GANG_INCOMPLETE.toNat
        else s.modGang gang (fun r => { r with goAck := r.goAck ++ [dev] }))

def execGoTimeout (gang : Nat) (s : State) : Out :=
  .next (match s.findGang gang with
    | none => s
    | some r =>
      if r.pending && r.goSent && !r.members.all r.goAck.contains && decide (r.sentAt + 200000 ≤ s.time) then
        s.endGang r GANG_INCOMPLETE.toNat
      else s.gangWord gang)

/-- The earliest of the failures reported; of simultaneous ones the first. -/
def firstFailure : List (Nat × Nat × Nat) → Option (Nat × Nat)
  | [] => none
  | (_, st, t) :: rest =>
    match firstFailure rest with
    | none => if st = 0 then none else some (st, t)
    | some o => if st ≠ 0 ∧ t ≤ o.2 then some (st, t) else some o

/-- OK when every member reports OK, else the first failure in device time (R439). -/
def GangRec.outcome (r : GangRec) : Nat := ((firstFailure r.done).map (·.1)).getD 0

/-- A member's final status, with the device time of its failure. -/
def execGangDone (dev gang : Nat) (status : FinalStatus) (s : State) : Out :=
  .next (match s.takeMsg dev (.done dev gang status.status status.time) with
    | none => s
    | some s => match s.findGang gang with
      | none => s
      | some r =>
        if !r.pending || !r.goSent || !r.members.contains dev || r.done.any (fun d => d.1 == dev) then s.gangWord gang
        else if s.goLate r then s.endGang r GANG_INCOMPLETE.toNat
        else
          let r' := { r with done := r.done ++ [(dev, status.status.toNat, status.time)] }
          let s := s.modGang gang (fun _ => r')
          if r.members.all (fun m => r'.done.any (fun d => d.1 == m)) then s.endGang r' r'.outcome else s)

/-- A member that has acknowledged GO and can no longer report (R439). -/
def State.lostMember (s : State) (r : GangRec) : Bool :=
  r.pending && r.goSent && r.members.any (fun m =>
    m != s.board.devid.toNat && r.goAck.contains m && !r.done.any (fun d => d.1 == m) && !s.routed m)

/-- Gangs of this device whose members a route that has gone DOWN has cut off. -/
def State.dropLost (s : State) : State :=
  ((s.ctxs.flatMap (fun e => e.2.gangs)).filter s.lostMember).foldl (fun s r => s.endGang r GANG_INCOMPLETE.toNat) s

/-! ## GCOMMIT (R440) -/

/-- The group that holds on a GCOMMIT takes its answer. -/
def Group.commitAnswer (gang : Nat) (v : Word) (g : Group) : Group :=
  g.holds.foldl (fun g x => match x with
    | .gcommit n rd => if n = gang then { g.wrA rd v with holds := g.holds.filter (fun y => y != x) } else g
    | _ => g) g

def execGcommitAck (dev gang : Nat) (s : State) : Out :=
  .next (match s.takeMsg dev (.commitAck dev gang) with
    | none => s
    | some s => match s.findGang gang with
      | none => s
      | some r =>
        if r.commitAt.isNone || !r.members.contains dev then s
        else
          let acks := if r.commitAck.contains dev then r.commitAck else r.commitAck ++ [dev]
          if r.members.all acks.contains then
            (s.mapGroups (Group.commitAnswer gang 0)).modCtx r.ctx (fun x => { x with gangs := x.gangs.filter (fun q => q.id != gang) })
          else s.modGang gang (fun r => { r with commitAck := acks }))

def execGcommitAckTimeout (gang : Nat) (s : State) : Out :=
  .next (match s.findGang gang with
    | none => s
    | some r => match r.commitAt with
      | some t =>
        if t + 200000 ≤ s.time then (s.mapGroups (Group.commitAnswer gang 3)).modGang gang (fun r => { r with commitAt := none })
        else s
      | none => s)

end Sys2Proof.Machine
end

