-- ==== Sys2Proof/Machine/Recovery.lean ====
section
/-!
DEFINITION. Recovery: corrected errors and strong mode (R409, R410), the scrubber (R411), uncorrectable errors (R412–R415),
the eclipse (R51, R420), the publish log (R421, R422), the fence (R423), and the lifetime records (R424, R425).
-/
namespace Sys2Proof.Machine

/-! ## Corrected errors (R408–R411) -/

/-- The lifetime class of an ECC bank's line. -/
def lineClass (ln : Nat) : Nat := if isCommons (64 * ln) then lifeCommons else lifeDram

def State.modEcc (s : State) (b : Nat) (f : EccBank → EccBank) : State :=
  { s with board := { s.board with ecc := Tab.modify {} s.board.ecc b f } }

/-- One more corrected error of a bank, in the window that holds this time. -/
def EccBank.count1 (now wsh : Nat) (e : EccBank) : EccBank :=
  let w := 2 ^ wsh * 1000000
  if now / w = e.since / w then { e with count := e.count + 1 } else { e with count := 1, since := now }

/-- The bank goes over to strong mode: its check area is to be withdrawn, and its lines re-encoded (R410). -/
def State.goStrong (s : State) (b : Nat) : State :=
  let s := s.modEcc b (fun e => { e with strong := true, strongAt := some s.time })
  ({ s with board := { s.board with leaving := s.board.leaving ++ (Config.checkArea b).map (fun f => (f, 7)) } } : State).withdrawAll

/-- A corrected error at a line of device memory. -/
def State.correctedLine (s : State) (ln : Nat) : State :=
  let b := Config.eccBank ln
  let s := (s.countLife (lineClass ln) b cCorrected).modEcc b (fun e =>
    { e.count1 s.time s.board.wsh with commons := isCommons (64 * ln) })
  let e := Tab.get {} s.board.ecc b
  if !e.strong then (if s.board.eccCount ≤ e.count then s.goStrong b else s)
  else
    let n := Tab.get 0 e.perLine ln + 1
    let s := s.modEcc b (fun e => { e with perLine := Tab.set 0 e.perLine ln n })
    let at' := ln / 64 * 4096
    if max 1 s.board.retire ≤ n && !s.board.leaving.contains (at', 9) && !s.board.withdrawn.any (fun w => meetsRange w.1 w.2 at' 4096) then
      ({ s with board := { s.board with leaving := s.board.leaving ++ [(at', 9)] } } : State).withdrawAll
    else s

/-- A corrected error changes no value: it is counted, and a bank may go over to strong mode or a page be retired. -/
def execEccCorrected (unit : EccUnit) (s : State) : Out :=
  .next (match unit with
    | .line ln => s.correctedLine ln
    | .slot cl _ _ _ => s.countLife lifeOs cl cCorrected
    | .core c _ => s.countLife lifeCore c cCorrected
    | .entry c _ => s.countLife lifeCore c cCorrected
    | .image _ => s
    | .llc _ => s
    | .word _ _ => s)

/-- The scrubber takes up the bank's next line, which waits meanwhile, and at its next turn there has re-encoded it: requests
held for it perform (R410). -/
def State.reencode (s : State) (bank : Nat) : State :=
  let e := Tab.get {} s.board.ecc bank
  if !e.strong then s
  else match e.coding with
    | none => s.modEcc bank (fun e => { e with coding := some (Config.bankLine bank e.recoded) })
    | some ln => ((s.modEcc bank (fun e => { e with coding := none, recoded := e.recoded + 1 })).drainStall (ownerOf (64 * ln))).withdrawAll

def execStrongReencodeLine (bank : Nat) (s : State) : Out := .next (s.reencode bank)

/-- The scrubber's next line; what it finds is an event of its own. -/
def execScrubLine (s : State) : Out :=
  .next ({ s with board := { s.board with scrubLine := (s.board.scrubLine + 1) % 2 ^ 36, scrubAt := s.time } } : State).withdrawAll

/-! ## Uncorrectable errors (R412–R415) -/

/-- Damage to the segment-entry state of a share: a rerun, or the ending POISON (R415). -/
def State.damageShare (s : State) (id : Nat) : State :=
  match s.share id with
  | none => s
  | some h =>
    let lost := h.escaped || 2 ≤ h.reruns
    match h.state with
    | .running | .aborting => if lost then s.failShare id POISON 0 else s.abortWith id 1 none 0
    | .switched | .parked =>
      -- nothing of it runs: it ends at once (R302, log 84)
      if lost then (s.clearShare h POISON).endShare id (some POISON) 0 else s.abortWith id 1 none 0
    | _ => s

/-- Groups of core `c` that are held outside its banks: adopted parents, spilled groups, and those an eclipse has put aside. -/
def Core.aside (k : Core) : List Group :=
  k.parents ++ k.spilled ++ (k.eclSaved.map (fun e => [e.1, e.2.1].filterMap id)).getD []

/-- Such a group goes back to its segment entry (R413), with its commands and its ring's positions; one that has yet to reach
its entry rewinds there (R44). -/
def State.rewindAside (s : State) (c : Nat) (g : Group) : State :=
  if g.entering then s.modGroup g.gid (fun g => { g with errPend := true })
  else
    let mats := ((s.core c).eclSaved.map (fun e => e.2.2)).getD (s.core c).mat
    let g' := g.rewind (mats.ringOf g.gid) s.fresh false
    let s : State := { s with fresh := s.fresh + 1 }
    ((s.modGroup g.gid (fun _ => g')).modCore c (fun k =>
      { (k.setRewind g') with
        mat := k.mat.rewind g'
        eclSaved := k.eclSaved.map (fun e => (e.1, e.2.1, e.2.2.rewind g')) })).modCluster (c / 4) (fun k =>
          { k with copies := rewindCopies g' k.copies, outbound := rewindAccs g' false k.outbound })

/-- The groups that are fused with a group held aside on core `c`, itself among them (R51). -/
def State.asideWith (s : State) (c : Nat) (g : Group) : List (Nat × Group) :=
  if !g.gstat.fused then [(c, g)]
  else (fusionSet c g.gstat.fwidth).flatMap (fun k => ((s.core k).aside.filter (fun h =>
    h.gstat.fused && h.share == g.share && h.gstat.fwidth == g.gstat.fwidth && h.seg.addr == g.seg.addr)).map (fun h => (k, h)))

/-- A group rewinds wherever it is held (R413). -/
def State.rewindGid (s : State) (cl gid : Nat) : State :=
  match s.find gid with
  | some (c, b) => s.errRewind c b
  | none =>
    ((coresOf cl).flatMap (fun c => ((s.core c).aside.filter (·.gid == gid)).flatMap (s.asideWith c))).foldl
      (fun s e => s.rewindAside e.1 e.2) s

/-- A CLEAN slot is to be refetched, and the groups of the reader's share that have read it rewind and wait (R413). -/
def State.damageClean (s : State) (cl slot : Nat) (share : Nat) : State :=
  let who := ((s.cluster cl).readers.filter (·.1 == slot)).map (·.2)
  let mine := who.filter (fun n => (s.share share).any (fun h => h.groups.contains n))
  let s := s.modCluster cl (fun k =>
    { k with
      refetch := k.refetch ++ [slot], readers := k.readers.filter (·.1 != slot)
      unrestored := if k.unrestored.contains slot then k.unrestored else k.unrestored ++ [slot] })
  mine.foldl (fun s n => (s.rewindGid cl n).modGroup n (fun g => { g with holds := g.holds ++ [.refetch slot] })) s

def State.damageSlot (s : State) (cl slot core : Nat) (bank : Bool) : State :=
  let s := s.countLife lifeOs cl cUncorrectable
  if (Tab.get none (s.cluster cl).clean slot).isSome && !(s.cluster cl).refetch.contains slot then
    s.damageClean cl slot (((s.bank core bank).map (·.share)).getD 0)
  else s.setTag cl slot { s.tag cl slot with poison := true }

/-- A damaged microprogram word: its routine is INVALID, and an MCALL that runs it takes the engine fault POISON. -/
def Cluster.badWord (w : Nat) (k : Cluster) : Cluster :=
  { k with routines := k.routines.map (fun e =>
      if e.2.state = 1 ∧ e.2.start ≤ w ∧ w < e.2.start + e.2.len then (e.1, { e.2 with state := 2 }) else e) }

def State.damageWord (s : State) (cl w : Nat) : State :=
  let was := (s.cluster cl).routines
  let s := s.modCluster cl (Cluster.badWord w)
  let bad := fun (n : Nat) => (Tab.get {} was n).state == 1 && (Tab.get {} (s.cluster cl).routines n).state == 2
  (coresOf cl).foldl (fun s c => match (s.core c).mat.run with
    | some r => if bad r.rout then s.engineFault c r.cmd { cause := POISON, rout := r.rout, word := r.pc } else s
    | none => s) s

/-- A memory line is poisoned. -/
def State.poisonLine (s : State) (ln : Nat) : State := s.modMeta ln (fun m => { m with poison := true })

def State.uncorrectable (s : State) : EccUnit → State
  | .slot cl slot core bank => s.damageSlot cl slot core bank
  | .core c bank => (s.countLife lifeCore c cUncorrectable).errRewind c bank
  | .entry c bank =>
    let s := s.countLife lifeCore c cUncorrectable
    match s.bank c bank with
    | some g => s.damageShare g.share
    | none => s
  | .image share => s.damageShare share
  | .line ln => (s.countLife (lineClass ln) (Config.eccBank ln) cUncorrectable).poisonLine ln
  | .llc ln => match s.cached ln with
    | some l => if l.dirty then s.poisonLine ln else s.evictLine ln
    | none => s
  | .word cl w => s.damageWord cl w

def execEccUncorrectable (unit : EccUnit) (s : State) : Out := .next (s.uncorrectable unit)

/-- The bytes of a CLEAN slot's source, as it stands now. -/
def State.cleanSource (s : State) (cl ia : Nat) : Option (List Byte) :=
  match (s.cluster cl).ctx with
  | none => none
  | some x =>
    let l := (upTo 64).map (fun i => match s.phys x (ia % 2 ^ 42 + 64 * i) false with
      | .ok p => if s.plainLine p then some (s.bytesNow p 64) else none
      | _ => none)
    if l.all (·.isSome) then some ((l.filterMap id).flatMap id) else none

/-- The refetch writes the slot under its swizzle: no arrival, no event (R414). It waits while its source cannot be read. -/
def State.refetch (s : State) (cl slot : Nat) : State :=
  if !(s.cluster cl).refetch.contains slot then s
  else
    let done := fun (s : State) => s.modCluster cl (fun k =>
      { k with refetch := k.refetch.filter (· != slot), unrestored := k.unrestored.filter (· != slot) })
    match Tab.get none (s.cluster cl).clean slot with
    | none => done s
    | some (ia, sw) => match s.cleanSource cl ia with
      | none => s
      | some bs => done ((bs.zip (upTo 4096)).foldl (fun s e => s.osPut cl (4096 * slot + swz sw e.2) [some e.1]) s)

def execCleanRefetchDone (cluster slot : Nat) (s : State) : Out := .next (s.refetch cluster slot)

/-! ## Eclipse (R51, R420) -/

def execEclipseDealStop (core : Nat) (s : State) : Out :=
  .next (if s.nearSlot core then
      s.modCore core (fun k => if k.eclipse = .idle then { k with eclipse := .dealStop } else k)
    else s)

/-- The core's groups are fused with others'. -/
def State.fusedHere (s : State) (c : Nat) : Bool := 1 < (s.fusedSet c).length && (s.front c).any (·.gstat.fused)

/-- The cores that empty together: a fused group, in front or not, is parked whole (R51). -/
def State.emptySet (s : State) (c : Nat) : List Nat := s.switchSet c

/-- Every bank of the cores may be saved. -/
def State.mayEmpty (s : State) (cs : List Nat) : Bool := cs.all (fun c => s.bankSettled c false && s.bankSettled c true)

/-- Banks and matrix state of the cores go to the context's save area, and the scan begins. -/
def State.emptyCores (s : State) (c : Nat) : State :=
  let cs := s.emptySet c
  if (s.core c).eclSaved.isSome || !s.mayEmpty cs then s
  else
    let s := s.settleBanks (c / 4) (cs.flatMap (fun k => [(k, false), (k, true)]))
    let s := cs.foldl (fun s k => s.modCore k (fun x =>
      if x.eclSaved.isSome then x
      else { x with eclSaved := some (x.bank0, x.bank1, x.mat.unwait), bank0 := none, bank1 := none, mat := {}, fetch := [] })) s
    s.modCore c (fun k => { k with eclipse := .scanning s.time })

/-- A core's slot has come, a core is to be scanned before its next step, or its fused group has decoupled. -/
def State.scanDue (s : State) (c : Nat) : Bool :=
  let k := s.core c
  k.eclDue || k.eclWait.isSome || s.inSlot c

def State.slotStart (s : State) (c : Nat) : State :=
  if !s.rotates c then s
  else if (s.core c).eclipse.scans then s.emptyCores c
  else if !s.scanDue c then s
  else if s.fusedHere c then s.modCore c (fun k => { k with eclWait := k.eclWait.or (some s.time) })
  else (s.modCore c (fun k => { k with eclipse := .scanning s.time })).emptyCores c

def execEclipseSlotStart (core : Nat) (s : State) : Out := .next (s.slotStart core)

/-- A fused group that has kept the core from its eclipse for 50 ms is parked as a whole (R51). -/
def execFusedEclipseTimeout (core : Nat) (s : State) : Out :=
  .next (match (s.core core).eclWait with
    | some t =>
      if t + 50000000 ≤ s.time && s.rotates core then (s.modCore core (fun k => { k with eclipse := .scanning s.time })).emptyCores core
      else s
    | none => s)

/-- The cores that the groups an eclipse has put aside need back with their own: their fusion sets. -/
def State.savedSet (s : State) (c : Nat) : List Nat :=
  let wide := fun (k : Nat) => match (s.core k).eclSaved with
    | some e => ([e.1, e.2.1].filterMap id).flatMap (fun g => if g.gstat.fused then fusionSet k g.gstat.fwidth else [])
    | none => []
  let grow := fun (l : List Nat) => (l ++ l.flatMap wide).dedup
  grow (grow [c])

/-- Emptied cores of a cluster whose scans are over take their groups back, at the boundaries where they stopped. -/
def State.eclRestore (s : State) (cl : Nat) : State :=
  let ready := fun (c : Nat) => (s.core c).eclSaved.isSome && (s.savedSet c).all (fun k => !(s.core k).eclipse.scans)
  ((coresOf cl).filter ready).foldl (fun s c => s.modCore c (fun k => match k.eclSaved with
    | some e =>
      let thaw := fun (g : Option Group) => g.map (fun g => { g with frozenAt := none })
      ({ k with bank0 := thaw e.1, bank1 := thaw e.2.1, mat := e.2.2, eclSaved := none } : Core).freshFront
    | none => k)) s

/-- Publications whose every recorded core has an epoch later than their instant are CONFIRMED, and their entries freed
(R421). -/
def State.confirm (s : State) : State :=
  { s with board := { s.board with log := s.board.log.filter (fun p => p.suspect || p.cores.any (fun c => (s.core c).epoch ≤ p.time)) } }

def execScanPass (core : Nat) (s : State) : Out :=
  .next (match (s.core core).eclipse with
    | .scanning began =>
      if (s.core core).eclSaved.isNone then s
      else
        let s := s.modCore core (fun k => { k with epoch := began, eclipse := .idle, eclDue := false, eclWait := none })
        ((s.countLife lifeCore core cPassed).confirm).eclRestore (core / 4)
    | _ => s)

/-! ## The fence (R421, R423) -/

/-- The intermediate page of a buffer's base (R416). -/
def State.basePage (s : State) (ctx va : Nat) : Nat :=
  match s.place ctx true Need.read va with
  | some (.dev off) => pageOf off
  | some (.far ia) => pageOf ia
  | _ => 0

/-- A publication of a core that has failed is SUSPECT, and the host is told. -/
def State.suspectOne (core : Nat) (s : State) (p : Publish) : State :=
  if p.suspect || !p.cores.contains core then s
  else
    let page := s.basePage p.ctx p.base
    s.modHdie (ownerOf page) (fun d => { d with recs := d.recs ++
      [{ page := page, kind := 8, ctx := p.ctx, gen := (s.ctx p.ctx).gen, count := 1, token := 0, time := p.time }] })

def State.suspect (s : State) (core : Nat) : State :=
  let s := s.board.log.foldl (State.suspectOne core) s
  { s with board := { s.board with log := s.board.log.map (fun p => if p.cores.contains core then { p with suspect := true } else p) } }

/-- A share of a fenced cluster: put back whole elsewhere, held back while there is no room (R289), or ended POISON. -/
def State.fenceShare (next : Option Nat) (s : State) (h : Share) : State :=
  match h.state with
  | .ended | .droppedS | .replaced => s
  | _ =>
    let s := s.clearShare h POISON
    let s := (s.modCluster h.cluster (fun k => { k with launchQ := k.launchQ.filter (· != h.id) })).modCtx h.ctx
      (fun x => { x with ovf := x.ovf.filter (fun o => o.share != h.id) })
    match h.escaped, next with
    | false, some c =>
      let s := s.modShare h.id (fun h =>
        { h with
          cluster := c, state := if h.state = .waiting then .waiting else .ready
          next := 0, chosen := false, began := none, readyAt := s.time, mark := 0, status := none, cause2 := 0, token := none
          seatAt := none })
      (s.placeFront c h.id h.ctx).getD (s.modShare h.id (fun h => { h with heldBack := true }))
    | _, _ => s.endShare h.id (some POISON) 0

/-- The cluster of a failed core leaves the part. -/
def State.fence (s : State) (cl : Nat) : State :=
  let s : State := { s.modCluster cl (fun k => { k with fenced := true }) with
    board := { s.board with present := s.board.present &&& ~~~ (BitVec.twoPow 72 cl) } }
  let next := (s.clustersFrom cl).head?
  let s := (s.shares.filter (fun h => h.cluster == cl)).reverse.foldl (State.fenceShare next) s
  let held := (s.cluster cl).ctx
  let s := s.modCluster cl (fun k => { k.vacate with saved := [], parked := [], switchTo := none })
  let s := match held with
    | some x => s.noteHalted x
    | none => s
  (coresOf cl).foldl (fun s c => s.modCore c (fun k =>
    { k.cleared with eclipse := .idle, eclWait := none, eclDue := false, rewound := [] })) s

def execScanFail (core : Nat) (s : State) : Out :=
  .next (if (s.core core).eclipse.scans && (s.core core).eclSaved.isSome then
      ((s.countLife lifeCore core cScanFailed).suspect core).fence (core / 4)
    else s)

/-! ## CONFQ (R422) -/

/-- H writes the query. -/
def State.confSet (s : State) (w : Word) : State := s.confWrite (field w.toNat 5 0) w

def execConfqQuery (w : Word) (s : State) : Out := .next (s.confSet w)

/-- SUSPECT entries of the query are freed. -/
def State.confClear (s : State) : State :=
  { s with board := { s.board with log := s.board.log.filter (fun e =>
      !(e.suspect && e.ctx == s.board.confCtx.toNat && e.base / 65536 == s.board.confBase.toNat)) } }

def execConfqClear (w : Word) (s : State) : Out := .next (s.confSet w).confClear

/-! ## Lifetime records (R424, R425) -/

/-- A snapshot is asked for; a request while one is under way is ignored. -/
def State.lifeGo (s : State) (w : Word) : State :=
  if !w.getLsbD 63 || s.board.lifeAddr.isSome then s
  else { s with board := { s.board with lifeAddr := some (field w.toNat 51 12 * 4096) } }

def execLifecmdGo (w : Word) (s : State) : Out := .next (s.lifeGo w)

/-- Nanoseconds of an hour. -/
def hourNs : Nat := 3600 * 10 ^ 9

/-- The times still running are counted: clusters at their levels, banks in strong mode. -/
def State.countTimes (s : State) : State :=
  let add := fun (s : State) (key ns : Nat) =>
    ({ s with board := { s.board with life := Tab.modify 0 s.board.life key (· + BitVec.ofNat 64 ns) } } : State)
  let s := (upTo 72).foldl (fun s c =>
    let d := (s.cluster c).dvfs
    (add s (lifeKey lifeCluster c (cLevel + d.level)) (s.time - d.since)).modDvfs c (fun d => { d with since := s.time })) s
  (s.board.ecc.filter (fun e => !e.2.commons)).foldl (fun s e => match e.2.strongAt with
    | some t => (add s (lifeKey lifeDram e.1 cStrong) (s.time - t)).modEcc e.1 (fun x => { x with strongAt := some s.time })
    | none => s) s

/-- A counter as it is reported: times in whole hours. -/
def lifeValue (key : Nat) (x : Word) : Nat := if cLevel ≤ key % 256 ∨ key % 256 = cStrong then x.toNat / hourNs else x.toNat

/-- An entry of 16 bytes: class, unit, counter, four reserved bytes, value. -/
def lifeEntry (e : Nat × Word) : List Byte :=
  leBytes 1 (e.1 / 2 ^ 24) ++ leBytes 2 (e.1 / 256) ++ leBytes 1 e.1 ++ leBytes 4 0 ++ leBytes 8 (lifeValue e.1 e.2)

/-- Header, entries and signature: as many entries as 512 KiB hold. -/
def State.lifeImage (s : State) : List Byte :=
  let l := s.board.life.take 32758
  let body := leBytes 8 0x4546494C ++ leBytes 8 s.board.serial.toNat ++ leBytes 8 s.time ++ leBytes 8 l.length ++ leBytes 32 0
    ++ l.flatMap lifeEntry
  body ++ ((Config.identitySign body).take 96 ++ leBytes 96 0).take 96

/-- The lead answers the management path: once it has stopped responding, no snapshot is written (R19). -/
def execLifeSnapshotDone (s : State) : Out :=
  .next (match s.board.lifeAddr with
    | none => s
    | some a =>
      if s.gov.leadDead then s else
      let s := s.countTimes
      { s with host := memPut s.host a (s.lifeImage.map some), board := { s.board with lifeAddr := none } })

end Sys2Proof.Machine
end

