-- ==== Sys2Proof/Machine/Fabric.lean ====
section
/-!
DEFINITION. The paths to the world: Norulo ports and flits (R431–R434), the host's registers through BAR0 (R386, R428–R430),
host memory accesses (R428), start-up (R442) and the management path (R443).
-/
namespace Sys2Proof.Machine

/-! ## Flits (R431, R433) -/

/-- The flits of a replay buffer from a number on are sent again, whole and in their order. -/
def State.resend (s : State) (port n : Nat) : State :=
  ((s.port port).replay.filter (fun q => n ≤ q.1)).foldl (fun (s : State) q =>
    { s with board := { s.board with wire := (port, q) :: s.board.wire } }) s

/-- An arriving flit: one whose CRC fails, or that is out of turn, is asked for again; one in turn does what it carries, while
domain traffic is enabled (R432). -/
def State.receive (s : State) (port : Nat) (f : Flit) : State :=
  let p := s.port port
  if p.state != 2 then s
  else if !f.good then (s.modPort port (fun p => { p with errAt := s.time })).send (.flitNak port p.rxSeq)
  else if f.seq != p.rxSeq then s
  else
    let s := s.modPort port (fun p => { p with rxSeq := p.rxSeq + 1 })
    let s := match f.nak with
      | some n => s.resend port n
      | none => s
    match f.req with
    | some r => if s.board.domEn then s.acceptRemote port r else s
    | none => s

/-- A device whose start has failed takes no flit (R442). -/
def execFlitReceive (port : Nat) (flit : Flit) (s : State) : Out :=
  .next (if port < 18 ∧ s.board.stage != 0xFF then s.receive port flit else s)

/-! ## Ports (R432–R434) -/

/-- A port goes DOWN: what its replay buffer holds goes out, flit by flit, on the port that requests to its device now use,
before anything newer; and gangs whose members are cut off end (R433, R439). -/
def State.portFails (s : State) (port : Nat) : State :=
  let q := (s.port port).replay
  let s := s.modPort port (fun p => { p with state := 0, lanes := 0, replay := [], errAt := s.time })
  (q.foldl (fun s f =>
    if s.routed f.2.1 && s.portTo f.2.1 != port then s.flitOut (s.portTo f.2.1) f.2.1 f.2.2 else s) s).dropLost

def execPortDown (port : Nat) (s : State) : Out := .next (if port < 18 ∧ (s.port port).state != 0 then s.portFails port else s)

/-- A port that is DOWN begins to train; one whose training ends is UP with eight lanes, and retrained if it was UP before. -/
def execPortUp (port : Nat) (s : State) : Out :=
  .next (if port < 18 ∧ port < s.board.links ∧ (s.port port).state = 0 then s.modPort port (fun p => { p with state := 1 })
    else if port < 18 ∧ port < s.board.links ∧ (s.port port).state = 1 then
      let again := (s.port port).trained
      let s := s.modPort port (fun p =>
        { p with
          state := 2, lanes := 3, peer := Config.peer port, trained := true
          retrain := if p.trained then min 65535 (p.retrain + 1) else p.retrain })
      if again then s.countLife lifePort port cRetrain else s
    else s)

/-- Lanes are shed, 8 to 4 or 4 to 2; below two the port goes DOWN. The event stands for a lane that has failed retraining, or
for a rate of corrected flits above the threshold that firmware holds, which the spec gives no figure for (R434, log 123). -/
def execLaneShed (port : Nat) (s : State) : Out :=
  .next (if port < 18 ∧ (s.port port).state = 2 then
      if (s.port port).lanes.toNat ≤ 1 then s.portFails port
      else (s.modPort port (fun p => { p with lanes := p.lanes - 1, shed := min 65535 (p.shed + 1), errAt := s.time })).countLife lifePort port cShed
    else s)

/-- Lanes that have run without error for 1 s are regained. -/
def execLaneRegain (port : Nat) (s : State) : Out :=
  .next (let p := s.port port
    if port < 18 ∧ p.state = 2 ∧ p.lanes.toNat < 3 ∧ p.errAt + 1000000000 ≤ s.time then
      s.modPort port (fun p => { p with lanes := p.lanes + 1, errAt := s.time })
    else s)

/-! ## Registers that H writes (R386, R387, R391, R396, R430, R432) -/

/-- The state after an operation that only goes on. -/
def nextOr (o : Out) (s : State) : State :=
  match o with
  | .next t => t
  | _ => s

/-- A word of a window, in the layout of R391. -/
def Window.put (i : Nat) (w : Word) (v : Window) : Window :=
  let f := BitVec.ofNat 40 (field w.toNat 55 16)
  match i with
  | 0 => { v with base := f }
  | 1 => { v with limit := f }
  | 2 => { v with xlat := BitVec.ofNat 36 (field w.toNat 51 16) }
  | _ => { v with host := w.getLsbD 5, so := w.getLsbD 4, x := w.getLsbD 3, w := w.getLsbD 2, r := w.getLsbD 1, en := w.getLsbD 0 }

/-- A word of a context block beside CTXCFG: its reserved bits stay zero, and a LIVE context keeps its roots and areas
(R387, R388). -/
def Ctx.blockPut (o : Nat) (w : Word) (x : Ctx) : Ctx :=
  if x.state = 1 ∧ o < 0x200 ∧ o ≠ 0x18 then x
  else match o with
    | 0x08 => { x with ptroot0 := w &&& ones 51 6 }
    | 0x10 => { x with ptroot1 := w &&& ones 51 6 }
    | 0x18 => { x with dtvec := w &&& ones 63 6 }
    | 0x20 => { x with gsave := w &&& ones 51 20 }
    | 0x28 => { x with lovf := w &&& (ones 51 12 ||| ones 4 0) }
    | 0x30 => { x with wovf := w &&& (ones 51 15 ||| ones 11 0) }
    | 0x38 => { x with shpool := w &&& (ones 51 16 ||| ones 15 0) }
    | o => if 0x200 ≤ o then { x with win := Tab.modify {} x.win ((o - 0x200) / 0x20) (Window.put (o % 0x20 / 8) w) } else x

def State.blockWrite (s : State) (x o : Nat) (w : Word) : State := if o = 0 then s.cfgWrite x w else s.modCtx x (Ctx.blockPut o w)

/-- The launch ring's registers: LRCFG and LRTAIL (R286, R287). -/
def Ctx.ringPut (o : Nat) (w : Word) (x : Ctx) : Ctx := if o = 0 then x.ringCfg w else if o = 8 then x.tailWrite w else x

/-- The fault unit's registers (R394, R396, R398, R402). -/
def State.faultPut (s : State) (h o : Nat) (w : Word) : State :=
  match o with
  | 0x00 => s.modHdie h (fun d => { d with frbase := w &&& (ones 51 6 ||| ones 4 0) })
  | 0x10 => nextOr (execFrtailWrite h w s) s
  | 0x20 => s.replay h w
  | 0x28 => nextOr (execTlbinv h w s) s
  | 0x30 => s.modHdie h (fun d => { d with migdst := BitVec.ofNat 40 (field w.toNat 51 12) })
  | 0x38 => s.migGo h w
  | 0x40 => nextOr (execFramepush h w s) s
  | _ => s

/-- ROUTE: a port above 17 leaves its field alone (R432). -/
def Route.put (w : Word) (r : Route) : Route :=
  let alt := BitVec.ofNat 5 (field w.toNat 12 8)
  let pri := BitVec.ofNat 5 (field w.toNat 4 0)
  { v := w.getLsbD 63, av := w.getLsbD 62, alt := if alt ≤ 17 then alt else r.alt, pri := if pri ≤ 17 then pri else r.pri }

/-- Droop: COUNT is cleared by 0, THR takes 10–100 (R356). -/
def Cluster.droopPut (w : Word) (k : Cluster) : Cluster :=
  { k with
    alarms := if fld w 31 16 = 0 then 0 else k.alarms
    thr := if 10 ≤ fld w 6 0 ∧ fld w 6 0 ≤ 100 then fld w 6 0 else k.thr }

/-- A write of H to the register space of an H-die. -/
def State.hostRegWrite (s : State) (h o : Nat) (w : Word) : State :=
  let b := s.board
  if o % 8 ≠ 0 then s
  else if o = 0x100 then nextOr (execCmsplitWrite h w s) s
  else if 0x8000 ≤ o ∧ o < 0x8800 then s.fwinWrite h ((o - 0x8000) / 0x40) (o % 0x40 / 8) w
  else if 0x70000 ≤ o ∧ o < 0x70048 then s.faultPut h (o - 0x70000) w
  else if h ≠ 0 then s
  else if 0x10000 ≤ o ∧ o < 0x20000 then
    if w = 0 then
      let n := o % 0x400 / 0x10
      s.modCtx ((o - 0x10000) / 0x400) (fun x =>
        if o % 0x10 = 0 then { x with bytes := Tab.set 0 x.bytes n 0 } else { x with stalls := Tab.set 0 x.stalls n 0 })
    else s
  else if 0x30000 ≤ o ∧ o < 0x31000 then s.modCtx ((o - 0x30000) / 0x40) (Ctx.ringPut (o % 0x40) w)
  else if 0x40000 ≤ o ∧ o < 0x41000 then
    if o % 0x40 = 0x20 ∧ fld w 15 0 = 0 then s.modCtx ((o - 0x40000) / 0x40) (fun x => { x with dcCount := 0 }) else s
  else if 0x51000 ≤ o ∧ o < 0x51240 then s.modCluster ((o - 0x51000) / 8) (Cluster.droopPut w)
  else if 0x60000 ≤ o ∧ o < 0x70000 then s.blockWrite ((o - 0x60000) / 0x400) (o % 0x400) w
  else if 0x81000 ≤ o ∧ o < 0x83000 then
    { s with board := { b with routes := Tab.modify {} b.routes ((o - 0x81000) / 8) (Route.put w) } }
  else match o with
    | 0x50000 => { s with gov := { s.gov with ephaddr := BitVec.ofNat 46 (fld w 51 6) } }
    | 0x50008 => if w.getLsbD 0 then nextOr (execEphSubmit s) s else s
    | 0x50010 => s.utcWrite w
    | 0x71000 => if w.getLsbD 61 then (s.confSet w).confClear else s.confSet w
    | 0x72000 => s.lifeGo w
    | 0x75000 => { s with board := { b with regsel := BitVec.ofNat 24 (fld w 23 8 * 256) } }
    | 0x80000 => { s with board := { b with domEn := w.getLsbD 63, devid := if b.domEn then b.devid else BitVec.ofNat 10 (fld w 9 0) } }
    | _ => s

/-! ## Core CSR pages (R102, R103, R429) -/

/-- A CSR of the group that a bank holds, as H reads it. Through the page of an empty bank a CSR of the bank reads zero (R429);
ECC_THRESH and LLC_MISS_HI, which are no bank's, read through every page (R103, log 102). -/
def State.hostCsrRead (s : State) (c : Nat) (b : Bool) (m : Nat) : Word :=
  match s.bank c b with
  | some g => s.csrValue c g m
  | none => if m = 0x040 then s.eccThresh else if m = 0x041 then s.missHi else 0

/-- ECC_THRESH and LLC_MISS_HI are single registers of the device. -/
def Board.setThresh (w : Word) (b : Board) : Board := { b with retire := fld w 39 32, wsh := fld w 20 16, eccCount := fld w 15 0 }
def Board.setMissHi (w : Word) (b : Board) : Board := { b with minb := fld w 23 16, rate := fld w 15 0 }

/-- A CSR write of H: nothing of a bank's while it is empty; the device's own two registers through every page (R103). -/
def State.hostCsrWrite (s : State) (c : Nat) (b : Bool) (m : Nat) (w : Word) : State :=
  if m = 0x040 then { s with board := s.board.setThresh w }
  else if m = 0x041 then { s with board := s.board.setMissHi w }
  else match s.bank c b with
  | none => s
  | some g =>
    match m with
    | 0x004 => s.modBank c b (fun g => { g with tvec := w &&& ones 63 6 })
    | 0x00A => s.modCtx g.ctx (·.setAge w)
    | 0x010 => (s.modCtx g.ctx (fun x => { x with rkey0 := w })).dropRbq g.ctx
    | 0x011 => (s.modCtx g.ctx (fun x => { x with rkey1 := w })).dropRbq g.ctx
    | 0x012 => s.modBank c b (fun g => { g with rctr := w, rbq := [] })
    | _ => s

/-! ## BAR0 (R429, R442) -/

/-- What a BAR0 address names. -/
inductive BarAt where
  | reg (h o : Nat)
  | csr (core : Nat) (bank : Bool) (m : Nat)
  | nothing
  deriving DecidableEq, Repr

def barAt (a : Nat) : BarAt :=
  if a < 0x200000 then .reg (a / 0x100000) (a % 0x100000)
  else if a < 0x1000000 then .nothing
  else
    let n := (a - 0x1000000) / 0x10000
    let o := (a - 0x1000000) % 0x10000
    if n < 288 ∧ o % 0x8000 < 0x800 then .csr n (0x8000 ≤ o) (o % 0x8000 / 8) else .nothing

def State.barRead (s : State) (a : Nat) : Word :=
  match barAt a with
  | .reg h o => s.regRead true none h o
  | .csr c b m => s.hostCsrRead c b m
  | .nothing => 0

def State.barWrite (s : State) (a : Nat) (w : Word) : State :=
  match barAt a with
  | .reg h o => s.hostRegWrite h o w
  | .csr c b m => s.hostCsrWrite c b m w
  | .nothing => s

/-- On FAILED only BOOTSTAT answers (R442). -/
def State.answers (s : State) (a : Nat) : Bool := s.board.stage != 0xFF || a == 0x74000

/-- 8 bytes wide and aligned, or an unsupported-request completion. -/
def State.barAccess (s : State) (a : Nat) (d : HostAcc) : State :=
  if !s.answers a then s
  else match d with
    | .read n => if n = 8 ∧ a % 8 = 0 then s.send (.bar0Data (s.barRead a)) else s.send .bar0Ur
    | .write bs => if bs.length = 8 ∧ a % 8 = 0 then s.barWrite a (BitVec.ofNat 64 (leNat bs)) else s.send .bar0Ur

def execBar0Access (addr : Nat) (data : HostAcc) (s : State) : Out := .next (s.barAccess addr data)

def execRegselWrite (w : Word) (s : State) : Out := .next (if s.answers 0x75000 then s.hostRegWrite 0 0x75000 w else s)

/-- A register field that has no row of its own, at its BAR0 address. -/
def execRegisterWrite (addr : Nat) (w : Word) (s : State) : Out := .next (s.barAccess addr (.write (leBytes 8 w.toNat)))

/-! ## Host accesses to memory (R428) -/

/-- HBM that an HDM decoder maps, in one line; an image that a disable holds BUSY waits (R128). -/
def State.hostMay (s : State) (a n : Nat) : Bool :=
  [s.board.hdm0, s.board.hdm1].any (fun r => r.any (fun r => r.1 ≤ a && a + n ≤ r.1 + r.2))
    && s.board.stage != 0xFF && 0 < n && a < 2 ^ 42 && isHbm a && s.populated a && a / 64 == (a + n - 1) / 64
    && (s.fwinAt a).all (fun e => !(e.2.busy && e.2.closing))

/-- A host access at the owning H-die: SYSTEM scope, no stamp. The bytes of a poisoned line, and of a line that holds a
record (R315), are free; a write leaves a line that is not VALUE as it is (R330). -/
def State.hostMem (s : State) (a : Nat) : HostAcc → State
  | .read n =>
    if !s.hostMay a n then s
    else
      let (bs, s) := s.devRead a n none
      if !s.plainLine a then
        ({ s with free := s.free + 1 } : State).send (.hostData ((upTo n).map (Config.freeByte s.free)))
      else s.send (.hostData bs)
  | .write bs =>
    if !s.hostMay a bs.length || (s.cell (a / 64) != cVALUE && !(s.lineMeta (a / 64)).poison) then s
    else
      let s := (s.devWrite a (bs.map some) .no).clearStamps a bs.length
      if bs.length = 64 then s.modMeta (a / 64) (fun m => { m with poison := false }) else s

def execHostMemAccess (addr : Nat) (data : HostAcc) (s : State) : Out := .next (s.hostMem addr data)

/-! ## Start-up (R442) -/

/-- What a reset leaves of the board: the part, its lifetime records, its identity and keys, and its outbox. -/
def Board.afterReset (b : Board) : Board :=
  { hbmOff := b.hbmOff, lp6Off := b.lp6Off, lp6Cap := b.lp6Cap, links := b.links, decoders := b.decoders, form := b.form, stepping := b.stepping
    present := b.present, life := b.life
    ecc := b.ecc.map (fun e => (e.1, { e.2 with count := 0, since := 0, strongAt := e.2.strongAt.map (fun _ => 0) }))
    withdrawn := b.withdrawn, serial := b.serial, fleets := b.fleets, keys := b.keys, wire := b.wire, outbox := b.outbox }

/-- The device after a reset: the reset state, with what survives (R424, R442) and what lies outside the device. -/
def State.afterReset (s : State) : State :=
  let s := s.countTimes
  { State.reset with
    board := s.board.afterReset, host := s.host, far := s.far, farTags := s.farTags, farEvals := s.farEvals, farPages := s.farPages
    agenda := s.agenda, fresh := s.fresh, free := s.free }

def execReset (s : State) : Out := .next s.afterReset

/-- The bytes of a public key. -/
def keyBytes (k : Nat × Nat) : List Byte := beBytes 48 k.1 ++ beBytes 48 k.2

/-- The cause that the firmware image fails with, 0 for none: its key has the fused digest, and its signature verifies under it;
its version is not below the fused count. -/
def FwImage.cause (i : FwImage) : Nat :=
  if beBytes 48 (sha384 (keyBytes i.key)) ≠ Config.vendorDigest ∨ !ecdsaOk i.key i.body i.sig then 1
  else if i.version.toNat < Config.rollback then 2
  else 0

/-- The cause that a stage ends with, 0 for none. How the memory trains and what the scans find is the part's own. -/
def State.stageCause (s : State) (stage : Nat) : Nat :=
  match stage with
  | 0 => (Config.firmware s.free).cause
  | 1 => if Config.bootOutcome s.free = 0 then 0 else 3
  | 4 => if Config.bootOutcome s.free = 0 then 0 else 4
  | _ => 0

/-- What a completed stage leaves. -/
def State.stageDone (s : State) (stage : Nat) : State :=
  let s : State := { s with board := { s.board with stage := BitVec.ofNat 8 (stage + 1) } }
  match stage with
  | 0 => { s with board := { s.board with fwver := (Config.firmware (s.free - 1)).version }, gov := { s.gov with live := true, rampAt := s.time } }
  | 2 => { s with
      mem := [], tags := [], ringStamps := []
      hdies := s.hdies.map (fun e => (e.1, { e.2 with llc := [] }))
      clusters := s.clusters.map (fun e => (e.1, { e.2 with bars := [] }))
      ctxs := s.ctxs.map (fun e => (e.1, { e.2 with state := 0 }))
      board := { s.board with ports := (upTo s.board.links).foldl (fun t p => Tab.modify {} t p (fun p => { p with state := 1 })) s.board.ports } }
  | 4 =>
    let cs := (upTo 288).filter (fun c => s.enabled (c / 4))
    let s := cs.foldl (fun s c => (s.modCore c (fun k => { k with epoch := s.time })).countLife lifeCore c cPassed) s
    { s with gov := { s.gov with gated := [], gateAt := s.time } }
  | _ => s

def State.bootStage (s : State) : State :=
  let n := s.board.stage.toNat
  if 5 ≤ n then s
  else
    let c := s.stageCause n
    let s : State := { s with free := s.free + 1 }
    if c ≠ 0 then { s with board := { s.board with stage := 0xFF, bootCause := BitVec.ofNat 8 c } }
    else s.stageDone n

def execBootStageDone (s : State) : Out := .next s.bootStage

/-! ## The management path (R443) -/

/-- Index, then the measurement: of facility key slots and fleet identifiers, the digest of their contents. -/
def State.measurement (s : State) (i : Nat) : List Byte :=
  leBytes 1 i ++ (match i with
    | 4 => beBytes 48 (sha384 ((upTo 4).flatMap (fun k => ((Tab.get none s.board.keys k).map keyBytes).getD [])))
    | 5 => beBytes 48 (sha384 (s.board.fleets.flatMap (fun f => leBytes 8 f.toNat)))
    | i => Config.measured i)

/-- The lead alone answers the management path: a request that finds it stopped has no answer and no effect (R19). -/
def ledBy (act : State → State) (s : State) : Out := .next (if s.gov.leadDead then s else act s)

def execGetMeasurements (s : State) : Out := ledBy (fun s => s.send (.spdm 0x60 ((upTo 5).flatMap (fun i => s.measurement (i + 1))))) s

def execKeyExchange (data : List Byte) (s : State) : Out :=
  ledBy (fun s => ({ s with board := { s.board with ide := some (Config.sessionKeys data) } } : State).send (.spdm 0x64 (Config.exchange data))) s

/-- Certificate slot 0: the chain from the Skezeit root to the device identity key, whose certificate carries the serial number,
MCFG, CLPRES and the fleet identifiers as the device holds them. -/
def State.certificate (s : State) : List Byte :=
  Config.certChain Config.skezeit s.board.serial [s.mcfg, s.presence 0 64, s.presence 64 8] s.board.fleets

/-- A requester reads it. -/
def State.readCertificate (s : State) : State := if s.gov.leadDead then s else s.send (.spdm 0x02 s.certificate)

/-- An update signed by Skezeit and bound to this device's serial number; another changes nothing. -/
def Board.update (u : VendorUpdate) (b : Board) : Board :=
  { b with
    keys := u.slots.foldl (fun t e => if e.1 < 4 then Tab.set none t e.1 e.2 else t) b.keys
    fleets := (u.fleets.map (·.take 4)).getD b.fleets }

def execVendorKeyUpdate (data : List Byte) (s : State) : Out :=
  ledBy (fun s => match Config.vendorRequest data with
    | some u => if u.serial = s.board.serial ∧ ecdsaOk Config.skezeit u.signed u.sig then { s with board := s.board.update u } else s
    | none => s) s

end Sys2Proof.Machine
end

