-- ==== Sys2Proof/Machine/Sync.lean ====
section
/-!
DEFINITION. Ordering and synchronisation: FENCE and DRAIN (R229, R230), atomics (R235–R237), bank operations (R238),
commons rings (R240, R241, R405) and barriers (R244–R246).
-/
namespace Sys2Proof.Machine

/-! ## FENCE and DRAIN -/

/-- The group's accesses of the kinds a FENCE names that have yet to perform. -/
def State.fenced (s : State) (pr pw : Bool) : List Nat :=
  ((s.mine s.here.core s.me.gid).filter (fun a => (pr && a.kind.reads) || (pw && a.kind.writes))).map (·.id)

def execFence (y : Syl) (s : State) : Out :=
  syllable (.fence y) y (fun s =>
    let on := fun n => y.imm.getLsbD n
    let ids := s.fenced (on 0) (on 1)
    s.upd (fun g =>
      { g with
        befR := if on 2 then g.befR ++ ids else g.befR
        befW := if on 3 then g.befW ++ ids else g.befW
        befE := if on 4 then g.befE ++ ids else g.befE
        holds := if on 5 then g.holds ++ [.fenceI ids] else g.holds })) s

def execDrain (y : Syl) (s : State) : Out :=
  syllable (.drain y) y (permitted y.scope (fun s =>
    let ids := (s.mine s.here.core s.me.gid).map (·.id)
    s.upd (fun g => { g with holds := g.holds ++ [.drain y.scope ids] }))) s

/-! ## Atomics (R235–R237) -/

/-- A read-modify-write enters, before the stores of its bundle; the next bundle waits until it has performed (R237). -/
def State.issueRmw (s : State) (a : Acc) : State :=
  ((s.beforeStores a.id).issueAcc a).upd (fun g => { g with holds := g.holds ++ [.accs [a.id]] })

/-- A read-modify-write whose checks have passed, with what ORDER asks (R231). -/
def State.rmw (s : State) (y : Syl) (v : Verdict) (pre : State) (pieces : List Place → List Piece) (k : AccKind) (data : VReg)
    (returns : Bool) : State :=
  v.act pre (fun ps =>
    let popped := pre.poppedSince s
    let order := y.im 20 19
    let rel := order / 2 == 1
    if s.hostDrain rel ps then stallWith (.freeze 8) pre
    else
      let (dst, s) := if returns then s.accDst y.dst else (.none, s)
      s.issueRmw { s.newAcc k (pieces ps) data dst with acq := order % 2 == 1, rel := rel, scope := y.scope, sz := 4, popped := popped })

/-- AMO and CAS: the checks of R205 with both permissions. -/
def atomic (y : Syl) (k : AccKind) (data : Word) (pre s : State) : State :=
  let w := if y.imm.getLsbD 18 then 8 else 4
  let ws := oneWant (pre.me.rdA y.srca.toNat) w
  let q : Ask := { need := Need.both, store := true, os := y.os, reads := true }
  s.rmw y (s.checks q ws none) pre (fun ps => piecesOf ws ps true) k (zx data) true

def execAmo (y : Syl) (s : State) : Out :=
  syllable (.amo y) y (permitted y.scope (fun pre =>
    let (b, s) := readA y.srcb pre
    atomic y (.amo (y.im 17 14) (y.imm.getLsbD 18)) b pre s)) s

def execCas (y : Syl) (s : State) : Out :=
  syllable (.cas y) y (permitted y.scope (fun pre =>
    let (e, s) := readA y.srcb pre
    let (n, s) := readA (y.imm.setWidth 8) s
    atomic y (.cas (y.imm.getLsbD 18) e) n pre s)) s

/-! ## Bank operations (R238) -/

/-- A place in the commons, of this device or of another. -/
def inCommons : Place → Bool
  | .dev off => isCommons off
  | .far ia => isCommons (ia % 2 ^ 42)
  | _ => false

/-- Lines of an aligned 256-byte access that hold an enabled element (R203). -/
def fourLines (a : Word) (en : Nat) (aligned : Bool) : List Want :=
  ((upTo 4).map (fun i =>
    ({ addr := a + BitVec.ofNat 64 (64 * i), len := 64, off := 64 * i, en := (en >>> (64 * i)) % 2 ^ 64, aligned := aligned } : Want))).filter
      (fun w => w.en != 0)

/-- The place `n` bytes before. -/
def Place.back (n : Nat) : Place → Place
  | .dev off => .dev (off - n)
  | .far ia => .far (ia - n)
  | p => p

/-- BANK names its elements by the guard's lanes: whether one acts is its own lane's bit, and bit 0 alone decides nothing (R203,
R238, log 124). -/
def execBank (y : Syl) (s : State) : Out :=
  perElement (.bank y) (fun pre =>
    let g := pre.me
    let a := g.rdA y.srca.toNat
    let (v, s) := readEntry y.srcb pre
    let en := packNat 4 (fun j => if g.guardA y.guard j then 15 else 0) 64
    if en = 0 then s
    else permitted y.scope (fun pre =>
      let q : Ask := { need := Need.both, store := true, reads := true }
      let ws := fourLines a en (a.toNat % 256 == 0)
      let bank := match s.places q ws with
        | some ps => ps.all inCommons
        | none => true
      s.rmw y (s.checks q ws (if bank then none else some (.trap WINFAULT))) pre
        (fun ps => [{ place := (ps.headD (.os 0 0)).back ((ws.map (·.off)).headD 0), va := a.toNat, len := 256, off := 0, en := en }])
        (.bank (y.im 14 12) (BitVec.ofNat 4 (y.im 18 15))) v false) pre) s

/-! ## Commons rings (R240, R241, R405) -/

/-- ALIGN, then WINFAULT outside the windows or the commons, then DIVSTORE, then pages, poison and cells (R240). -/
def State.ringChecks (s : State) (w : Want) : Verdict :=
  let q : Ask := { need := Need.both, store := true, reads := true }
  if !w.aligned then .trap ALIGN
  else match s.places q [w] with
    | some ps => if ps.all inCommons then s.checks q [w] none else .trap WINFAULT
    | none => .trap WINFAULT

/-- A ring operation; the next bundle waits until it has performed. -/
def ringOp (y : Syl) (k : AccKind) (rel : Bool) (pre s : State) : State :=
  let a := pre.me.rdA y.srca.toNat
  let w : Want := { addr := a, len := 64, en := allBytes 64, aligned := a.toNat % 64 == 0 }
  (s.ringChecks w).act pre (fun ps =>
    let popped := pre.poppedSince s
    let (dst, s) := s.accDst y.dst
    s.issueRmw { s.newAcc k (piecesOf [w] ps false) 0 dst with rel := rel, scope := y.scope, sz := 4, popped := popped })

def execRres (y : Syl) (s : State) : Out := syllable (.rres y) y (fun s => ringOp y .rres false s s) s

def execRpub (y : Syl) (s : State) : Out :=
  syllable (.rpub y) y (permitted y.scope (fun pre =>
    let (i, s) := readA y.srcb pre
    ringOp y (.rpub i) true pre s)) s

def execRingvoid (y : Syl) (s : State) : Out :=
  syllable (.ringvoid y) y (privileged (fun pre =>
    let (i, s) := readA y.srcb pre
    ringOp y (.ringvoid i) false pre s)) s

/-! ## Barriers (R244–R246) -/

/-- An act at the barrier file of the own cluster, in order with the group's local accesses: with none on its way it
performs at once (R245, log 108). -/
def State.atBarrier (s : State) (k : AccKind) : State :=
  s.issueAcc (s.newAcc k [{ place := .os s.myCluster 0, va := 0, len := 0, off := 0, en := 0 }] 0 .none)

/-- A register count or target of 2^28 or more is an encoding error (R244); a register's value being a value of an operand, it is
one only with the guard true (R62, log 125). -/
def tooBig (w : Word) : Bool := 2 ^ 28 ≤ w.toNat

def execBinit (y : Syl) (s : State) : Out :=
  syllable (.binit y) y (fun pre =>
    let (v, s) := if y.imm.getLsbD 10 then (BitVec.ofNat 64 (y.im 23 11), pre) else readA y.srca pre
    if v = 0 || tooBig v then raise ILLOP pre
    else s.atBarrier (.binit (y.im 8 4) v.toNat (y.imm.getLsbD 9))) s

/-- A count from IMM24 or a register. -/
def barCount (y : Syl) (s : State) : Word × State :=
  if y.imm.getLsbD 13 then (BitVec.ofNat 64 (y.im 23 14), s) else readA y.srcb s

/-- BARV of the own cluster: a release at CLUSTER, whose drain stands before the bundle (R231, R234, R245). -/
def execBarv (y : Syl) (s : State) : Out :=
  syllable (.barv y) y (fun pre =>
    let (n, s) := barCount y pre
    if tooBig n then raise ILLOP pre
    else s.atBarrier (.barv s.myCluster (y.im 8 4) n.toNat (y.imm.getLsbD 9))) s

/-- A place in the barrier aperture of a device (R246). -/
def atAperture : Place → Bool
  | .dev off => inAperture off
  | .far ia => inAperture (ia % 2 ^ 42)
  | _ => false

/-- The remote BARV: ALIGN, WINFAULT, DIVSTORE, then the page (R244, R246); an arrival at a device without a route is dropped
(R432). -/
def execBarvRemote (y : Syl) (s : State) : Out :=
  syllable (.barvRemote y) y (fun pre =>
    let (a, s) := readA y.srca pre
    let (n, s) := barCount y s
    let w : Want := { addr := a, len := 8, en := allBytes 8, aligned := a.toNat % 8 == 0 }
    let q : Ask := { need := Need.write, store := true, arrival := true }
    let v : Verdict := if a.toNat % 8 != 0 then .trap ALIGN
      else match s.places q [w] with
        | some ps => if ps.all atAperture then s.checks q [w] none else .trap WINFAULT
        | none => .trap WINFAULT
    if tooBig n then raise ILLOP pre
    else permitted (y.im 12 11) (fun pre => v.act pre (fun ps =>
      let x := s.newAcc (.barv 0 0 n.toNat (y.imm.getLsbD 9)) (piecesOf [w] ps false) 0 .none
      s.issueAcc { x with rel := true, scope := y.im 12 11 })) pre) s

/-- BWAIT: the bundle has waited for the phase (R34); the completed phase's poison traps or goes to a predicate (R245). -/
def execBwait (y : Syl) (s : State) : Out :=
  syllable (.bwait y) y (fun s =>
    let b := s.bar s.myCluster s.me.ctx (y.im 8 4)
    if y.imm.getLsbD 10 then finishG (y.im 2 0) b.ppois s
    else if b.ppois then raise POISON s else s) s

def execBtest (y : Syl) (s : State) : Out :=
  syllable (.btest y) y (fun s =>
    let b := s.bar s.myCluster s.me.ctx (y.im 8 4)
    finishG (y.im 2 0) (b.phase != y.imm.getLsbD 9) s) s

end Sys2Proof.Machine
end

