-- ==== Sys2Proof/Machine/Vector.lean ====
section
/-!
DEFINITION. The forms of the V0 and V1 slots (R133–R163) and the pair syllable (R68–R70).
-/
namespace Sys2Proof.Machine

/-! ## Shapes -/

/-- Which elements of `n` the guard enables (R133). -/
def Group.enables (g : Group) (sel : BitVec 4) (n : Nat) (e : Nat) : Bool := g.guardX sel (if n = 512 then e / 2 else e)

/-- The rounding of a syllable, resolved at issue; SR pops its word of RBQ whatever the guard (R112, R113, R138). -/
def rounding (y : Syl) (s : State) : Rnd × State :=
  match if y.rnd = 5 then s.me.rmode.toNat else y.rnd with
  | 1 => (.fixed .rtz, s)
  | 2 => (.fixed .rup, s)
  | 3 => (.fixed .rdn, s)
  | 4 => let (w, s) := popRbq s; (.sr w, s)
  | _ => (.fixed .rne, s)

/-- A form on elements of its TYPE: `act` gets the type and which elements are enabled. -/
def vform (i : Instr) (y : Syl) (act : Ty → (Nat → Bool) → State → State) (s : State) : Out :=
  perElement i (fun s => match Ty.ofCode y.ty with
    | some t => act t (s.me.enables y.guard t.count) s
    | none => s) s

/-- A result element by element (R134). -/
def finishV (lat : Nat) (y : Syl) (w : Nat) (on : Nat → Bool) (f : Nat → Nat) (s : State) : State :=
  let r := VRes.elems w on f
  finish lat y.dst r.val r.en s

/-- A result written whole. -/
def finishW (lat : Nat) (y : Syl) (v : VReg) (s : State) : State := finish lat y.dst v (BitVec.allOnes 2048) s

/-- Latency of arithmetic: 4 for floats, 2 for integers (R31, R139). -/
def arithLat (t : Ty) : Nat := match t with
  | .float _ => 4
  | _ => 2

/-- One source. -/
def vec1 (i : Instr) (y : Syl) (lat : Nat) (f : Ty → Nat → Nat) (s : State) : Out :=
  vform i y (fun t on s =>
    let (a, s) := readV y.srca s
    finishV lat y t.width on (fun e => f t (a.at t e)) s) s

/-- Two sources. -/
def vec2 (i : Instr) (y : Syl) (lat : Nat) (f : Ty → Nat → Nat → Nat) (s : State) : Out :=
  vform i y (fun t on s =>
    let (a, s) := readV y.srca s
    let (b, s) := readV y.srcb s
    finishV lat y t.width on (fun e => f t (a.at t e) (b.at t e)) s) s

/-- Two sources and a rounding (R138, R140). -/
def vec2r (i : Instr) (y : Syl) (lat : Ty → Nat) (f : Ty → Mode → Bool → Nat → Nat → Nat) (s : State) : Out :=
  vform i y (fun t on s =>
    let (a, s) := readV y.srca s
    let (b, s) := readV y.srcb s
    let (r, s) := rounding y s
    finishV (lat t) y t.width on (fun e => f t (r.at t.count e) y.sat (a.at t e) (b.at t e)) s) s

/-- One source and a rounding: a function of a float (R161). -/
def vec1r (i : Instr) (y : Syl) (lat : Nat) (f : Fmt → Mode → Bool → Fp → Nat) (s : State) : Out :=
  vform i y (fun t on s =>
    let (a, s) := readV y.srca s
    let (r, s) := rounding y s
    match t with
    | .float m => finishV lat y t.width on (fun e => f m (r.at t.count e) y.sat (m.dec (a.at t e))) s
    | _ => s) s

/-! ## Arithmetic, bits and shifts (R140–R143) -/

def execVadd (hi : Bool) (y : Syl) (s : State) : Out := vec2r (.vadd hi y) y arithLat laneAdd s
def execVsub (hi : Bool) (y : Syl) (s : State) : Out := vec2r (.vsub hi y) y arithLat laneSub s
def execVmul (hi : Bool) (y : Syl) (s : State) : Out := vec2r (.vmul hi y) y arithLat laneMul s

/-- VFMA and VFMS (R140). -/
def fused (i : Instr) (y : Syl) (minus : Bool) (s : State) : Out :=
  vform i y (fun t on s =>
    let (a, s) := readV y.srca s
    let (b, s) := readV y.srcb s
    let (c, s) := readV y.srcc s
    let (r, s) := rounding y s
    finishV (arithLat t) y t.width on
      (fun e => laneFma t minus (r.at t.count e) y.sat (a.at t e) (b.at t e) (c.at t e)) s) s

def execVfma (hi : Bool) (y : Syl) (s : State) : Out := fused (.vfma hi y) y false s
def execVfms (hi : Bool) (y : Syl) (s : State) : Out := fused (.vfms hi y) y true s
def execVmin (hi : Bool) (y : Syl) (s : State) : Out := vec2 (.vmin hi y) y 2 (fun t => laneMin t false) s
def execVmax (hi : Bool) (y : Syl) (s : State) : Out := vec2 (.vmax hi y) y 2 (fun t => laneMin t true) s
def execVabs (hi : Bool) (y : Syl) (s : State) : Out := vec1 (.vabs hi y) y 2 (fun t => laneAbs t y.sat) s
def execVneg (hi : Bool) (y : Syl) (s : State) : Out := vec1 (.vneg hi y) y 2 (fun t => laneNeg t y.sat) s
def execVadds (hi : Bool) (y : Syl) (s : State) : Out := vec2 (.vadds hi y) y 2 laneAddSat s
def execVsubs (hi : Bool) (y : Syl) (s : State) : Out := vec2 (.vsubs hi y) y 2 laneSubSat s
def execVmulh (hi : Bool) (y : Syl) (s : State) : Out := vec2 (.vmulh hi y) y 2 laneMulHi s

/-- VDOT2 and VDOT4: 64 elements of 32 bits, whose guard bits are j (R142). -/
def dot (i : Instr) (y : Syl) (q : Nat) (s : State) : Out :=
  vform i y (fun t _ s =>
    let on := s.me.enables y.guard 64
    let (a, s) := readV y.srca s
    let (b, s) := readV y.srcb s
    let (c, s) := readV y.srcc s
    let (r, s) := rounding y s
    finishV 4 y 32 on (fun j => laneDot t q (r.at 64 j) y.sat a b c j) s) s

def execVdot2 (hi : Bool) (y : Syl) (s : State) : Out := dot (.vdot2 hi y) y 2 s
def execVdot4 (hi : Bool) (y : Syl) (s : State) : Out := dot (.vdot4 hi y) y 4 s

def execVand (hi : Bool) (y : Syl) (s : State) : Out := vec2 (.vand hi y) y 2 (fun _ a b => a &&& b) s
def execVor (hi : Bool) (y : Syl) (s : State) : Out := vec2 (.vor hi y) y 2 (fun _ a b => a ||| b) s
def execVxor (hi : Bool) (y : Syl) (s : State) : Out := vec2 (.vxor hi y) y 2 (fun _ a b => a ^^^ b) s
def execVandn (hi : Bool) (y : Syl) (s : State) : Out := vec2 (.vandn hi y) y 2 (fun t a b => a &&& notW t.width b) s
def execVshl (hi : Bool) (y : Syl) (s : State) : Out := vec2 (.vshl hi y) y 2 (fun t => laneShl t.width) s
def execVshr (hi : Bool) (y : Syl) (s : State) : Out := vec2 (.vshr hi y) y 2 (fun t => laneShr t.width) s
def execVsra (hi : Bool) (y : Syl) (s : State) : Out := vec2 (.vsra hi y) y 2 (fun t => laneSra t.width) s
def execVclz (hi : Bool) (y : Syl) (s : State) : Out := vec1 (.vclz hi y) y 2 (fun t a => clz t.width a) s
def execVpopc (hi : Bool) (y : Syl) (s : State) : Out := vec1 (.vpopc hi y) y 2 (fun t a => popCount t.width a) s

/-! ## Compare, select and masks (R144–R147) -/

/-- VCMP.cc: only bits of enabled elements below E are written. -/
def execVcmpCc (hi : Bool) (y : Syl) (s : State) : Out :=
  vform (.vcmpCc hi y) y (fun t on s =>
    let (a, s) := readV y.srca s
    let (b, s) := readV y.srcb s
    let ins := fun e => decide (e < t.count) && on e
    finishM 2 y.md ((maskOf (fun e => ins e && laneCond t y.fn (a.at t e) (b.at t e))).setWidth 2048)
      ((maskOf ins).setWidth 2048) s) s

def execVsel (hi : Bool) (y : Syl) (s : State) : Out :=
  vform (.vsel hi y) y (fun t on s =>
    let m := s.me.rdM y.md
    let (a, s) := readV y.srca s
    let (b, s) := readV y.srcb s
    finishV 2 y t.width on (fun e => if m.getLsbD e then a.at t e else b.at t e) s) s

/-- A mask form: bits whose guard bit is 0 keep what the destination holds at landing (R134, R146). -/
def maskForm (i : Instr) (y : Syl) (f : Mask → Mask → Mask) (s : State) : Out :=
  perElement i (fun s =>
    let g := s.me
    finishM 1 y.md ((f (g.rdM y.srca.toNat) (g.rdM y.srcb.toNat)).setWidth 2048)
      ((maskOf (g.guardX y.guard)).setWidth 2048) s) s

def execMand (hi : Bool) (y : Syl) (s : State) : Out := maskForm (.mand hi y) y (· &&& ·) s
def execMor (hi : Bool) (y : Syl) (s : State) : Out := maskForm (.mor hi y) y (· ||| ·) s
def execMxor (hi : Bool) (y : Syl) (s : State) : Out := maskForm (.mxor hi y) y (· ^^^ ·) s
def execMnot (hi : Bool) (y : Syl) (s : State) : Out := maskForm (.mnot hi y) y (fun a _ => ~~~ a) s

/-- The mask bits below E that participate (R147). -/
def participating (y : Syl) (t : Ty) (g : Group) : List Nat :=
  (upTo t.count).filter (fun e => (g.rdM y.srca.toNat).getLsbD e && g.guardX y.guard e)

def execMpopc (hi : Bool) (y : Syl) (s : State) : Out :=
  vform (.mpopc hi y) y (fun t _ s => finishW 1 y (BitVec.ofNat 2048 (participating y t s.me).length) s) s

def execMfirst (hi : Bool) (y : Syl) (s : State) : Out :=
  vform (.mfirst hi y) y (fun t _ s => finishW 1 y (BitVec.ofNat 2048 ((participating y t s.me).headD t.count)) s) s

/-! ## Reductions and scans (R148, R149) -/

/-- VRED: element 0 of the result; pushed to xq an I value is sign-extended. The entry of xq then lands beside the latch,
which keeps the element alone. -/
def execVred (hi : Bool) (y : Syl) (s : State) : Out :=
  vform (.vred hi y) y (fun t on s =>
    let (a, s) := readV y.srca s
    let (r, s) := rounding y s
    let x := reduce t y.fn (r.at t.count 0) (enabled on (a.at t) t.count)
    match t with
    | .int w =>
      if y.dst = 0x42 then
        let s := s.upd (·.launch { left := 6, slot := s.here.slot, dst := .latch, val := BitVec.ofNat 2048 x, en := BitVec.allOnes 2048 })
        s.upd (fun g =>
          let (id, g) := g.reserve 6
          g.launch { left := 6, slot := 3, dst := .queue 6 id, val := zx (sext64 w x), en := BitVec.allOnes 2048 })
      else finishW 6 y (BitVec.ofNat 2048 x) s
    | _ => finishW 6 y (BitVec.ofNat 2048 x) s) s

def execVscan (hi : Bool) (y : Syl) (s : State) : Out :=
  vform (.vscan hi y) y (fun t on s =>
    let (a, s) := readV y.srca s
    let (r, s) := rounding y s
    finishV 6 y t.width on (fun e => reduce t y.fn (r.at t.count e) (enabled on (a.at t) (e + 1))) s) s

/-! ## Permutes (R150–R153) -/

def execVperm (hi : Bool) (y : Syl) (s : State) : Out :=
  vform (.vperm hi y) y (fun t on s =>
    let n := t.count
    let (a, s) := readV y.srca s
    let (b, s) := readV y.srcb s
    if y.fn = 1 then
      let (c, s) := readV y.srcc s
      finishV 3 y t.width on (fun e =>
        let i := b.index t e % (2 * n)
        if i < n then a.at t i else c.at t (i - n)) s
    else finishV 3 y t.width on (fun e => a.at t (b.index t e % n)) s) s

def execVrot (hi : Bool) (y : Syl) (s : State) : Out :=
  vform (.vrot hi y) y (fun t on s =>
    let (a, s) := readV y.srca s
    let (n, s) := readX y.srcc s
    finishV 3 y t.width on (fun e => a.at t (((e : Int) + n.toInt) % (t.count : Int)).toNat) s) s

def execVbcast (hi : Bool) (y : Syl) (s : State) : Out :=
  vform (.vbcast hi y) y (fun t on s =>
    let (x, s) := readX y.srcc s
    finishV 3 y t.width on (fun _ => x.toNat % 2 ^ t.width) s) s

/-- VINS: only element x tests the guard (R151). -/
def execVins (hi : Bool) (y : Syl) (s : State) : Out :=
  vform (.vins hi y) y (fun t on s =>
    let ix := y.im 7 0
    let (a, s) := readV y.srca s
    let (x, s) := readX y.srcc s
    finishV 3 y t.width (fun e => e != ix || on e) (fun e => if e = ix then x.toNat % 2 ^ t.width else a.at t e) s) s

/-- VEXT: whole, or not at all (R151). -/
def execVext (hi : Bool) (y : Syl) (s : State) : Out :=
  vform (.vext hi y) y (fun t on s =>
    let ix := y.im 7 0
    let (a, s) := readV y.srca s
    let x := a.at t ix
    let w : Word := match t with
      | .int n => sext64 n x
      | _ => BitVec.ofNat 64 x
    finish 3 y.dst (zx w) (if on ix then BitVec.allOnes 2048 else 0) s) s

/-- The elements that a mask selects below `n`, and how many of them stand below `e` (R152). -/
def selectedBelow (m : Mask) (e : Nat) : Nat := ((upTo e).filter (fun j => m.getLsbD j)).length

def execVcomp (hi : Bool) (y : Syl) (s : State) : Out :=
  vform (.vcomp hi y) y (fun t on s =>
    let m := s.me.rdM y.md
    let (a, s) := readV y.srca s
    let picked := (upTo t.count).filter (fun j => m.getLsbD j)
    finishV 3 y t.width on (fun e => match picked[e]? with
      | some j => a.at t j
      | none => 0) s) s

def execVexpd (hi : Bool) (y : Syl) (s : State) : Out :=
  vform (.vexpd hi y) y (fun t on s =>
    let m := s.me.rdM y.md
    let (a, s) := readV y.srca s
    finishV 3 y t.width on (fun e => if m.getLsbD e then a.at t (selectedBelow m e) else 0) s) s

def execViota (hi : Bool) (y : Syl) (s : State) : Out :=
  vform (.viota hi y) y (fun t on s =>
    let m := s.me.rdM y.md
    finishV 3 y t.width on (selectedBelow m) s) s

def execVzip (hi : Bool) (y : Syl) (s : State) : Out :=
  vform (.vzip hi y) y (fun t on s =>
    let (a, s) := readV y.srca s
    let (b, s) := readV y.srcb s
    let h := y.fn * (t.count / 2)
    finishV 3 y t.width on (fun e => if e % 2 = 0 then a.at t (h + e / 2) else b.at t (h + e / 2)) s) s

def execVunzip (hi : Bool) (y : Syl) (s : State) : Out :=
  vform (.vunzip hi y) y (fun t on s =>
    let (a, s) := readV y.srca s
    let (b, s) := readV y.srcb s
    let half := t.count / 2
    finishV 3 y t.width on (fun e => if e < half then a.at t (2 * e + y.fn) else b.at t (2 * (e - half) + y.fn)) s) s

/-! ## Conversions (R154–R158) -/

/-- The mapping of R154: `conv` takes a source element for destination element `e`; SRCC fills what a narrowing leaves. -/
def converted (y : Syl) (dt st : Ty) (a c : VOpnd) (conv : Nat → Nat → Nat) (e : Nat) : Nat :=
  let part := y.md
  if dt.width < st.width then
    let n := st.count
    if part * n ≤ e ∧ e < (part + 1) * n then conv e (a.at st (e - part * n)) else c.at dt e
  else if dt.width > st.width then conv e (a.at st (part * dt.count + e))
  else conv e (a.at st e)

/-- A conversion of element types, its third source read only when it narrows. -/
def convertForm (y : Syl) (dt st : Ty) (book : Bool) (conv : VOpnd → Rnd → Nat → Nat → Nat) (on : Nat → Bool) (s : State) : State :=
  let (a, s) := readV y.srca s
  let (b, s) := if book then readV y.srcb s else (.splat 0, s)
  let (c, s) := if dt.width < st.width then readV y.srcc s else (.splat 0, s)
  let (r, s) := rounding y s
  finishV 3 y dt.width on (converted y dt st a c (conv b r)) s

/-- The codebook in bits 255:0 of an operand, taken as sixteen bf16 elements (R156). -/
def opndBook (b : VOpnd) : Nat := packNat 16 (b.at (.float bf16)) 16

/-- VCVT (R155, R156): encoding to cb4 takes RNE or SR alone, DYN included. -/
def execVcvt (hi : Bool) (y : Syl) (s : State) : Out :=
  vform (.vcvt hi y) y (fun dt on s =>
    match dt, Ty.ofCode y.fn with
    | .cb4, some (.float f) =>
      let md := if y.rnd = 5 then s.me.rmode.toNat else y.rnd
      if md ≠ 0 ∧ md ≠ 4 then raise ILLOP s
      else convertForm y .cb4 (.float f) true (fun b r e x =>
        cbEncode f (opndBook b) (match r with
          | .sr w => some ((w.toNat >>> (4 * e)) % 16, 4)
          | .fixed _ => none) x) on s
    | .float d, some .cb4 =>
      convertForm y (.float d) .cb4 true (fun b _ _ x => cbDecode (d.w == 32) (opndBook b) x) on s
    | dt, some st => convertForm y dt st false (fun _ r e x => convert dt st (r.at dt.count e) y.sat x) on s
    | _, none => s) s

def execVnarrow (hi : Bool) (y : Syl) (s : State) : Out :=
  vform (.vnarrow hi y) y (fun dt on s =>
    match Ty.ofCode y.fn with
    | some st => convertForm y dt st false (fun _ _ _ x => convert dt st .rne y.sat x) on s
    | none => s) s

def execVwiden (hi : Bool) (y : Syl) (s : State) : Out :=
  vform (.vwiden hi y) y (fun dt on s =>
    match Ty.ofCode y.fn with
    | some st => convertForm y dt st false (fun _ _ _ x => convert dt st .rne false x) on s
    | none => s) s

/-! ## Scaling, classes and functions (R159–R163) -/

def execVscale (hi : Bool) (y : Syl) (s : State) : Out :=
  vec2r (.vscale hi y) y (fun _ => 4) (fun t md sat a b => match t with
    | .float f => laneScale f md sat a b
    | _ => 0) s

def execVclass (hi : Bool) (y : Syl) (s : State) : Out :=
  vec1 (.vclass hi y) y 2 (fun t a => match t with
    | .float f => classOf f a
    | _ => 0) s

def execVrcp (hi : Bool) (y : Syl) (s : State) : Out := vec1r (.vrcp hi y) y 8 laneRcp s
def execVrsq (hi : Bool) (y : Syl) (s : State) : Out := vec1r (.vrsq hi y) y 8 Fmt.rsqrt s
def execVexp2 (hi : Bool) (y : Syl) (s : State) : Out := vec1r (.vexp2 hi y) y 8 Fmt.exp2 s
def execVlog2 (hi : Bool) (y : Syl) (s : State) : Out := vec1r (.vlog2 hi y) y 8 Fmt.log2 s
def execVtanh (hi : Bool) (y : Syl) (s : State) : Out := vec1r (.vtanh hi y) y 8 Fmt.tanh s

/-- The execute stream is held too, once the form has issued (R162). -/
def holding (lat : Nat) : Out → Out
  | .next s => if s.here.off.contains s.here.core then .next s else .next (block lat s)
  | o => o

def execVdiv (hi : Bool) (y : Syl) (s : State) : Out :=
  holding 16 (vec2r (.vdiv hi y) y (fun _ => 16) (fun t md sat a b => match t with
    | .float f => f.div md sat (f.dec a) (f.dec b)
    | _ => 0) s)

def execVsqrt (hi : Bool) (y : Syl) (s : State) : Out := holding 16 (vec1r (.vsqrt hi y) y 16 Fmt.sqrt s)

def execVmov (hi : Bool) (y : Syl) (s : State) : Out := vec1 (.vmov hi y) y 2 (fun _ a => a) s

/-- VLI: SRCA and SRCB are the constant's bytes (R163). -/
def execVli (hi : Bool) (y : Syl) (s : State) : Out :=
  vform (.vli hi y) y (fun t on s => finishV 2 y t.width on (fun _ => vliElem t (y.srca.toNat * 256 + y.srcb.toNat)) s) s

/-! ## Pair syllables (R68–R70) -/

/-- The scalar half: its operation and latency (R70). -/
def pairScalar (op : Nat) (a b : Word) : Word × Nat :=
  match op with
  | 0 => (a + b, 1)
  | 1 => (a - b, 1)
  | 2 => (a &&& b, 1)
  | 3 => (a ||| b, 1)
  | 4 => (a ^^^ b, 1)
  | 5 => (a &&& ~~~ b, 1)
  | 6 => (a <<< (b.toNat % 64), 1)
  | 7 => (a >>> (b.toNat % 64), 1)
  | 8 => (a.sshiftRight (b.toNat % 64), 1)
  | 9 => (if a.sle b then a else b, 1)
  | 10 => (if a.sle b then b else a, 1)
  | 11 => (if a.ule b then a else b, 1)
  | 12 => (if a.ule b then b else a, 1)
  | _ => (a * b, 3)

/-- The vector half: its type and what it computes (R70); the bitwise forms and VMOV act as on i32. -/
def pairVector (op : Nat) : Ty × (Nat → Nat → Nat) :=
  let i32 : Ty := .int 32
  let i16 : Ty := .int 16
  let fl : Ty := .float f32
  let bf : Ty := .float bf16
  match op with
  | 0x00 => (i32, laneAdd i32 .rne false)
  | 0x01 => (i32, laneSub i32 .rne false)
  | 0x02 => (i32, laneMin i32 false)
  | 0x03 => (i32, laneMin i32 true)
  | 0x04 => (i16, laneAdd i16 .rne false)
  | 0x05 => (i16, laneSub i16 .rne false)
  | 0x06 => (i16, laneAddSat i16)
  | 0x07 => (i16, laneSubSat i16)
  | 0x08 => (i32, (· &&& ·))
  | 0x09 => (i32, (· ||| ·))
  | 0x0A => (i32, (· ^^^ ·))
  | 0x0B => (i32, laneShl 32)
  | 0x0C => (i32, laneShr 32)
  | 0x0D => (i32, laneSra 32)
  | 0x0E => (i16, laneSra 16)
  | 0x10 => (fl, laneAdd fl .rne false)
  | 0x11 => (fl, laneSub fl .rne false)
  | 0x12 => (fl, laneMul fl .rne false)
  | 0x13 => (fl, laneMin fl false)
  | 0x14 => (fl, laneMin fl true)
  | 0x18 => (bf, laneAdd bf .rne false)
  | 0x19 => (bf, laneMul bf .rne false)
  | _ => (i32, fun a _ => a)

/-- Both halves read their sources, then launch their results: the scalar half from slot 0, the vector half from
slot 1. -/
def execPair (y : PairSyl) (s : State) : Out :=
  perElement (.pair y) (fun s =>
    let g := s.me
    let (a, b, s) := readX2 (y.xa.setWidth 8) y.xb s
    let (u, s) := readV (y.va.setWidth 8) s
    let (v, s) := readV y.vb s
    let (t, f) := pairVector y.vop.toNat
    let (w, lat) := pairScalar y.xop.toNat a b
    let s := if g.guardX y.guard 0 then finishS lat (y.xdst.setWidth 8) w s else s
    let r := VRes.elems t.width (g.enables y.guard t.count) (fun e => f (u.at t e) (v.at t e))
    s.upd (·.launch { left := if y.vop = 0x13 ∨ y.vop = 0x14 then 2 else arithLat t, slot := 1, dst := .vreg y.vdst.toNat, val := r.val, en := r.en })) s

end Sys2Proof.Machine
end

