-- ==== Sys2Proof/Machine/Waits.lean ====
section
/-!
DEFINITION. Waiters of cells: first touch and the evaluator's launch as the hub retries it (R319, R321), wakes (R325,
R331), and the watchdog (R327, R328).
-/
namespace Sys2Proof.Machine

/-- A place of a context's access lies in a line. -/
def State.inLine (s : State) (ctx line : Nat) (p : Place) : Bool :=
  match p with
  | .dev off => (match s.phys ctx off false with
    | .ok p => p / 64 == line
    | _ => false)
  | .far ia => farBase + ia / 64 == line
  | _ => false

/-- Who is on the way to a line with a load: the first access of a cluster, else the first request of another device that waits
at a hub. -/
def State.comingTo (s : State) (line : Nat) : Option Toucher :=
  let loads := s.clusters.flatMap (fun e => (e.2.outbound.filter (fun a =>
    !a.done && a.kind.isLoad && a.pieces.any (fun p => s.inLine a.ctx line p.place))).map (fun a => s.toucher (some e.1) a.share))
  let far := s.hdies.flatMap (fun e => (e.2.held.filter (fun r => s.inLine r.req.ctx line (.dev r.req.off))).map (fun r =>
    RemoteReq.toucher r.req))
  (loads ++ far).head?

/-- The first load on its way to a SUSPENDED line reaches its hub (R319, R331); with none on its way nothing happens. -/
def execFirstTouch (line : Nat) (s : State) : Out :=
  .next (match s.comingTo line with
    | some who => s.firstTouch line who true
    | none => s)

/-- The hub tries again to launch an evaluator that found no room (R321). -/
def execEvaluatorRetry (line : Nat) (s : State) : Out :=
  .next (if s.cell line == cEVALUATING then s.launchEvaluator line else s)

/-! ## Wakes (R325, R331) -/

/-- The waiter of an entry goes on: a load that had issued is tried again, without SCOPEMISS; else the group's load replays, or
its saved group is to be restored. A unit that it held is free. -/
def State.wakeWaiter (s : State) (w : WaitEnt) : State :=
  match w.acc with
  | some _ => s.modCluster (w.core / 4) (fun k => { k with outbound := k.outbound.map (fun a =>
      if a.gid = w.gid ∧ a.parked = some w.line then { a with parked := none, calm := true } else a) })
  | none =>
    let s := s.modGroup w.gid (fun g => { g with parked := none, woken := true })
    if w.spilled then s.freeUnit w.owner else s

/-- Entry `i` of a wait table whose line has left EVALUATING since the entry was made, whatever it is now. -/
def State.wakeEntry (s : State) (cl i : Nat) : State :=
  match (s.cluster cl).wait[i]? with
  | none => s
  | some w =>
    if w.proxy || (!w.due && s.cellOf w.line == cEVALUATING) then s
    else (s.modCluster cl (fun k => { k with wait := k.wait.eraseIdx i })).wakeWaiter w

/-- A request of another device that waits at this hub: its wake is sent, and its record's unit is free (R331). -/
def State.wakeHeld (s : State) (h i : Nat) : State :=
  match (s.hdie h).held[i]? with
  | none => s
  | some e => match e.parked with
    | some ln =>
      if !e.due && s.cellOf ln == cEVALUATING then s
      else ((s.modHdie h (fun d => { d with held := d.held.eraseIdx i })).freeUnit e.owner).sendTo e.req.dev
        (.wake e.req.dev (e.req.off / 64))
    | none => s

/-- A waiter is woken: entry `i` of a cluster's wait table, or, from 72 on, a request that waits at an H-die. -/
def execCellWake (cluster i : Nat) (s : State) : Out := .next (if cluster < 72 then s.wakeEntry cluster i else s.wakeHeld (cluster - 72) i)

/-- A wake message reaches the proxies of a line, named by its intermediate address (R331). -/
def State.wakeProxies (s : State) (ln : Nat) : State :=
  let hit := fun (w : WaitEnt) => w.proxy && w.line == farBase + ln
  let ws := s.clusters.flatMap (fun e => e.2.wait.filter hit)
  let s : State := { s with clusters := s.clusters.map (fun e => (e.1, { e.2 with wait := e.2.wait.filter (fun w => !hit w) })) }
  ws.foldl State.wakeWaiter s

/-- A wake message is domain traffic (R432). -/
def execWakeMessage (line : Nat) (s : State) : Out := .next (if s.board.domEn then s.wakeProxies line else s)

/-! ## The watchdog (R327, R328) -/

/-- The lines on which groups of a line's evaluator are parked, and how those groups named them; of a line of another device, as
its hub tells them (R331). -/
def State.links (s : State) (ln : Nat) : List (Nat × Nat) :=
  if isFarLine ln then
    if s.cellOf ln == cEVALUATING then (Tab.get {} s.farEvals (ln - farBase)).links else []
  else match ((s.lineMeta ln).eval).bind (·.task) with
  | none => []
  | some t => ((s.clusters.flatMap (fun e => e.2.wait)).filter (fun w => w.task == t)).map (fun w => (w.line, w.va))

/-- The links from the lines still to look at, nearest first, each with the addresses that lead to it, back to the first cell:
the addresses of a cycle, none when there is no way back within the links left. -/
def State.wayBack (s : State) (first : Nat) : Nat → List Nat → List (Nat × List Nat) → Option (List Nat)
  | 0, _, _ => none
  | _, _, [] => none
  | fuel + 1, seen, (ln, way) :: rest =>
    let next := s.links ln
    if next.any (fun k => k.1 == first) then some way
    else
      let more := (next.map (fun k => (k.1, way ++ [k.2]))).filter (fun k => !seen.contains k.1)
      s.wayBack first fuel (seen ++ more.map (·.1)) (rest ++ more)

/-- The cycle record of a context (R328). -/
def Ctx.recordCycle (l : List Nat) (x : Ctx) : Ctx :=
  { x with
    links := (upTo 4).foldl (fun t i => Tab.set 0 t i (BitVec.ofNat 64 ((l[i]?).getD 0))) x.links
    nlink := min l.length 65535
    dcCount := min (x.dcCount + 1) 65535 }

/-- The load of a waiter in a cycle is to trap with DEPCYCLE: as its bundle issues again, or, of one that had issued, as an
access that has failed. -/
def State.breakCycle (s : State) (w : WaitEnt) : State :=
  match w.acc with
  | some id =>
    let cl := w.core / 4
    match (s.cluster cl).outbound.find? (fun a => a.id == id) with
    | some a => (s.putAcc cl id none).modGroup a.gid (a.blame DEPCYCLE)
    | none => s
  | none =>
    let s := s.modGroup w.gid (fun g => { g with parked := none, depCycle := some w.line, woken := true })
    if w.spilled then s.freeUnit w.owner else s

/-- A waiter of 10 ms is examined: in a cycle, its entry is removed and its load traps with DEPCYCLE. -/
def State.watch (s : State) (cl i : Nat) : State :=
  match (s.cluster cl).wait[i]? with
  | none => s
  | some w =>
    if s.time < w.since + 10000000 || w.due || s.cellOf w.line != cEVALUATING then s
    else match s.wayBack w.line 1024 [w.line] [(w.line, [])] with
      | none => s
      | some l =>
        let s := (s.modCluster cl (fun k => { k with wait := k.wait.eraseIdx i })).breakCycle w
        s.modCtx w.ctx (Ctx.recordCycle (w.va :: l))

def execWaitWatchdog (cluster i : Nat) (s : State) : Out := .next (s.watch cluster i)

end Sys2Proof.Machine
end

