-- ==== Sys2Proof/Machine/Dispatch.lean ====
section
/-!
DEFINITION. The meaning of every instruction: one arm per constructor of Instr, one direct call of its meaning.
-/
namespace Sys2Proof.Machine

def exec (i : Instr) (s : State) : Host.Outcome State Fault Refusal :=
  match i with
  | .add y => Sys2Proof.Machine.execAdd y s
  | .sub y => Sys2Proof.Machine.execSub y s
  | .mul y => Sys2Proof.Machine.execMul y s
  | .mulhi y => Sys2Proof.Machine.execMulhi y s
  | .mulhn y => Sys2Proof.Machine.execMulhn y s
  | .div y => Sys2Proof.Machine.execDiv y s
  | .divn y => Sys2Proof.Machine.execDivn y s
  | .rem y => Sys2Proof.Machine.execRem y s
  | .remn y => Sys2Proof.Machine.execRemn y s
  | .and y => Sys2Proof.Machine.execAnd y s
  | .or y => Sys2Proof.Machine.execOr y s
  | .xor y => Sys2Proof.Machine.execXor y s
  | .andn y => Sys2Proof.Machine.execAndn y s
  | .shl y => Sys2Proof.Machine.execShl y s
  | .shr y => Sys2Proof.Machine.execShr y s
  | .sra y => Sys2Proof.Machine.execSra y s
  | .rot y => Sys2Proof.Machine.execRot y s
  | .min y => Sys2Proof.Machine.execMin y s
  | .max y => Sys2Proof.Machine.execMax y s
  | .minn y => Sys2Proof.Machine.execMinn y s
  | .maxn y => Sys2Proof.Machine.execMaxn y s
  | .clz y => Sys2Proof.Machine.execClz y s
  | .ctz y => Sys2Proof.Machine.execCtz y s
  | .popc y => Sys2Proof.Machine.execPopc y s
  | .extr y => Sys2Proof.Machine.execExtr y s
  | .ins y => Sys2Proof.Machine.execIns y s
  | .sel y => Sys2Proof.Machine.execSel y s
  | .cmpCc y => Sys2Proof.Machine.execCmpCc y s
  | .addi y => Sys2Proof.Machine.execAddi y s
  | .li y => Sys2Proof.Machine.execLi y s
  | .lim y => Sys2Proof.Machine.execLim y s
  | .lit y => Sys2Proof.Machine.execLit y s
  | .andi y => Sys2Proof.Machine.execAndi y s
  | .ori y => Sys2Proof.Machine.execOri y s
  | .xori y => Sys2Proof.Machine.execXori y s
  | .br y => Sys2Proof.Machine.execBr y s
  | .call y => Sys2Proof.Machine.execCall y s
  | .ret y => Sys2Proof.Machine.execRet y s
  | .jr y => Sys2Proof.Machine.execJr y s
  | .trap y => Sys2Proof.Machine.execTrap y s
  | .svc y => Sys2Proof.Machine.execSvc y s
  | .eret y => Sys2Proof.Machine.execEret y s
  | .endStep y => Sys2Proof.Machine.execEndStep y s
  | .nop y => Sys2Proof.Machine.execNop y s
  | .csrr y => Sys2Proof.Machine.execCsrr y s
  | .csrw y => Sys2Proof.Machine.execCsrw y s
  | .csrs y => Sys2Proof.Machine.execCsrs y s
  | .csrc y => Sys2Proof.Machine.execCsrc y s
  | .time y => Sys2Proof.Machine.execTime y s
  | .cyc y => Sys2Proof.Machine.execCyc y s
  | .rndw y => Sys2Proof.Machine.execRndw y s
  | .hint y => Sys2Proof.Machine.execHint y s
  | .pair y => Sys2Proof.Machine.execPair y s
  | .vadd hi y => Sys2Proof.Machine.execVadd hi y s
  | .vsub hi y => Sys2Proof.Machine.execVsub hi y s
  | .vmul hi y => Sys2Proof.Machine.execVmul hi y s
  | .vfma hi y => Sys2Proof.Machine.execVfma hi y s
  | .vfms hi y => Sys2Proof.Machine.execVfms hi y s
  | .vmin hi y => Sys2Proof.Machine.execVmin hi y s
  | .vmax hi y => Sys2Proof.Machine.execVmax hi y s
  | .vabs hi y => Sys2Proof.Machine.execVabs hi y s
  | .vneg hi y => Sys2Proof.Machine.execVneg hi y s
  | .vadds hi y => Sys2Proof.Machine.execVadds hi y s
  | .vsubs hi y => Sys2Proof.Machine.execVsubs hi y s
  | .vmulh hi y => Sys2Proof.Machine.execVmulh hi y s
  | .vdot2 hi y => Sys2Proof.Machine.execVdot2 hi y s
  | .vdot4 hi y => Sys2Proof.Machine.execVdot4 hi y s
  | .vand hi y => Sys2Proof.Machine.execVand hi y s
  | .vor hi y => Sys2Proof.Machine.execVor hi y s
  | .vxor hi y => Sys2Proof.Machine.execVxor hi y s
  | .vandn hi y => Sys2Proof.Machine.execVandn hi y s
  | .vshl hi y => Sys2Proof.Machine.execVshl hi y s
  | .vshr hi y => Sys2Proof.Machine.execVshr hi y s
  | .vsra hi y => Sys2Proof.Machine.execVsra hi y s
  | .vclz hi y => Sys2Proof.Machine.execVclz hi y s
  | .vpopc hi y => Sys2Proof.Machine.execVpopc hi y s
  | .vcmpCc hi y => Sys2Proof.Machine.execVcmpCc hi y s
  | .vsel hi y => Sys2Proof.Machine.execVsel hi y s
  | .mand hi y => Sys2Proof.Machine.execMand hi y s
  | .mor hi y => Sys2Proof.Machine.execMor hi y s
  | .mxor hi y => Sys2Proof.Machine.execMxor hi y s
  | .mnot hi y => Sys2Proof.Machine.execMnot hi y s
  | .mpopc hi y => Sys2Proof.Machine.execMpopc hi y s
  | .mfirst hi y => Sys2Proof.Machine.execMfirst hi y s
  | .vred hi y => Sys2Proof.Machine.execVred hi y s
  | .vscan hi y => Sys2Proof.Machine.execVscan hi y s
  | .vperm hi y => Sys2Proof.Machine.execVperm hi y s
  | .vrot hi y => Sys2Proof.Machine.execVrot hi y s
  | .vbcast hi y => Sys2Proof.Machine.execVbcast hi y s
  | .vins hi y => Sys2Proof.Machine.execVins hi y s
  | .vext hi y => Sys2Proof.Machine.execVext hi y s
  | .vcomp hi y => Sys2Proof.Machine.execVcomp hi y s
  | .vexpd hi y => Sys2Proof.Machine.execVexpd hi y s
  | .viota hi y => Sys2Proof.Machine.execViota hi y s
  | .vzip hi y => Sys2Proof.Machine.execVzip hi y s
  | .vunzip hi y => Sys2Proof.Machine.execVunzip hi y s
  | .vcvt hi y => Sys2Proof.Machine.execVcvt hi y s
  | .vnarrow hi y => Sys2Proof.Machine.execVnarrow hi y s
  | .vwiden hi y => Sys2Proof.Machine.execVwiden hi y s
  | .vscale hi y => Sys2Proof.Machine.execVscale hi y s
  | .vclass hi y => Sys2Proof.Machine.execVclass hi y s
  | .vrcp hi y => Sys2Proof.Machine.execVrcp hi y s
  | .vrsq hi y => Sys2Proof.Machine.execVrsq hi y s
  | .vexp2 hi y => Sys2Proof.Machine.execVexp2 hi y s
  | .vlog2 hi y => Sys2Proof.Machine.execVlog2 hi y s
  | .vtanh hi y => Sys2Proof.Machine.execVtanh hi y s
  | .vdiv hi y => Sys2Proof.Machine.execVdiv hi y s
  | .vsqrt hi y => Sys2Proof.Machine.execVsqrt hi y s
  | .vmov hi y => Sys2Proof.Machine.execVmov hi y s
  | .vli hi y => Sys2Proof.Machine.execVli hi y s
  | .mcall y => Sys2Proof.Machine.execMcall y s
  | .mlds y => Sys2Proof.Machine.execMlds y s
  | .mswp y => Sys2Proof.Machine.execMswp y s
  | .mpw y => Sys2Proof.Machine.execMpw y s
  | .mshape y => Sys2Proof.Machine.execMshape y s
  | .mring y => Sys2Proof.Machine.execMring y s
  | .mradv y => Sys2Proof.Machine.execMradv y s
  | .epcfg y => Sys2Proof.Machine.execEpcfg y s
  | .eprun y => Sys2Proof.Machine.execEprun y s
  | .mchkr y => Sys2Proof.Machine.execMchkr y s
  | .mupld y => Sys2Proof.Machine.execMupld y s
  | .mflush y => Sys2Proof.Machine.execMflush y s
  | .mflushDrop y => Sys2Proof.Machine.execMflushDrop y s
  | .ld y => Sys2Proof.Machine.execLd y s
  | .vld y => Sys2Proof.Machine.execVld y s
  | .vlds y => Sys2Proof.Machine.execVlds y s
  | .vldx y => Sys2Proof.Machine.execVldx y s
  | .vldt y => Sys2Proof.Machine.execVldt y s
  | .lda y => Sys2Proof.Machine.execLda y s
  | .ldn y => Sys2Proof.Machine.execLdn y s
  | .pft y => Sys2Proof.Machine.execPft y s
  | .vldb y => Sys2Proof.Machine.execVldb y s
  | .st y => Sys2Proof.Machine.execSt y s
  | .vst y => Sys2Proof.Machine.execVst y s
  | .vsts y => Sys2Proof.Machine.execVsts y s
  | .vstx y => Sys2Proof.Machine.execVstx y s
  | .stl y => Sys2Proof.Machine.execStl y s
  | .defer y => Sys2Proof.Machine.execDefer y s
  | .resolve y => Sys2Proof.Machine.execResolve y s
  | .clrt y => Sys2Proof.Machine.execClrt y s
  | .stnt y => Sys2Proof.Machine.execStnt y s
  | .cpy y => Sys2Proof.Machine.execCpy y s
  | .cpyg y => Sys2Proof.Machine.execCpyg y s
  | .shw y => Sys2Proof.Machine.execShw y s
  | .shwi y => Sys2Proof.Machine.execShwi y s
  | .chwm y => Sys2Proof.Machine.execChwm y s
  | .chcfg y => Sys2Proof.Machine.execChcfg y s
  | .sopen y => Sys2Proof.Machine.execSopen y s
  | .pub y => Sys2Proof.Machine.execPub y s
  | .sdrop y => Sys2Proof.Machine.execSdrop y s
  | .vdec y => Sys2Proof.Machine.execVdec y s
  | .rhnew y => Sys2Proof.Machine.execRhnew y s
  | .rhset y => Sys2Proof.Machine.execRhset y s
  | .evpop y => Sys2Proof.Machine.execEvpop y s
  | .bufn y => Sys2Proof.Machine.execBufn y s
  | .ali y => Sys2Proof.Machine.execAli y s
  | .alim y => Sys2Proof.Machine.execAlim y s
  | .alit y => Sys2Proof.Machine.execAlit y s
  | .aadd y => Sys2Proof.Machine.execAadd y s
  | .asub y => Sys2Proof.Machine.execAsub y s
  | .aaddi y => Sys2Proof.Machine.execAaddi y s
  | .ashli y => Sys2Proof.Machine.execAshli y s
  | .ashri y => Sys2Proof.Machine.execAshri y s
  | .aandi y => Sys2Proof.Machine.execAandi y s
  | .amul y => Sys2Proof.Machine.execAmul y s
  | .amin y => Sys2Proof.Machine.execAmin y s
  | .amax y => Sys2Proof.Machine.execAmax y s
  | .acmpCc y => Sys2Proof.Machine.execAcmpCc y s
  | .amovq y => Sys2Proof.Machine.execAmovq y s
  | .aq y => Sys2Proof.Machine.execAq y s
  | .kset y => Sys2Proof.Machine.execKset y s
  | .loop y => Sys2Proof.Machine.execLoop y s
  | .binit y => Sys2Proof.Machine.execBinit y s
  | .barv y => Sys2Proof.Machine.execBarv y s
  | .barvRemote y => Sys2Proof.Machine.execBarvRemote y s
  | .bwait y => Sys2Proof.Machine.execBwait y s
  | .btest y => Sys2Proof.Machine.execBtest y s
  | .fence y => Sys2Proof.Machine.execFence y s
  | .drain y => Sys2Proof.Machine.execDrain y s
  | .amo y => Sys2Proof.Machine.execAmo y s
  | .cas y => Sys2Proof.Machine.execCas y s
  | .bank y => Sys2Proof.Machine.execBank y s
  | .rres y => Sys2Proof.Machine.execRres y s
  | .rpub y => Sys2Proof.Machine.execRpub y s
  | .spawn y => Sys2Proof.Machine.execSpawn y s
  | .tlaunch y => Sys2Proof.Machine.execTlaunch y s
  | .twait y => Sys2Proof.Machine.execTwait y s
  | .tstat y => Sys2Proof.Machine.execTstat y s
  | .spalloc y => Sys2Proof.Machine.execSpalloc y s
  | .spfree y => Sys2Proof.Machine.execSpfree y s
  | .yield y => Sys2Proof.Machine.execYield y s
  | .sege y => Sys2Proof.Machine.execSege y s
  | .rdv y => Sys2Proof.Machine.execRdv y s
  | .fuse y => Sys2Proof.Machine.execFuse y s
  | .decpl y => Sys2Proof.Machine.execDecpl y s
  | .rejoin y => Sys2Proof.Machine.execRejoin y s
  | .glaunch y => Sys2Proof.Machine.execGlaunch y s
  | .gcommit y => Sys2Proof.Machine.execGcommit y s
  | .winw y => Sys2Proof.Machine.execWinw y s
  | .ringvoid y => Sys2Proof.Machine.execRingvoid y s
  | .gswap y => Sys2Proof.Machine.execGswap y s
  | .strm a r w f swz p => Sys2Proof.Machine.execStrm a r w f swz p s
  | .strc d r w y x swz => Sys2Proof.Machine.execStrc d r w y x swz s
  | .lst b f swz => Sys2Proof.Machine.execLst b f swz s
  | .swp => Sys2Proof.Machine.execSwp s
  | .adv => Sys2Proof.Machine.execAdv s
  | .zero => Sys2Proof.Machine.execZero s
  | .waitb b p => Sys2Proof.Machine.execWaitb b p s
  | .arrb b c => Sys2Proof.Machine.execArrb b c s
  | .lp c => Sys2Proof.Machine.execLp c s
  | .lpReg w => Sys2Proof.Machine.execLpReg w s
  | .el => Sys2Proof.Machine.execEl s
  | .ainc w h inc => Sys2Proof.Machine.execAinc w h inc s
  | .chk e => Sys2Proof.Machine.execChk e s
  | .nopm => Sys2Proof.Machine.execNopm s
  | .retm => Sys2Proof.Machine.execRetm s
  | .lineFetch core va => Sys2Proof.Machine.execLineFetch core va s
  | .fetchAhead core va => Sys2Proof.Machine.execFetchAhead core va s
  | .resultLanding core => Sys2Proof.Machine.execResultLanding core s
  | .trapEntry core => Sys2Proof.Machine.execTrapEntry core s
  | .groupSwitch core => Sys2Proof.Machine.execGroupSwitch core s
  | .rewind core bank => Sys2Proof.Machine.execRewind core bank s
  | .fusionJoin core => Sys2Proof.Machine.execFusionJoin core s
  | .fusedEclipseTimeout core => Sys2Proof.Machine.execFusedEclipseTimeout core s
  | .arrayCommandStart core => Sys2Proof.Machine.execArrayCommandStart core s
  | .mupldExec core => Sys2Proof.Machine.execMupldExec core s
  | .epilogueCommandStart core => Sys2Proof.Machine.execEpilogueCommandStart core s
  | .epilogueRow core => Sys2Proof.Machine.execEpilogueRow core s
  | .bandGate cluster band => Sys2Proof.Machine.execBandGate cluster band s
  | .bandPowerUp cluster band => Sys2Proof.Machine.execBandPowerUp cluster band s
  | .loadDataReturn cluster id => Sys2Proof.Machine.execLoadDataReturn cluster id s
  | .remoteAccessPerform cluster id piece => Sys2Proof.Machine.execRemoteAccessPerform cluster id piece s
  | .llcMissFill line => Sys2Proof.Machine.execLlcMissFill line s
  | .rhsetActionDone ctx handle => Sys2Proof.Machine.execRhsetActionDone ctx handle s
  | .faultRecordWrite hdie => Sys2Proof.Machine.execFaultRecordWrite hdie s
  | .tokenFreeTake hdie => Sys2Proof.Machine.execTokenFreeTake hdie s
  | .replay hdie w => Sys2Proof.Machine.execReplay hdie w s
  | .tlbinv hdie w => Sys2Proof.Machine.execTlbinv hdie w s
  | .tlbinvDone hdie => Sys2Proof.Machine.execTlbinvDone hdie s
  | .migcmdGo hdie w => Sys2Proof.Machine.execMigcmdGo hdie w s
  | .migrationPieceDone hdie page => Sys2Proof.Machine.execMigrationPieceDone hdie page s
  | .framepush hdie w => Sys2Proof.Machine.execFramepush hdie w s
  | .frtailWrite hdie w => Sys2Proof.Machine.execFrtailWrite hdie w s
  | .cmsplitWrite hdie w => Sys2Proof.Machine.execCmsplitWrite hdie w s
  | .cmsplitDone hdie => Sys2Proof.Machine.execCmsplitDone hdie s
  | .fwinEnable hdie n w => Sys2Proof.Machine.execFwinEnable hdie n w s
  | .fwinDisable hdie n => Sys2Proof.Machine.execFwinDisable hdie n s
  | .fwinFlush hdie n => Sys2Proof.Machine.execFwinFlush hdie n s
  | .fwinBusyDone hdie n => Sys2Proof.Machine.execFwinBusyDone hdie n s
  | .hotnessClear ctx n stall => Sys2Proof.Machine.execHotnessClear ctx n stall s
  | .barrierArrival cluster idx => Sys2Proof.Machine.execBarrierArrival cluster idx s
  | .copyStart cluster id => Sys2Proof.Machine.execCopyStart cluster id s
  | .copyElement cluster id => Sys2Proof.Machine.execCopyElement cluster id s
  | .copyComplete cluster id => Sys2Proof.Machine.execCopyComplete cluster id s
  | .shadowMergeDone cluster id => Sys2Proof.Machine.execShadowMergeDone cluster id s
  | .vdecStart id decoder => Sys2Proof.Machine.execVdecStart id decoder s
  | .decodeFrame decoder => Sys2Proof.Machine.execDecodeFrame decoder s
  | .vdecComplete decoder => Sys2Proof.Machine.execVdecComplete decoder s
  | .lrtailWrite ctx w => Sys2Proof.Machine.execLrtailWrite ctx w s
  | .launchRecordConsume ctx => Sys2Proof.Machine.execLaunchRecordConsume ctx s
  | .overflowShareMove cluster => Sys2Proof.Machine.execOverflowShareMove cluster s
  | .readinessRecheck share => Sys2Proof.Machine.execReadinessRecheck share s
  | .readinessPoll share => Sys2Proof.Machine.execReadinessPoll share s
  | .schedulerTick cluster => Sys2Proof.Machine.execSchedulerTick cluster s
  | .stepStart core => Sys2Proof.Machine.execStepStart core s
  | .groupEnd core bank => Sys2Proof.Machine.execGroupEnd core bank s
  | .shareComplete share => Sys2Proof.Machine.execShareComplete share s
  | .allowExpiry share => Sys2Proof.Machine.execAllowExpiry share s
  | .abortSettle share => Sys2Proof.Machine.execAbortSettle share s
  | .parentRestore core => Sys2Proof.Machine.execParentRestore core s
  | .firstTouch line => Sys2Proof.Machine.execFirstTouch line s
  | .evaluatorRetry line => Sys2Proof.Machine.execEvaluatorRetry line s
  | .cellWake cluster idx => Sys2Proof.Machine.execCellWake cluster idx s
  | .wakeMessage line => Sys2Proof.Machine.execWakeMessage line s
  | .waitWatchdog cluster idx => Sys2Proof.Machine.execWaitWatchdog cluster idx s
  | .ephSubmit => Sys2Proof.Machine.execEphSubmit s
  | .ephVerdict => Sys2Proof.Machine.execEphVerdict s
  | .utcoffWrite w => Sys2Proof.Machine.execUtcoffWrite w s
  | .segmentChange => Sys2Proof.Machine.execSegmentChange s
  | .curtailmentPark share => Sys2Proof.Machine.execCurtailmentPark share s
  | .dieGate die => Sys2Proof.Machine.execDieGate die s
  | .gradeLift => Sys2Proof.Machine.execGradeLift s
  | .dieUngate die => Sys2Proof.Machine.execDieUngate die s
  | .ballastTaper => Sys2Proof.Machine.execBallastTaper s
  | .railSample => Sys2Proof.Machine.execRailSample s
  | .allowanceRecompute => Sys2Proof.Machine.execAllowanceRecompute s
  | .perigeeReport => Sys2Proof.Machine.execPerigeeReport s
  | .leadTimeout => Sys2Proof.Machine.execLeadTimeout s
  | .trackingWindowEnd => Sys2Proof.Machine.execTrackingWindowEnd s
  | .stallSample cluster => Sys2Proof.Machine.execStallSample cluster s
  | .frequencySwitchDone cluster => Sys2Proof.Machine.execFrequencySwitchDone cluster s
  | .voltageRampDone cluster => Sys2Proof.Machine.execVoltageRampDone cluster s
  | .droopAlarm cluster => Sys2Proof.Machine.execDroopAlarm cluster s
  | .llcBankGate hdie bank => Sys2Proof.Machine.execLlcBankGate hdie bank s
  | .llcBankReenable hdie bank => Sys2Proof.Machine.execLlcBankReenable hdie bank s
  | .ctxEnable ctx w => Sys2Proof.Machine.execCtxEnable ctx w s
  | .ctxKill ctx => Sys2Proof.Machine.execCtxKill ctx s
  | .ctxKillDone ctx => Sys2Proof.Machine.execCtxKillDone ctx s
  | .ctxHalt ctx on => Sys2Proof.Machine.execCtxHalt ctx on s
  | .gangSwitch cluster => Sys2Proof.Machine.execGangSwitch cluster s
  | .slotRestore cluster slot => Sys2Proof.Machine.execSlotRestore cluster slot s
  | .eccCorrected unit => Sys2Proof.Machine.execEccCorrected unit s
  | .strongReencodeLine bank => Sys2Proof.Machine.execStrongReencodeLine bank s
  | .eccUncorrectable unit => Sys2Proof.Machine.execEccUncorrectable unit s
  | .cleanRefetchDone cluster slot => Sys2Proof.Machine.execCleanRefetchDone cluster slot s
  | .scrubLine => Sys2Proof.Machine.execScrubLine s
  | .eclipseDealStop core => Sys2Proof.Machine.execEclipseDealStop core s
  | .eclipseSlotStart core => Sys2Proof.Machine.execEclipseSlotStart core s
  | .scanPass core => Sys2Proof.Machine.execScanPass core s
  | .scanFail core => Sys2Proof.Machine.execScanFail core s
  | .confqQuery w => Sys2Proof.Machine.execConfqQuery w s
  | .confqClear w => Sys2Proof.Machine.execConfqClear w s
  | .lifecmdGo w => Sys2Proof.Machine.execLifecmdGo w s
  | .lifeSnapshotDone => Sys2Proof.Machine.execLifeSnapshotDone s
  | .hostMemAccess addr data => Sys2Proof.Machine.execHostMemAccess addr data s
  | .bar0Access addr data => Sys2Proof.Machine.execBar0Access addr data s
  | .regselWrite w => Sys2Proof.Machine.execRegselWrite w s
  | .flitReceive port flit => Sys2Proof.Machine.execFlitReceive port flit s
  | .laneShed port => Sys2Proof.Machine.execLaneShed port s
  | .laneRegain port => Sys2Proof.Machine.execLaneRegain port s
  | .portDown port => Sys2Proof.Machine.execPortDown port s
  | .portUp port => Sys2Proof.Machine.execPortUp port s
  | .arm dev gang ctx block => Sys2Proof.Machine.execArm dev gang ctx block s
  | .armOk dev gang => Sys2Proof.Machine.execArmOk dev gang s
  | .armRefuse dev gang => Sys2Proof.Machine.execArmRefuse dev gang s
  | .armTimeout gang => Sys2Proof.Machine.execArmTimeout gang s
  | .disarm dev gang => Sys2Proof.Machine.execDisarm dev gang s
  | .goWaitTimeout dev gang => Sys2Proof.Machine.execGoWaitTimeout dev gang s
  | .go dev gang start => Sys2Proof.Machine.execGo dev gang start s
  | .gangStart dev gang => Sys2Proof.Machine.execGangStart dev gang s
  | .goAck dev gang => Sys2Proof.Machine.execGoAck dev gang s
  | .goTimeout gang => Sys2Proof.Machine.execGoTimeout gang s
  | .gangbreak dev gang => Sys2Proof.Machine.execGangbreak dev gang s
  | .gangDone dev gang status => Sys2Proof.Machine.execGangDone dev gang status s
  | .gangCommitMessage dev gang drop => Sys2Proof.Machine.execGangCommitMessage dev gang drop s
  | .reset => Sys2Proof.Machine.execReset s
  | .bootStageDone => Sys2Proof.Machine.execBootStageDone s
  | .getMeasurements => Sys2Proof.Machine.execGetMeasurements s
  | .keyExchange data => Sys2Proof.Machine.execKeyExchange data s
  | .vendorKeyUpdate data => Sys2Proof.Machine.execVendorKeyUpdate data s
  | .registerWrite addr w => Sys2Proof.Machine.execRegisterWrite addr w s
  | .rbqRefill core => Sys2Proof.Machine.execRbqRefill core s
  | .gcommitAck dev gang => Sys2Proof.Machine.execGcommitAck dev gang s
  | .gcommitAckTimeout gang => Sys2Proof.Machine.execGcommitAckTimeout gang s

end Sys2Proof.Machine
end

