-- ==== Sys2Proof/Machine/Turn.lean ====
section
/-!
DEFINITION. One turn of one agent: a stream's bundle, the array engine's next micro-op, an event, or the passing of time
(R4, R17, R20).
-/
namespace Sys2Proof.Machine

/-- An instruction that a bundle or a routine holds: it runs only there. -/
def fetchedInstr (i : Instr) : Bool :=
  i.slotOpc.isSome || (match i with
    | .pair _ | .strm .. | .strc .. | .lst .. | .swp | .adv | .zero | .waitb .. | .arrb .. | .lp _ | .lpReg _ | .el
    | .ainc .. | .chk _ | .nopm | .retm => true
    | _ => false)

/-! ## The cluster clock (R105, R220, R351, R352, R355) -/

/-- The cluster's clock runs: its die is powered, and no frequency is being switched. -/
def State.clocked (s : State) (cl : Nat) : Bool := cl < 72 && !s.dieGated cl && (s.cluster cl).dvfs.stepSt != 2

/-- The cycle now under way is a gap, of those that follow the stretched ones: nothing issues in it (R355). -/
def Cluster.gap (k : Cluster) : Bool := k.stretch == 0 && k.gaps % 2 == 1

/-- The first queue entry that pops or peeks find without its data: its queue and its number (R27). -/
def Group.lacking (g : Group) : List (Nat × Bool) → List Nat → Option (Nat × Nat)
  | [], _ => none
  | (q, pop) :: rest, popped => match (g.queue q)[popped.countP (· == q)]? with
    | some e => if e.data.isNone then some (q, e.id) else g.lacking rest (if pop then q :: popped else popped)
    | none => none

/-- The buffer numbers of the accesses that a stream frozen with a code waits for (R220): the load that fills a queue entry
or a register, or the access that has yet to issue. A line of code that is not there is no access of a buffer. -/
def State.waitedBufs (s : State) (c : Nat) (g : Group) (access : Bool) (code : Nat) : List (BitVec 6) :=
  let out := (s.cluster (c / 4)).outbound.filter (fun a => a.gid == g.gid)
  match s.bundle c (if access then g.apcNext else g.xpc) with
  | .ok l =>
    let is := ownInstrs access (if access then g.slotA else g.slotX) l
    if code = 1 then match g.lacking (is.flatMap queueUse) [] with
      | some (q, id) => (out.filter (fun a => a.dst == .lq q id)).map (·.buf)
      | none => []
    else if code = 10 then
      let ids := (g.busy.filter (fun b => (is.flatMap aReads).contains b.1)).map (·.2)
      (out.filter (fun a => ids.contains a.id)).map (·.buf)
    else if access && (code == 4 || code == 5 || code == 6) then [g.bufNo]
    else []
  | _ => []

/-- Buffers that a core's front group stalls on in this cycle (R220). -/
def State.stallBufs (s : State) (c : Nat) : List (Nat × BitVec 6) :=
  match s.front c with
  | none => []
  | some g =>
    let t := s.gstatNow c g
    ((s.waitedBufs c g true t.frza.toNat ++ s.waitedBufs c g false t.frzx.toNat).map (fun b => (g.ctx, b))).dedup

/-- A stream of a core's front group is frozen with reason 1, 4 or 5 (R351). -/
def State.stallNow (s : State) (c : Nat) : Bool :=
  (s.front c).any (fun g =>
    let t := s.gstatNow c g
    [t.frza.toNat, t.frzx.toNat].any (fun n => n == 1 || n == 4 || n == 5))

/-- Each stalled buffer's counter rises by one. -/
def State.countStalls (s : State) (l : List (Nat × BitVec 6)) : State :=
  l.foldl (fun s e => s.modCtx e.1 (fun x => { x with stalls := Tab.modify 0 x.stalls e.2.toNat (· + 1) })) s

/-- One cycle of a cluster's clock. -/
def State.cycle (s : State) (cl : Nat) : State :=
  if !s.clocked cl then s
  else
    let cs := (upTo 4).map (4 * cl + ·)
    let stalls := cs.flatMap s.stallBufs
    let stalled := cs.any s.stallNow
    let s := (cs.foldl (fun s c => s.modCore c (fun k => { k with cyc := k.cyc + 1 })) s).countStalls stalls
    s.modCluster cl (fun k =>
      let k := if k.stretch ≠ 0 then { k with stretch := k.stretch - 1 } else { k with gaps := k.gaps - 1 }
      { k with dvfs := { k.dvfs with cycles := k.dvfs.cycles + 1, stalled := k.dvfs.stalled + bool1 stalled } })

/-- The streams and engines of a core may move: its cluster's clock runs, and the cycle is no gap. -/
def State.mayMove (s : State) (c : Nat) : Bool := s.clocked (c / 4) && !(s.cluster (c / 4)).gap

/-- The core whose results in flight, or whose engines, an event advances: a gap holds them (R355). -/
def pacedCore (i : Instr) : Option Nat :=
  match i with
  | .resultLanding c .. => some c
  | .arrayCommandStart c .. => some c
  | .mupldExec c .. => some c
  | .epilogueCommandStart c .. => some c
  | .epilogueRow c .. => some c
  | _ => none

/-! ## What comes in while the frequency is being switched (R353) -/

/-- The cluster into which an event brings something from outside, and what: nothing where it has come in already, or does
not fit. -/
def State.inbound (s : State) (i : Instr) : Option (Nat × Option InItem) :=
  let inside := fun cl => (s.cluster cl).fifo.countP (fun x => match x with
    | .event j _ => decide (j = i)
    | .arrival .. => false)
  let once := fun cl (n : Option Nat) => (cl, if inside cl = 0 then n.map (InItem.event i) else none)
  match i with
  | .loadDataReturn cl id =>
    some (once cl (((s.cluster cl).outbound.find? (fun a => a.id == id && a.done)).map (fun a => (a.pieces.map (·.len)).sum)))
  | .barrierArrival cl n => some (cl, ((s.cluster cl).arriving n).map (fun a => .arrival a.1 a.2.1 a.2.2.1 a.2.2.2))
  | .cellWake cl n => some (once cl (((s.cluster cl).wait[n]?).map (fun _ => 64)))
  | .copyElement cl id =>
    match (s.cluster cl).copy id with
    | some c =>
      if c.sos && !c.dos then none
      else some (cl, if c.started && !c.moved && !c.sos && inside cl < c.sh.total - c.next then some (.event i c.sh.de) else none)
    | none => none
  | .decodeFrame d => (s.decoding d).map (fun x => once x.cluster (some (4096 * (VDesc.of x.desc).spf)))
  | _ => none

/-- While its cluster's frequency is being switched, an event leaves what it brings in the FIFO. -/
def State.collect (s : State) (i : Instr) : Option State :=
  match s.inbound i with
  | some (cl, it) =>
    if (s.cluster cl).dvfs.stepSt ≠ 2 then none
    else some (match it with
      | some it =>
        let t := s.modCluster cl (·.receive it)
        match i with
        | .barrierArrival _ n =>
          if (t.cluster cl).fifo = (s.cluster cl).fifo then t
          else t.modCluster cl (fun k => { k with arrivals := k.arrivals.eraseIdx n })
        | _ => t
      | none => s)
  | none => none

/-! ## Turns -/

/-- What still answers when start-up has failed: CXL.io, which leads to BOOTSTAT alone, the DOE mailbox, and reset (R442). -/
def answersFailed (i : Instr) : Bool :=
  match i with
  | .bar0Access .. | .registerWrite .. | .getMeasurements | .keyExchange _ | .vendorKeyUpdate _ | .reset => true
  | _ => false

/-- One turn; `run` is the meaning of an instruction. -/
def turn (run : Instr → State → Out) (t : Turn) (s : State) : Out :=
  match t with
  | .access c =>
    let s := s.boundary c
    if !s.mayMove c || s.mustStop c true then .next s else issueA run c s
  | .execute c =>
    let s := s.boundary c
    if !s.mayMove c || s.mustStop c false then .next s else issueX run setCsr c s
  | .micro c => if s.mayMove c then microTurn run c s else .next s
  | .event i =>
    if fetchedInstr i || (s.board.stage == 0xFF && !answersFailed i) || (pacedCore i).any (fun c => !s.mayMove c) then .next s
    else match s.collect i with
      | some s => .next s
      | none => run i s
  | .arrives cl => .next (s.arrival cl 0)
  | .cycle cl => .next (s.cycle cl)
  | .pass ns => .next { s with time := s.time + ns }
  | .outside far addr data =>
    .next (if far then { s with far := memPut s.far addr (data.map some) } else { s with host := memPut s.host addr (data.map some) })
  | .farCell line tag eval =>
    .next { s with farTags := Tab.set 0 s.farTags line tag, farEvals := Tab.set {} s.farEvals line (if tag = cEVALUATING then eval else {}) }
  | .decoder n range =>
    .next { s with board := if n = 0 then { s.board with hdm0 := range } else if n = 1 then { s.board with hdm1 := range } else s.board }
  | .certificate => .next s.readCertificate
  | .farPage page answer => .next { s with farPages := Tab.set .there s.farPages page answer }

/-- The next turn: the first of the agenda, else the one that timing brings (R5). -/
def nextTurn (s : State) : Turn × State :=
  match s.agenda with
  | t :: rest => (t, { s with agenda := rest })
  | [] => (Config.turn s.free, { s with free := s.free + 1 })

/-- A group of its own in bank 0 of core 0, standing at address 0, with its first line fetched: the one bundle there is
the syllable `w`. -/
def placeSyllable (w : Word) (s : State) : State :=
  let g : Group := { gid := s.fresh }
  let access := w.getLsbD 62
  let line : FLine := { va := 0, data := some (w.setWidth 512 ||| BitVec.twoPow 512 63) }
  { s with
    fresh := s.fresh + 1
    gov := { s.gov with gated := [] }
    board := { s.board with stage := 5 }
    agenda := [if access then .access 0 else .execute 0]
    cores := Tab.modify {} s.cores 0 (fun k =>
      { k with bank0 := some (if access then g else { g with hist := [0], segNext := false }), front := false, fetch := [line] }) }

/-- A routine under way on core 0's array engine, standing at its one word, the micro-op `w`. -/
def placeMicro (w : BitVec 32) (s : State) : State :=
  let cmd : MCmd := { bank := false, gid := s.fresh, ctx := 0, seq := s.fresh, kind := .mcall 0 0 false false [] }
  { s with
    fresh := s.fresh + 1
    gov := { s.gov with gated := [] }
    board := { s.board with stage := 5 }
    agenda := [.micro 0]
    clusters := Tab.modify {} s.clusters 0 (fun k =>
      { k with words := Tab.set 0 k.words 0 w, routines := Tab.set {} k.routines 0 { start := 0, len := 1, state := 1 } })
    cores := Tab.modify {} s.cores 0 (fun k => { k with mat := { k.mat with run := some { cmd := cmd, rout := 0, pc := 0 } } }) }

end Sys2Proof.Machine
end

