-- ==== Sys2Proof/Machine/Step.lean ====
section
/-!
DEFINITION. One step of the device: one turn of one of its agents, in one of three outcomes.
-/
namespace Sys2Proof.Machine

def step (s : State) : Host.Outcome State Fault Refusal :=
  let (t, s) := nextTurn s
  turn exec t s

/-- `s` with the instruction of a table row's bits where the next step takes it: a syllable as the one bundle of a group
on core 0, the C-dies powered, a micro-op as the next word of a routine on core 0's array engine. -/
def State.withFetchWord (s : State) (nbits w : Nat) : State :=
  if nbits ≤ 32 then placeMicro (BitVec.ofNat 32 w) s else placeSyllable (BitVec.ofNat 64 w) s

end Sys2Proof.Machine
end

