-- ==== Sys2Proof/Laws/Tab.lean ====
section
/-!
SUPPORT. The laws of sparse tables: what a key reads after a write, and that every operation keeps the canonical form.
-/
namespace Sys2Proof

variable {α : Type}

theorem Tab.get_erase_same (d : α) (t : Tab α) (k : Nat) : Tab.get d (Tab.erase t k) k = d := by
  induction t with
  | nil => rfl
  | cons e t ih =>
    obtain ⟨j, x⟩ := e
    by_cases h : j = k <;> simp [Tab.erase, Tab.get, h, ih]

theorem Tab.get_erase_other (d : α) (t : Tab α) {k l : Nat} (h : l ≠ k) :
    Tab.get d (Tab.erase t k) l = Tab.get d t l := by
  induction t with
  | nil => rfl
  | cons e t ih =>
    obtain ⟨j, x⟩ := e
    by_cases hj : j = k
    · have hl : ¬ k = l := fun e => h e.symm
      simp [Tab.erase, Tab.get, hj, ih, hl]
    · simp [Tab.erase, Tab.get, hj, ih]

theorem Tab.get_place_same (d : α) (t : Tab α) (k : Nat) (x : α) (h : ∀ e ∈ t, e.1 ≠ k) :
    Tab.get d (Tab.place t k x) k = x := by
  induction t with
  | nil => simp [Tab.place, Tab.get]
  | cons e t ih =>
    obtain ⟨j, y⟩ := e
    have hj : j ≠ k := h (j, y) (by simp)
    by_cases hk : k < j
    · simp [Tab.place, Tab.get, hk]
    · simp [Tab.place, Tab.get, hk, hj, ih (fun e he => h e (by simp [he]))]

theorem Tab.get_place_other (d : α) (t : Tab α) {k l : Nat} (x : α) (h : l ≠ k) :
    Tab.get d (Tab.place t k x) l = Tab.get d t l := by
  have hk : ¬ k = l := fun e => h e.symm
  induction t with
  | nil => simp [Tab.place, Tab.get, hk]
  | cons e t ih =>
    obtain ⟨j, y⟩ := e
    by_cases hj : k < j <;> simp [Tab.place, Tab.get, hj, hk, ih]

theorem Tab.erase_ne (t : Tab α) (k : Nat) : ∀ e ∈ Tab.erase t k, e.1 ≠ k := by
  induction t with
  | nil => simp [Tab.erase]
  | cons e t ih =>
    obtain ⟨j, x⟩ := e
    by_cases h : j = k
    · simpa [Tab.erase, h] using ih
    · intro e he
      simp only [Tab.erase, h, if_false, List.mem_cons] at he
      rcases he with rfl | he
      · exact h
      · exact ih e he

variable [DecidableEq α]

/-- A key reads what was last written to it. -/
@[simp] theorem Tab.get_set_same (d : α) (t : Tab α) (k : Nat) (x : α) : Tab.get d (Tab.set d t k x) k = x := by
  by_cases h : x = d
  · simp [Tab.set, h, Tab.get_erase_same]
  · simp [Tab.set, h, Tab.get_place_same d _ k x (Tab.erase_ne t k)]

/-- A write leaves every other key alone. -/
theorem Tab.get_set_other (d : α) (t : Tab α) {k l : Nat} (x : α) (h : l ≠ k) :
    Tab.get d (Tab.set d t k x) l = Tab.get d t l := by
  by_cases hx : x = d
  · simp [Tab.set, hx, Tab.get_erase_other d t h]
  · simp [Tab.set, hx, Tab.get_place_other d _ x h, Tab.get_erase_other d t h]

@[simp] theorem Tab.get_modify_same (d : α) (t : Tab α) (k : Nat) (f : α → α) :
    Tab.get d (Tab.modify d t k f) k = f (Tab.get d t k) := Tab.get_set_same ..

theorem Tab.get_modify_other (d : α) (t : Tab α) {k l : Nat} (f : α → α) (h : l ≠ k) :
    Tab.get d (Tab.modify d t k f) l = Tab.get d t l := Tab.get_set_other d t _ h

/-! ## The canonical form -/

/-- The canonical form, as facts about the entries: none holds the default, and the keys rise. -/
theorem Tab.wf_iff (d : α) (t : Tab α) :
    Tab.wf d t = true ↔ (∀ e ∈ t, e.2 ≠ d) ∧ t.Pairwise (fun a b => a.1 < b.1) := by
  induction t with
  | nil => simp [Tab.wf]
  | cons e t ih =>
    obtain ⟨j, x⟩ := e
    cases t with
    | nil => simp [Tab.wf]
    | cons f t =>
      obtain ⟨k, y⟩ := f
      rw [Tab.wf, Bool.and_eq_true, Bool.and_eq_true, ih]
      simp only [decide_eq_true_eq, List.mem_cons, List.pairwise_cons, forall_eq_or_imp]
      constructor
      · rintro ⟨⟨hx, hjk⟩, ⟨hy, hn⟩, hk, hp⟩
        exact ⟨⟨hx, hy, hn⟩, ⟨hjk, fun e he => Nat.lt_trans hjk (hk e he)⟩, hk, hp⟩
      · rintro ⟨⟨hx, hy, hn⟩, ⟨hjk, _⟩, hk, hp⟩
        exact ⟨⟨hx, hjk⟩, ⟨hy, hn⟩, hk, hp⟩

omit [DecidableEq α] in
theorem Tab.erase_eq_filter (t : Tab α) (k : Nat) : Tab.erase t k = t.filter (fun e => !decide (e.1 = k)) := by
  induction t with
  | nil => rfl
  | cons e t ih =>
    obtain ⟨j, x⟩ := e
    by_cases h : j = k <;> simp [Tab.erase, h, ih]

theorem Tab.wf_filter (d : α) {t : Tab α} (p : Nat × α → Bool) (h : Tab.wf d t = true) : Tab.wf d (t.filter p) = true := by
  rw [Tab.wf_iff] at *
  exact ⟨fun e he => h.1 e (List.mem_of_mem_filter he), h.2.filter p⟩

theorem Tab.wf_erase (d : α) {t : Tab α} (k : Nat) (h : Tab.wf d t = true) : Tab.wf d (Tab.erase t k) = true := by
  rw [Tab.erase_eq_filter]
  exact Tab.wf_filter d _ h

omit [DecidableEq α] in
theorem Tab.mem_place (t : Tab α) (k : Nat) (x : α) (e : Nat × α) : e ∈ Tab.place t k x ↔ e = (k, x) ∨ e ∈ t := by
  induction t with
  | nil => simp [Tab.place]
  | cons f t ih =>
    obtain ⟨j, y⟩ := f
    by_cases h : k < j
    · simp [Tab.place, h]
    · simp only [Tab.place, h, if_false, List.mem_cons, ih]
      tauto

theorem Tab.wf_place (d : α) {t : Tab α} {k : Nat} {x : α} (hx : x ≠ d) (hk : ∀ e ∈ t, e.1 ≠ k) (h : Tab.wf d t = true) :
    Tab.wf d (Tab.place t k x) = true := by
  rw [Tab.wf_iff] at *
  refine ⟨fun e he => ?_, ?_⟩
  · rcases (Tab.mem_place t k x e).1 he with rfl | he
    · exact hx
    · exact h.1 e he
  · have hp := h.2
    clear h
    induction t with
    | nil => simp [Tab.place]
    | cons f t ih =>
      obtain ⟨j, y⟩ := f
      rw [List.pairwise_cons] at hp
      have hj : j ≠ k := hk (j, y) (by simp)
      by_cases hlt : k < j
      · rw [Tab.place, if_pos hlt]
        refine List.pairwise_cons.2 ⟨fun e he => ?_, List.pairwise_cons.2 hp⟩
        rcases List.mem_cons.1 he with rfl | he
        · exact hlt
        · exact Nat.lt_trans hlt (hp.1 e he)
      · simp only [Tab.place, hlt, if_false, List.pairwise_cons]
        refine ⟨fun e he => ?_, ih (fun e he => hk e (by simp [he])) hp.2⟩
        rcases (Tab.mem_place t k x e).1 he with rfl | he
        · exact Nat.lt_of_le_of_ne (Nat.le_of_not_lt hlt) hj
        · exact hp.1 e he

/-- A write keeps the canonical form: writing the default removes the entry. -/
theorem Tab.wf_set (d : α) {t : Tab α} (k : Nat) (x : α) (h : Tab.wf d t = true) : Tab.wf d (Tab.set d t k x) = true := by
  by_cases hx : x = d
  · simpa [Tab.set, hx] using Tab.wf_erase d k h
  · simpa [Tab.set, hx] using Tab.wf_place d hx (Tab.erase_ne t k) (Tab.wf_erase d k h)

theorem Tab.wf_modify (d : α) {t : Tab α} (k : Nat) (f : α → α) (h : Tab.wf d t = true) :
    Tab.wf d (Tab.modify d t k f) = true := Tab.wf_set d k _ h

theorem Tab.wf_dropIf (d : α) {t : Tab α} (p : Nat → Bool) (h : Tab.wf d t = true) : Tab.wf d (Tab.dropIf p t) = true :=
  Tab.wf_filter d _ h

@[simp] theorem Tab.wf_nil (d : α) : Tab.wf d ([] : Tab α) = true := rfl

end Sys2Proof
end

