-- ==== Sys2Proof/Laws/State.lean ====
section
/-!
SUPPORT. One lemma per field for each update of the state and of a group, so that no proof unfolds a record update; and what
reaching a unit after an update gives.
-/
namespace Sys2Proof.Machine

/-! ## Fields that an update leaves alone -/

@[simp] theorem State.modCore_time (s : State) (c : Nat) (f : Core → Core) : (s.modCore c f).time = s.time := rfl
@[simp] theorem State.modCore_clusters (s : State) (c : Nat) (f : Core → Core) : (s.modCore c f).clusters = s.clusters := rfl
@[simp] theorem State.modCore_hdies (s : State) (c : Nat) (f : Core → Core) : (s.modCore c f).hdies = s.hdies := rfl
@[simp] theorem State.modCore_mem (s : State) (c : Nat) (f : Core → Core) : (s.modCore c f).mem = s.mem := rfl
@[simp] theorem State.modCore_tags (s : State) (c : Nat) (f : Core → Core) : (s.modCore c f).tags = s.tags := rfl
@[simp] theorem State.modCore_ringStamps (s : State) (c : Nat) (f : Core → Core) : (s.modCore c f).ringStamps = s.ringStamps := rfl
@[simp] theorem State.modCore_host (s : State) (c : Nat) (f : Core → Core) : (s.modCore c f).host = s.host := rfl
@[simp] theorem State.modCore_far (s : State) (c : Nat) (f : Core → Core) : (s.modCore c f).far = s.far := rfl
@[simp] theorem State.modCore_farTags (s : State) (c : Nat) (f : Core → Core) : (s.modCore c f).farTags = s.farTags := rfl
@[simp] theorem State.modCore_farEvals (s : State) (c : Nat) (f : Core → Core) : (s.modCore c f).farEvals = s.farEvals := rfl
@[simp] theorem State.modCore_farPages (s : State) (c : Nat) (f : Core → Core) : (s.modCore c f).farPages = s.farPages := rfl
@[simp] theorem State.modCore_ctxs (s : State) (c : Nat) (f : Core → Core) : (s.modCore c f).ctxs = s.ctxs := rfl
@[simp] theorem State.modCore_tasks (s : State) (c : Nat) (f : Core → Core) : (s.modCore c f).tasks = s.tasks := rfl
@[simp] theorem State.modCore_shares (s : State) (c : Nat) (f : Core → Core) : (s.modCore c f).shares = s.shares := rfl
@[simp] theorem State.modCore_decodes (s : State) (c : Nat) (f : Core → Core) : (s.modCore c f).decodes = s.decodes := rfl
@[simp] theorem State.modCore_gov (s : State) (c : Nat) (f : Core → Core) : (s.modCore c f).gov = s.gov := rfl
@[simp] theorem State.modCore_board (s : State) (c : Nat) (f : Core → Core) : (s.modCore c f).board = s.board := rfl
@[simp] theorem State.modCore_here (s : State) (c : Nat) (f : Core → Core) : (s.modCore c f).here = s.here := rfl
@[simp] theorem State.modCore_agenda (s : State) (c : Nat) (f : Core → Core) : (s.modCore c f).agenda = s.agenda := rfl
@[simp] theorem State.modCore_fresh (s : State) (c : Nat) (f : Core → Core) : (s.modCore c f).fresh = s.fresh := rfl
@[simp] theorem State.modCore_free (s : State) (c : Nat) (f : Core → Core) : (s.modCore c f).free = s.free := rfl

@[simp] theorem State.modCluster_time (s : State) (c : Nat) (f : Cluster → Cluster) : (s.modCluster c f).time = s.time := rfl
@[simp] theorem State.modCluster_cores (s : State) (c : Nat) (f : Cluster → Cluster) : (s.modCluster c f).cores = s.cores := rfl
@[simp] theorem State.modCluster_hdies (s : State) (c : Nat) (f : Cluster → Cluster) : (s.modCluster c f).hdies = s.hdies := rfl
@[simp] theorem State.modCluster_mem (s : State) (c : Nat) (f : Cluster → Cluster) : (s.modCluster c f).mem = s.mem := rfl
@[simp] theorem State.modCluster_tags (s : State) (c : Nat) (f : Cluster → Cluster) : (s.modCluster c f).tags = s.tags := rfl
@[simp] theorem State.modCluster_ringStamps (s : State) (c : Nat) (f : Cluster → Cluster) : (s.modCluster c f).ringStamps = s.ringStamps := rfl
@[simp] theorem State.modCluster_host (s : State) (c : Nat) (f : Cluster → Cluster) : (s.modCluster c f).host = s.host := rfl
@[simp] theorem State.modCluster_far (s : State) (c : Nat) (f : Cluster → Cluster) : (s.modCluster c f).far = s.far := rfl
@[simp] theorem State.modCluster_farTags (s : State) (c : Nat) (f : Cluster → Cluster) : (s.modCluster c f).farTags = s.farTags := rfl
@[simp] theorem State.modCluster_farEvals (s : State) (c : Nat) (f : Cluster → Cluster) : (s.modCluster c f).farEvals = s.farEvals := rfl
@[simp] theorem State.modCluster_farPages (s : State) (c : Nat) (f : Cluster → Cluster) : (s.modCluster c f).farPages = s.farPages := rfl
@[simp] theorem State.modCluster_ctxs (s : State) (c : Nat) (f : Cluster → Cluster) : (s.modCluster c f).ctxs = s.ctxs := rfl
@[simp] theorem State.modCluster_tasks (s : State) (c : Nat) (f : Cluster → Cluster) : (s.modCluster c f).tasks = s.tasks := rfl
@[simp] theorem State.modCluster_shares (s : State) (c : Nat) (f : Cluster → Cluster) : (s.modCluster c f).shares = s.shares := rfl
@[simp] theorem State.modCluster_decodes (s : State) (c : Nat) (f : Cluster → Cluster) : (s.modCluster c f).decodes = s.decodes := rfl
@[simp] theorem State.modCluster_gov (s : State) (c : Nat) (f : Cluster → Cluster) : (s.modCluster c f).gov = s.gov := rfl
@[simp] theorem State.modCluster_board (s : State) (c : Nat) (f : Cluster → Cluster) : (s.modCluster c f).board = s.board := rfl
@[simp] theorem State.modCluster_here (s : State) (c : Nat) (f : Cluster → Cluster) : (s.modCluster c f).here = s.here := rfl
@[simp] theorem State.modCluster_agenda (s : State) (c : Nat) (f : Cluster → Cluster) : (s.modCluster c f).agenda = s.agenda := rfl
@[simp] theorem State.modCluster_fresh (s : State) (c : Nat) (f : Cluster → Cluster) : (s.modCluster c f).fresh = s.fresh := rfl
@[simp] theorem State.modCluster_free (s : State) (c : Nat) (f : Cluster → Cluster) : (s.modCluster c f).free = s.free := rfl

@[simp] theorem State.modHdie_time (s : State) (h : Nat) (f : HDie → HDie) : (s.modHdie h f).time = s.time := rfl
@[simp] theorem State.modHdie_cores (s : State) (h : Nat) (f : HDie → HDie) : (s.modHdie h f).cores = s.cores := rfl
@[simp] theorem State.modHdie_clusters (s : State) (h : Nat) (f : HDie → HDie) : (s.modHdie h f).clusters = s.clusters := rfl
@[simp] theorem State.modHdie_mem (s : State) (h : Nat) (f : HDie → HDie) : (s.modHdie h f).mem = s.mem := rfl
@[simp] theorem State.modHdie_tags (s : State) (h : Nat) (f : HDie → HDie) : (s.modHdie h f).tags = s.tags := rfl
@[simp] theorem State.modHdie_ringStamps (s : State) (h : Nat) (f : HDie → HDie) : (s.modHdie h f).ringStamps = s.ringStamps := rfl
@[simp] theorem State.modHdie_host (s : State) (h : Nat) (f : HDie → HDie) : (s.modHdie h f).host = s.host := rfl
@[simp] theorem State.modHdie_far (s : State) (h : Nat) (f : HDie → HDie) : (s.modHdie h f).far = s.far := rfl
@[simp] theorem State.modHdie_farTags (s : State) (h : Nat) (f : HDie → HDie) : (s.modHdie h f).farTags = s.farTags := rfl
@[simp] theorem State.modHdie_farEvals (s : State) (h : Nat) (f : HDie → HDie) : (s.modHdie h f).farEvals = s.farEvals := rfl
@[simp] theorem State.modHdie_farPages (s : State) (h : Nat) (f : HDie → HDie) : (s.modHdie h f).farPages = s.farPages := rfl
@[simp] theorem State.modHdie_ctxs (s : State) (h : Nat) (f : HDie → HDie) : (s.modHdie h f).ctxs = s.ctxs := rfl
@[simp] theorem State.modHdie_tasks (s : State) (h : Nat) (f : HDie → HDie) : (s.modHdie h f).tasks = s.tasks := rfl
@[simp] theorem State.modHdie_shares (s : State) (h : Nat) (f : HDie → HDie) : (s.modHdie h f).shares = s.shares := rfl
@[simp] theorem State.modHdie_decodes (s : State) (h : Nat) (f : HDie → HDie) : (s.modHdie h f).decodes = s.decodes := rfl
@[simp] theorem State.modHdie_gov (s : State) (h : Nat) (f : HDie → HDie) : (s.modHdie h f).gov = s.gov := rfl
@[simp] theorem State.modHdie_board (s : State) (h : Nat) (f : HDie → HDie) : (s.modHdie h f).board = s.board := rfl
@[simp] theorem State.modHdie_here (s : State) (h : Nat) (f : HDie → HDie) : (s.modHdie h f).here = s.here := rfl
@[simp] theorem State.modHdie_agenda (s : State) (h : Nat) (f : HDie → HDie) : (s.modHdie h f).agenda = s.agenda := rfl
@[simp] theorem State.modHdie_fresh (s : State) (h : Nat) (f : HDie → HDie) : (s.modHdie h f).fresh = s.fresh := rfl
@[simp] theorem State.modHdie_free (s : State) (h : Nat) (f : HDie → HDie) : (s.modHdie h f).free = s.free := rfl

@[simp] theorem State.modCtx_time (s : State) (x : Nat) (f : Ctx → Ctx) : (s.modCtx x f).time = s.time := rfl
@[simp] theorem State.modCtx_cores (s : State) (x : Nat) (f : Ctx → Ctx) : (s.modCtx x f).cores = s.cores := rfl
@[simp] theorem State.modCtx_clusters (s : State) (x : Nat) (f : Ctx → Ctx) : (s.modCtx x f).clusters = s.clusters := rfl
@[simp] theorem State.modCtx_hdies (s : State) (x : Nat) (f : Ctx → Ctx) : (s.modCtx x f).hdies = s.hdies := rfl
@[simp] theorem State.modCtx_mem (s : State) (x : Nat) (f : Ctx → Ctx) : (s.modCtx x f).mem = s.mem := rfl
@[simp] theorem State.modCtx_tags (s : State) (x : Nat) (f : Ctx → Ctx) : (s.modCtx x f).tags = s.tags := rfl
@[simp] theorem State.modCtx_ringStamps (s : State) (x : Nat) (f : Ctx → Ctx) : (s.modCtx x f).ringStamps = s.ringStamps := rfl
@[simp] theorem State.modCtx_host (s : State) (x : Nat) (f : Ctx → Ctx) : (s.modCtx x f).host = s.host := rfl
@[simp] theorem State.modCtx_far (s : State) (x : Nat) (f : Ctx → Ctx) : (s.modCtx x f).far = s.far := rfl
@[simp] theorem State.modCtx_farTags (s : State) (x : Nat) (f : Ctx → Ctx) : (s.modCtx x f).farTags = s.farTags := rfl
@[simp] theorem State.modCtx_farEvals (s : State) (x : Nat) (f : Ctx → Ctx) : (s.modCtx x f).farEvals = s.farEvals := rfl
@[simp] theorem State.modCtx_farPages (s : State) (x : Nat) (f : Ctx → Ctx) : (s.modCtx x f).farPages = s.farPages := rfl
@[simp] theorem State.modCtx_tasks (s : State) (x : Nat) (f : Ctx → Ctx) : (s.modCtx x f).tasks = s.tasks := rfl
@[simp] theorem State.modCtx_shares (s : State) (x : Nat) (f : Ctx → Ctx) : (s.modCtx x f).shares = s.shares := rfl
@[simp] theorem State.modCtx_decodes (s : State) (x : Nat) (f : Ctx → Ctx) : (s.modCtx x f).decodes = s.decodes := rfl
@[simp] theorem State.modCtx_gov (s : State) (x : Nat) (f : Ctx → Ctx) : (s.modCtx x f).gov = s.gov := rfl
@[simp] theorem State.modCtx_board (s : State) (x : Nat) (f : Ctx → Ctx) : (s.modCtx x f).board = s.board := rfl
@[simp] theorem State.modCtx_here (s : State) (x : Nat) (f : Ctx → Ctx) : (s.modCtx x f).here = s.here := rfl
@[simp] theorem State.modCtx_agenda (s : State) (x : Nat) (f : Ctx → Ctx) : (s.modCtx x f).agenda = s.agenda := rfl
@[simp] theorem State.modCtx_fresh (s : State) (x : Nat) (f : Ctx → Ctx) : (s.modCtx x f).fresh = s.fresh := rfl
@[simp] theorem State.modCtx_free (s : State) (x : Nat) (f : Ctx → Ctx) : (s.modCtx x f).free = s.free := rfl

@[simp] theorem State.modShare_time (s : State) (i : Nat) (f : Share → Share) : (s.modShare i f).time = s.time := rfl
@[simp] theorem State.modShare_cores (s : State) (i : Nat) (f : Share → Share) : (s.modShare i f).cores = s.cores := rfl
@[simp] theorem State.modShare_clusters (s : State) (i : Nat) (f : Share → Share) : (s.modShare i f).clusters = s.clusters := rfl
@[simp] theorem State.modShare_hdies (s : State) (i : Nat) (f : Share → Share) : (s.modShare i f).hdies = s.hdies := rfl
@[simp] theorem State.modShare_mem (s : State) (i : Nat) (f : Share → Share) : (s.modShare i f).mem = s.mem := rfl
@[simp] theorem State.modShare_tags (s : State) (i : Nat) (f : Share → Share) : (s.modShare i f).tags = s.tags := rfl
@[simp] theorem State.modShare_ringStamps (s : State) (i : Nat) (f : Share → Share) : (s.modShare i f).ringStamps = s.ringStamps := rfl
@[simp] theorem State.modShare_host (s : State) (i : Nat) (f : Share → Share) : (s.modShare i f).host = s.host := rfl
@[simp] theorem State.modShare_far (s : State) (i : Nat) (f : Share → Share) : (s.modShare i f).far = s.far := rfl
@[simp] theorem State.modShare_farTags (s : State) (i : Nat) (f : Share → Share) : (s.modShare i f).farTags = s.farTags := rfl
@[simp] theorem State.modShare_farEvals (s : State) (i : Nat) (f : Share → Share) : (s.modShare i f).farEvals = s.farEvals := rfl
@[simp] theorem State.modShare_farPages (s : State) (i : Nat) (f : Share → Share) : (s.modShare i f).farPages = s.farPages := rfl
@[simp] theorem State.modShare_ctxs (s : State) (i : Nat) (f : Share → Share) : (s.modShare i f).ctxs = s.ctxs := rfl
@[simp] theorem State.modShare_tasks (s : State) (i : Nat) (f : Share → Share) : (s.modShare i f).tasks = s.tasks := rfl
@[simp] theorem State.modShare_decodes (s : State) (i : Nat) (f : Share → Share) : (s.modShare i f).decodes = s.decodes := rfl
@[simp] theorem State.modShare_gov (s : State) (i : Nat) (f : Share → Share) : (s.modShare i f).gov = s.gov := rfl
@[simp] theorem State.modShare_board (s : State) (i : Nat) (f : Share → Share) : (s.modShare i f).board = s.board := rfl
@[simp] theorem State.modShare_here (s : State) (i : Nat) (f : Share → Share) : (s.modShare i f).here = s.here := rfl
@[simp] theorem State.modShare_agenda (s : State) (i : Nat) (f : Share → Share) : (s.modShare i f).agenda = s.agenda := rfl
@[simp] theorem State.modShare_fresh (s : State) (i : Nat) (f : Share → Share) : (s.modShare i f).fresh = s.fresh := rfl
@[simp] theorem State.modShare_free (s : State) (i : Nat) (f : Share → Share) : (s.modShare i f).free = s.free := rfl

@[simp] theorem State.modTask_time (s : State) (i : Nat) (f : Task → Task) : (s.modTask i f).time = s.time := rfl
@[simp] theorem State.modTask_cores (s : State) (i : Nat) (f : Task → Task) : (s.modTask i f).cores = s.cores := rfl
@[simp] theorem State.modTask_clusters (s : State) (i : Nat) (f : Task → Task) : (s.modTask i f).clusters = s.clusters := rfl
@[simp] theorem State.modTask_hdies (s : State) (i : Nat) (f : Task → Task) : (s.modTask i f).hdies = s.hdies := rfl
@[simp] theorem State.modTask_mem (s : State) (i : Nat) (f : Task → Task) : (s.modTask i f).mem = s.mem := rfl
@[simp] theorem State.modTask_tags (s : State) (i : Nat) (f : Task → Task) : (s.modTask i f).tags = s.tags := rfl
@[simp] theorem State.modTask_ringStamps (s : State) (i : Nat) (f : Task → Task) : (s.modTask i f).ringStamps = s.ringStamps := rfl
@[simp] theorem State.modTask_host (s : State) (i : Nat) (f : Task → Task) : (s.modTask i f).host = s.host := rfl
@[simp] theorem State.modTask_far (s : State) (i : Nat) (f : Task → Task) : (s.modTask i f).far = s.far := rfl
@[simp] theorem State.modTask_farTags (s : State) (i : Nat) (f : Task → Task) : (s.modTask i f).farTags = s.farTags := rfl
@[simp] theorem State.modTask_farEvals (s : State) (i : Nat) (f : Task → Task) : (s.modTask i f).farEvals = s.farEvals := rfl
@[simp] theorem State.modTask_farPages (s : State) (i : Nat) (f : Task → Task) : (s.modTask i f).farPages = s.farPages := rfl
@[simp] theorem State.modTask_ctxs (s : State) (i : Nat) (f : Task → Task) : (s.modTask i f).ctxs = s.ctxs := rfl
@[simp] theorem State.modTask_shares (s : State) (i : Nat) (f : Task → Task) : (s.modTask i f).shares = s.shares := rfl
@[simp] theorem State.modTask_decodes (s : State) (i : Nat) (f : Task → Task) : (s.modTask i f).decodes = s.decodes := rfl
@[simp] theorem State.modTask_gov (s : State) (i : Nat) (f : Task → Task) : (s.modTask i f).gov = s.gov := rfl
@[simp] theorem State.modTask_board (s : State) (i : Nat) (f : Task → Task) : (s.modTask i f).board = s.board := rfl
@[simp] theorem State.modTask_here (s : State) (i : Nat) (f : Task → Task) : (s.modTask i f).here = s.here := rfl
@[simp] theorem State.modTask_agenda (s : State) (i : Nat) (f : Task → Task) : (s.modTask i f).agenda = s.agenda := rfl
@[simp] theorem State.modTask_fresh (s : State) (i : Nat) (f : Task → Task) : (s.modTask i f).fresh = s.fresh := rfl
@[simp] theorem State.modTask_free (s : State) (i : Nat) (f : Task → Task) : (s.modTask i f).free = s.free := rfl

@[simp] theorem State.modMeta_time (s : State) (l : Nat) (f : LineMeta → LineMeta) : (s.modMeta l f).time = s.time := rfl
@[simp] theorem State.modMeta_cores (s : State) (l : Nat) (f : LineMeta → LineMeta) : (s.modMeta l f).cores = s.cores := rfl
@[simp] theorem State.modMeta_clusters (s : State) (l : Nat) (f : LineMeta → LineMeta) : (s.modMeta l f).clusters = s.clusters := rfl
@[simp] theorem State.modMeta_hdies (s : State) (l : Nat) (f : LineMeta → LineMeta) : (s.modMeta l f).hdies = s.hdies := rfl
@[simp] theorem State.modMeta_mem (s : State) (l : Nat) (f : LineMeta → LineMeta) : (s.modMeta l f).mem = s.mem := rfl
@[simp] theorem State.modMeta_ringStamps (s : State) (l : Nat) (f : LineMeta → LineMeta) : (s.modMeta l f).ringStamps = s.ringStamps := rfl
@[simp] theorem State.modMeta_host (s : State) (l : Nat) (f : LineMeta → LineMeta) : (s.modMeta l f).host = s.host := rfl
@[simp] theorem State.modMeta_far (s : State) (l : Nat) (f : LineMeta → LineMeta) : (s.modMeta l f).far = s.far := rfl
@[simp] theorem State.modMeta_farTags (s : State) (l : Nat) (f : LineMeta → LineMeta) : (s.modMeta l f).farTags = s.farTags := rfl
@[simp] theorem State.modMeta_farEvals (s : State) (l : Nat) (f : LineMeta → LineMeta) : (s.modMeta l f).farEvals = s.farEvals := rfl
@[simp] theorem State.modMeta_farPages (s : State) (l : Nat) (f : LineMeta → LineMeta) : (s.modMeta l f).farPages = s.farPages := rfl
@[simp] theorem State.modMeta_ctxs (s : State) (l : Nat) (f : LineMeta → LineMeta) : (s.modMeta l f).ctxs = s.ctxs := rfl
@[simp] theorem State.modMeta_tasks (s : State) (l : Nat) (f : LineMeta → LineMeta) : (s.modMeta l f).tasks = s.tasks := rfl
@[simp] theorem State.modMeta_shares (s : State) (l : Nat) (f : LineMeta → LineMeta) : (s.modMeta l f).shares = s.shares := rfl
@[simp] theorem State.modMeta_decodes (s : State) (l : Nat) (f : LineMeta → LineMeta) : (s.modMeta l f).decodes = s.decodes := rfl
@[simp] theorem State.modMeta_gov (s : State) (l : Nat) (f : LineMeta → LineMeta) : (s.modMeta l f).gov = s.gov := rfl
@[simp] theorem State.modMeta_board (s : State) (l : Nat) (f : LineMeta → LineMeta) : (s.modMeta l f).board = s.board := rfl
@[simp] theorem State.modMeta_here (s : State) (l : Nat) (f : LineMeta → LineMeta) : (s.modMeta l f).here = s.here := rfl
@[simp] theorem State.modMeta_agenda (s : State) (l : Nat) (f : LineMeta → LineMeta) : (s.modMeta l f).agenda = s.agenda := rfl
@[simp] theorem State.modMeta_fresh (s : State) (l : Nat) (f : LineMeta → LineMeta) : (s.modMeta l f).fresh = s.fresh := rfl
@[simp] theorem State.modMeta_free (s : State) (l : Nat) (f : LineMeta → LineMeta) : (s.modMeta l f).free = s.free := rfl

@[simp] theorem State.setBank_time (s : State) (c : Nat) (b : Bool) (g : Option Group) : (s.setBank c b g).time = s.time := rfl
@[simp] theorem State.setBank_clusters (s : State) (c : Nat) (b : Bool) (g : Option Group) : (s.setBank c b g).clusters = s.clusters := rfl
@[simp] theorem State.setBank_hdies (s : State) (c : Nat) (b : Bool) (g : Option Group) : (s.setBank c b g).hdies = s.hdies := rfl
@[simp] theorem State.setBank_mem (s : State) (c : Nat) (b : Bool) (g : Option Group) : (s.setBank c b g).mem = s.mem := rfl
@[simp] theorem State.setBank_tags (s : State) (c : Nat) (b : Bool) (g : Option Group) : (s.setBank c b g).tags = s.tags := rfl
@[simp] theorem State.setBank_ringStamps (s : State) (c : Nat) (b : Bool) (g : Option Group) : (s.setBank c b g).ringStamps = s.ringStamps := rfl
@[simp] theorem State.setBank_host (s : State) (c : Nat) (b : Bool) (g : Option Group) : (s.setBank c b g).host = s.host := rfl
@[simp] theorem State.setBank_far (s : State) (c : Nat) (b : Bool) (g : Option Group) : (s.setBank c b g).far = s.far := rfl
@[simp] theorem State.setBank_farTags (s : State) (c : Nat) (b : Bool) (g : Option Group) : (s.setBank c b g).farTags = s.farTags := rfl
@[simp] theorem State.setBank_farEvals (s : State) (c : Nat) (b : Bool) (g : Option Group) : (s.setBank c b g).farEvals = s.farEvals := rfl
@[simp] theorem State.setBank_farPages (s : State) (c : Nat) (b : Bool) (g : Option Group) : (s.setBank c b g).farPages = s.farPages := rfl
@[simp] theorem State.setBank_ctxs (s : State) (c : Nat) (b : Bool) (g : Option Group) : (s.setBank c b g).ctxs = s.ctxs := rfl
@[simp] theorem State.setBank_tasks (s : State) (c : Nat) (b : Bool) (g : Option Group) : (s.setBank c b g).tasks = s.tasks := rfl
@[simp] theorem State.setBank_shares (s : State) (c : Nat) (b : Bool) (g : Option Group) : (s.setBank c b g).shares = s.shares := rfl
@[simp] theorem State.setBank_decodes (s : State) (c : Nat) (b : Bool) (g : Option Group) : (s.setBank c b g).decodes = s.decodes := rfl
@[simp] theorem State.setBank_gov (s : State) (c : Nat) (b : Bool) (g : Option Group) : (s.setBank c b g).gov = s.gov := rfl
@[simp] theorem State.setBank_board (s : State) (c : Nat) (b : Bool) (g : Option Group) : (s.setBank c b g).board = s.board := rfl
@[simp] theorem State.setBank_here (s : State) (c : Nat) (b : Bool) (g : Option Group) : (s.setBank c b g).here = s.here := rfl
@[simp] theorem State.setBank_agenda (s : State) (c : Nat) (b : Bool) (g : Option Group) : (s.setBank c b g).agenda = s.agenda := rfl
@[simp] theorem State.setBank_fresh (s : State) (c : Nat) (b : Bool) (g : Option Group) : (s.setBank c b g).fresh = s.fresh := rfl
@[simp] theorem State.setBank_free (s : State) (c : Nat) (b : Bool) (g : Option Group) : (s.setBank c b g).free = s.free := rfl

@[simp] theorem State.modBank_time (s : State) (c : Nat) (b : Bool) (f : Group → Group) : (s.modBank c b f).time = s.time := rfl
@[simp] theorem State.modBank_clusters (s : State) (c : Nat) (b : Bool) (f : Group → Group) : (s.modBank c b f).clusters = s.clusters := rfl
@[simp] theorem State.modBank_hdies (s : State) (c : Nat) (b : Bool) (f : Group → Group) : (s.modBank c b f).hdies = s.hdies := rfl
@[simp] theorem State.modBank_mem (s : State) (c : Nat) (b : Bool) (f : Group → Group) : (s.modBank c b f).mem = s.mem := rfl
@[simp] theorem State.modBank_tags (s : State) (c : Nat) (b : Bool) (f : Group → Group) : (s.modBank c b f).tags = s.tags := rfl
@[simp] theorem State.modBank_ringStamps (s : State) (c : Nat) (b : Bool) (f : Group → Group) : (s.modBank c b f).ringStamps = s.ringStamps := rfl
@[simp] theorem State.modBank_host (s : State) (c : Nat) (b : Bool) (f : Group → Group) : (s.modBank c b f).host = s.host := rfl
@[simp] theorem State.modBank_far (s : State) (c : Nat) (b : Bool) (f : Group → Group) : (s.modBank c b f).far = s.far := rfl
@[simp] theorem State.modBank_farTags (s : State) (c : Nat) (b : Bool) (f : Group → Group) : (s.modBank c b f).farTags = s.farTags := rfl
@[simp] theorem State.modBank_farEvals (s : State) (c : Nat) (b : Bool) (f : Group → Group) : (s.modBank c b f).farEvals = s.farEvals := rfl
@[simp] theorem State.modBank_farPages (s : State) (c : Nat) (b : Bool) (f : Group → Group) : (s.modBank c b f).farPages = s.farPages := rfl
@[simp] theorem State.modBank_ctxs (s : State) (c : Nat) (b : Bool) (f : Group → Group) : (s.modBank c b f).ctxs = s.ctxs := rfl
@[simp] theorem State.modBank_tasks (s : State) (c : Nat) (b : Bool) (f : Group → Group) : (s.modBank c b f).tasks = s.tasks := rfl
@[simp] theorem State.modBank_shares (s : State) (c : Nat) (b : Bool) (f : Group → Group) : (s.modBank c b f).shares = s.shares := rfl
@[simp] theorem State.modBank_decodes (s : State) (c : Nat) (b : Bool) (f : Group → Group) : (s.modBank c b f).decodes = s.decodes := rfl
@[simp] theorem State.modBank_gov (s : State) (c : Nat) (b : Bool) (f : Group → Group) : (s.modBank c b f).gov = s.gov := rfl
@[simp] theorem State.modBank_board (s : State) (c : Nat) (b : Bool) (f : Group → Group) : (s.modBank c b f).board = s.board := rfl
@[simp] theorem State.modBank_here (s : State) (c : Nat) (b : Bool) (f : Group → Group) : (s.modBank c b f).here = s.here := rfl
@[simp] theorem State.modBank_agenda (s : State) (c : Nat) (b : Bool) (f : Group → Group) : (s.modBank c b f).agenda = s.agenda := rfl
@[simp] theorem State.modBank_fresh (s : State) (c : Nat) (b : Bool) (f : Group → Group) : (s.modBank c b f).fresh = s.fresh := rfl
@[simp] theorem State.modBank_free (s : State) (c : Nat) (b : Bool) (f : Group → Group) : (s.modBank c b f).free = s.free := rfl

@[simp] theorem State.setCached_time (s : State) (l : Nat) (x : Option LLine) : (s.setCached l x).time = s.time := rfl
@[simp] theorem State.setCached_cores (s : State) (l : Nat) (x : Option LLine) : (s.setCached l x).cores = s.cores := rfl
@[simp] theorem State.setCached_clusters (s : State) (l : Nat) (x : Option LLine) : (s.setCached l x).clusters = s.clusters := rfl
@[simp] theorem State.setCached_mem (s : State) (l : Nat) (x : Option LLine) : (s.setCached l x).mem = s.mem := rfl
@[simp] theorem State.setCached_tags (s : State) (l : Nat) (x : Option LLine) : (s.setCached l x).tags = s.tags := rfl
@[simp] theorem State.setCached_ringStamps (s : State) (l : Nat) (x : Option LLine) : (s.setCached l x).ringStamps = s.ringStamps := rfl
@[simp] theorem State.setCached_host (s : State) (l : Nat) (x : Option LLine) : (s.setCached l x).host = s.host := rfl
@[simp] theorem State.setCached_far (s : State) (l : Nat) (x : Option LLine) : (s.setCached l x).far = s.far := rfl
@[simp] theorem State.setCached_farTags (s : State) (l : Nat) (x : Option LLine) : (s.setCached l x).farTags = s.farTags := rfl
@[simp] theorem State.setCached_farEvals (s : State) (l : Nat) (x : Option LLine) : (s.setCached l x).farEvals = s.farEvals := rfl
@[simp] theorem State.setCached_farPages (s : State) (l : Nat) (x : Option LLine) : (s.setCached l x).farPages = s.farPages := rfl
@[simp] theorem State.setCached_ctxs (s : State) (l : Nat) (x : Option LLine) : (s.setCached l x).ctxs = s.ctxs := rfl
@[simp] theorem State.setCached_tasks (s : State) (l : Nat) (x : Option LLine) : (s.setCached l x).tasks = s.tasks := rfl
@[simp] theorem State.setCached_shares (s : State) (l : Nat) (x : Option LLine) : (s.setCached l x).shares = s.shares := rfl
@[simp] theorem State.setCached_decodes (s : State) (l : Nat) (x : Option LLine) : (s.setCached l x).decodes = s.decodes := rfl
@[simp] theorem State.setCached_gov (s : State) (l : Nat) (x : Option LLine) : (s.setCached l x).gov = s.gov := rfl
@[simp] theorem State.setCached_board (s : State) (l : Nat) (x : Option LLine) : (s.setCached l x).board = s.board := rfl
@[simp] theorem State.setCached_here (s : State) (l : Nat) (x : Option LLine) : (s.setCached l x).here = s.here := rfl
@[simp] theorem State.setCached_agenda (s : State) (l : Nat) (x : Option LLine) : (s.setCached l x).agenda = s.agenda := rfl
@[simp] theorem State.setCached_fresh (s : State) (l : Nat) (x : Option LLine) : (s.setCached l x).fresh = s.fresh := rfl
@[simp] theorem State.setCached_free (s : State) (l : Nat) (x : Option LLine) : (s.setCached l x).free = s.free := rfl

@[simp] theorem State.osPut_time (s : State) (c a : Nat) (bs : List (Option Byte)) : (s.osPut c a bs).time = s.time := rfl
@[simp] theorem State.osPut_cores (s : State) (c a : Nat) (bs : List (Option Byte)) : (s.osPut c a bs).cores = s.cores := rfl
@[simp] theorem State.osPut_hdies (s : State) (c a : Nat) (bs : List (Option Byte)) : (s.osPut c a bs).hdies = s.hdies := rfl
@[simp] theorem State.osPut_mem (s : State) (c a : Nat) (bs : List (Option Byte)) : (s.osPut c a bs).mem = s.mem := rfl
@[simp] theorem State.osPut_tags (s : State) (c a : Nat) (bs : List (Option Byte)) : (s.osPut c a bs).tags = s.tags := rfl
@[simp] theorem State.osPut_ringStamps (s : State) (c a : Nat) (bs : List (Option Byte)) : (s.osPut c a bs).ringStamps = s.ringStamps := rfl
@[simp] theorem State.osPut_host (s : State) (c a : Nat) (bs : List (Option Byte)) : (s.osPut c a bs).host = s.host := rfl
@[simp] theorem State.osPut_far (s : State) (c a : Nat) (bs : List (Option Byte)) : (s.osPut c a bs).far = s.far := rfl
@[simp] theorem State.osPut_farTags (s : State) (c a : Nat) (bs : List (Option Byte)) : (s.osPut c a bs).farTags = s.farTags := rfl
@[simp] theorem State.osPut_farEvals (s : State) (c a : Nat) (bs : List (Option Byte)) : (s.osPut c a bs).farEvals = s.farEvals := rfl
@[simp] theorem State.osPut_farPages (s : State) (c a : Nat) (bs : List (Option Byte)) : (s.osPut c a bs).farPages = s.farPages := rfl
@[simp] theorem State.osPut_ctxs (s : State) (c a : Nat) (bs : List (Option Byte)) : (s.osPut c a bs).ctxs = s.ctxs := rfl
@[simp] theorem State.osPut_tasks (s : State) (c a : Nat) (bs : List (Option Byte)) : (s.osPut c a bs).tasks = s.tasks := rfl
@[simp] theorem State.osPut_shares (s : State) (c a : Nat) (bs : List (Option Byte)) : (s.osPut c a bs).shares = s.shares := rfl
@[simp] theorem State.osPut_decodes (s : State) (c a : Nat) (bs : List (Option Byte)) : (s.osPut c a bs).decodes = s.decodes := rfl
@[simp] theorem State.osPut_gov (s : State) (c a : Nat) (bs : List (Option Byte)) : (s.osPut c a bs).gov = s.gov := rfl
@[simp] theorem State.osPut_board (s : State) (c a : Nat) (bs : List (Option Byte)) : (s.osPut c a bs).board = s.board := rfl
@[simp] theorem State.osPut_here (s : State) (c a : Nat) (bs : List (Option Byte)) : (s.osPut c a bs).here = s.here := rfl
@[simp] theorem State.osPut_agenda (s : State) (c a : Nat) (bs : List (Option Byte)) : (s.osPut c a bs).agenda = s.agenda := rfl
@[simp] theorem State.osPut_fresh (s : State) (c a : Nat) (bs : List (Option Byte)) : (s.osPut c a bs).fresh = s.fresh := rfl
@[simp] theorem State.osPut_free (s : State) (c a : Nat) (bs : List (Option Byte)) : (s.osPut c a bs).free = s.free := rfl

@[simp] theorem State.upd_time (f : Group → Group) (s : State) : (s.upd f).time = s.time := rfl
@[simp] theorem State.upd_clusters (f : Group → Group) (s : State) : (s.upd f).clusters = s.clusters := rfl
@[simp] theorem State.upd_hdies (f : Group → Group) (s : State) : (s.upd f).hdies = s.hdies := rfl
@[simp] theorem State.upd_mem (f : Group → Group) (s : State) : (s.upd f).mem = s.mem := rfl
@[simp] theorem State.upd_tags (f : Group → Group) (s : State) : (s.upd f).tags = s.tags := rfl
@[simp] theorem State.upd_ringStamps (f : Group → Group) (s : State) : (s.upd f).ringStamps = s.ringStamps := rfl
@[simp] theorem State.upd_host (f : Group → Group) (s : State) : (s.upd f).host = s.host := rfl
@[simp] theorem State.upd_far (f : Group → Group) (s : State) : (s.upd f).far = s.far := rfl
@[simp] theorem State.upd_farTags (f : Group → Group) (s : State) : (s.upd f).farTags = s.farTags := rfl
@[simp] theorem State.upd_farEvals (f : Group → Group) (s : State) : (s.upd f).farEvals = s.farEvals := rfl
@[simp] theorem State.upd_farPages (f : Group → Group) (s : State) : (s.upd f).farPages = s.farPages := rfl
@[simp] theorem State.upd_ctxs (f : Group → Group) (s : State) : (s.upd f).ctxs = s.ctxs := rfl
@[simp] theorem State.upd_tasks (f : Group → Group) (s : State) : (s.upd f).tasks = s.tasks := rfl
@[simp] theorem State.upd_shares (f : Group → Group) (s : State) : (s.upd f).shares = s.shares := rfl
@[simp] theorem State.upd_decodes (f : Group → Group) (s : State) : (s.upd f).decodes = s.decodes := rfl
@[simp] theorem State.upd_gov (f : Group → Group) (s : State) : (s.upd f).gov = s.gov := rfl
@[simp] theorem State.upd_board (f : Group → Group) (s : State) : (s.upd f).board = s.board := rfl
@[simp] theorem State.upd_here (f : Group → Group) (s : State) : (s.upd f).here = s.here := rfl
@[simp] theorem State.upd_agenda (f : Group → Group) (s : State) : (s.upd f).agenda = s.agenda := rfl
@[simp] theorem State.upd_fresh (f : Group → Group) (s : State) : (s.upd f).fresh = s.fresh := rfl
@[simp] theorem State.upd_free (f : Group → Group) (s : State) : (s.upd f).free = s.free := rfl

/-! ## Units after an update -/

@[simp] theorem State.core_modCore_same (s : State) (c : Nat) (f : Core → Core) : (s.modCore c f).core c = f (s.core c) :=
  Tab.get_modify_same ..

theorem State.core_modCore_other (s : State) {c d : Nat} (f : Core → Core) (h : d ≠ c) : (s.modCore c f).core d = s.core d :=
  Tab.get_modify_other _ _ _ h

@[simp] theorem State.cluster_modCluster_same (s : State) (c : Nat) (f : Cluster → Cluster) :
    (s.modCluster c f).cluster c = f (s.cluster c) := Tab.get_modify_same ..

theorem State.cluster_modCluster_other (s : State) {c d : Nat} (f : Cluster → Cluster) (h : d ≠ c) :
    (s.modCluster c f).cluster d = s.cluster d := Tab.get_modify_other _ _ _ h

@[simp] theorem State.hdie_modHdie_same (s : State) (c : Nat) (f : HDie → HDie) : (s.modHdie c f).hdie c = f (s.hdie c) :=
  Tab.get_modify_same ..

@[simp] theorem State.ctx_modCtx_same (s : State) (c : Nat) (f : Ctx → Ctx) : (s.modCtx c f).ctx c = f (s.ctx c) :=
  Tab.get_modify_same ..

theorem State.ctx_modCtx_other (s : State) {c d : Nat} (f : Ctx → Ctx) (h : d ≠ c) : (s.modCtx c f).ctx d = s.ctx d :=
  Tab.get_modify_other _ _ _ h

@[simp] theorem Core.setBank_front (k : Core) (b : Bool) (g : Option Group) : (k.setBank b g).front = k.front := by
  cases b <;> rfl

@[simp] theorem Core.bank_setBank_same (k : Core) (b : Bool) (g : Option Group) : (k.setBank b g).bank b = g := by
  cases b <;> rfl

theorem Core.bank_setBank_other (k : Core) (b : Bool) (g : Option Group) : (k.setBank b g).bank (!b) = k.bank (!b) := by
  cases b <;> rfl

theorem State.core_upd_other (f : Group → Group) (s : State) {c : Nat} (h : c ≠ s.here.core) : (s.upd f).core c = s.core c :=
  s.core_modCore_other _ h

/-- The front group of the acting core after an update of it. -/
@[simp] theorem State.front_upd (f : Group → Group) (s : State) :
    (s.upd f).front s.here.core = (s.front s.here.core).map f := by
  simp [State.upd, State.modBank, State.front, State.bank]

/-- The acting group after an update of it, when there is one. -/
theorem State.me_upd (f : Group → Group) (s : State) (h : (s.front s.here.core).isSome) : (s.upd f).me = f s.me := by
  obtain ⟨g, hg⟩ := Option.isSome_iff_exists.1 h
  simp [State.me, hg]

/-- Without a front group an update of it changes no group. -/
theorem State.me_upd_none (f : Group → Group) (s : State) (h : s.front s.here.core = none) : (s.upd f).me = {} := by
  simp [State.me, h]

/-! ## Fields of a group that an update leaves alone -/

@[simp] theorem Group.launch_gid (g : Group) (f : Flight) : (g.launch f).gid = g.gid := rfl
@[simp] theorem Group.launch_ctx (g : Group) (f : Flight) : (g.launch f).ctx = g.ctx := rfl
@[simp] theorem Group.launch_share (g : Group) (f : Flight) : (g.launch f).share = g.share := rfl
@[simp] theorem Group.launch_step (g : Group) (f : Flight) : (g.launch f).step = g.step := rfl
@[simp] theorem Group.launch_origin (g : Group) (f : Flight) : (g.launch f).origin = g.origin := rfl
@[simp] theorem Group.launch_apc (g : Group) (f : Flight) : (g.launch f).apc = g.apc := rfl
@[simp] theorem Group.launch_xpc (g : Group) (f : Flight) : (g.launch f).xpc = g.xpc := rfl
@[simp] theorem Group.launch_gstat (g : Group) (f : Flight) : (g.launch f).gstat = g.gstat := rfl
@[simp] theorem Group.launch_savStat (g : Group) (f : Flight) : (g.launch f).savStat = g.savStat := rfl
@[simp] theorem Group.launch_savApc (g : Group) (f : Flight) : (g.launch f).savApc = g.savApc := rfl
@[simp] theorem Group.launch_savXpc (g : Group) (f : Flight) : (g.launch f).savXpc = g.savXpc := rfl
@[simp] theorem Group.launch_tvec (g : Group) (f : Flight) : (g.launch f).tvec = g.tvec := rfl
@[simp] theorem Group.launch_a (g : Group) (f : Flight) : (g.launch f).a = g.a := rfl
@[simp] theorem Group.launch_g (g : Group) (f : Flight) : (g.launch f).g = g.g := rfl
@[simp] theorem Group.launch_k (g : Group) (f : Flight) : (g.launch f).k = g.k := rfl
@[simp] theorem Group.launch_s (g : Group) (f : Flight) : (g.launch f).s = g.s := rfl
@[simp] theorem Group.launch_v (g : Group) (f : Flight) : (g.launch f).v = g.v := rfl
@[simp] theorem Group.launch_m (g : Group) (f : Flight) : (g.launch f).m = g.m := rfl
@[simp] theorem Group.launch_mp (g : Group) (f : Flight) : (g.launch f).mp = g.mp := rfl
@[simp] theorem Group.launch_lt (g : Group) (f : Flight) : (g.launch f).lt = g.lt := rfl
@[simp] theorem Group.launch_live (g : Group) (f : Flight) : (g.launch f).live = g.live := rfl
@[simp] theorem Group.launch_nq (g : Group) (f : Flight) : (g.launch f).nq = g.nq := rfl
@[simp] theorem Group.launch_tq (g : Group) (f : Flight) : (g.launch f).tq = g.tq := rfl
@[simp] theorem Group.launch_trapSel (g : Group) (f : Flight) : (g.launch f).trapSel = g.trapSel := rfl
@[simp] theorem Group.launch_nextId (g : Group) (f : Flight) : (g.launch f).nextId = g.nextId := rfl
@[simp] theorem Group.launch_snap (g : Group) (f : Flight) : (g.launch f).snap = g.snap := rfl
@[simp] theorem Group.launch_trapSave (g : Group) (f : Flight) : (g.launch f).trapSave = g.trapSave := rfl
@[simp] theorem Group.launch_trapLt (g : Group) (f : Flight) : (g.launch f).trapLt = g.trapLt := rfl
@[simp] theorem Group.launch_trapLive (g : Group) (f : Flight) : (g.launch f).trapLive = g.trapLive := rfl
@[simp] theorem Group.launch_holdLeft (g : Group) (f : Flight) : (g.launch f).holdLeft = g.holdLeft := rfl
@[simp] theorem Group.launch_counted (g : Group) (f : Flight) : (g.launch f).counted = g.counted := rfl
@[simp] theorem Group.launch_rmode (g : Group) (f : Flight) : (g.launch f).rmode = g.rmode := rfl
@[simp] theorem Group.launch_rctr (g : Group) (f : Flight) : (g.launch f).rctr = g.rctr := rfl
@[simp] theorem Group.launch_rbq (g : Group) (f : Flight) : (g.launch f).rbq = g.rbq := rfl
@[simp] theorem Group.launch_sh (g : Group) (f : Flight) : (g.launch f).sh = g.sh := rfl
@[simp] theorem Group.launch_ptr (g : Group) (f : Flight) : (g.launch f).ptr = g.ptr := rfl
@[simp] theorem Group.launch_shPend (g : Group) (f : Flight) : (g.launch f).shPend = g.shPend := rfl
@[simp] theorem Group.launch_ch (g : Group) (f : Flight) : (g.launch f).ch = g.ch := rfl
@[simp] theorem Group.launch_bufNo (g : Group) (f : Flight) : (g.launch f).bufNo = g.bufNo := rfl
@[simp] theorem Group.launch_hint (g : Group) (f : Flight) : (g.launch f).hint = g.hint := rfl
@[simp] theorem Group.launch_seg (g : Group) (f : Flight) : (g.launch f).seg = g.seg := rfl
@[simp] theorem Group.launch_hist (g : Group) (f : Flight) : (g.launch f).hist = g.hist := rfl
@[simp] theorem Group.launch_bundles (g : Group) (f : Flight) : (g.launch f).bundles = g.bundles := rfl
@[simp] theorem Group.launch_awaitBqe (g : Group) (f : Flight) : (g.launch f).awaitBqe = g.awaitBqe := rfl
@[simp] theorem Group.launch_slotA (g : Group) (f : Flight) : (g.launch f).slotA = g.slotA := rfl
@[simp] theorem Group.launch_slotX (g : Group) (f : Flight) : (g.launch f).slotX = g.slotX := rfl
@[simp] theorem Group.launch_midA (g : Group) (f : Flight) : (g.launch f).midA = g.midA := rfl
@[simp] theorem Group.launch_xNext (g : Group) (f : Flight) : (g.launch f).xNext = g.xNext := rfl
@[simp] theorem Group.launch_atEntry (g : Group) (f : Flight) : (g.launch f).atEntry = g.atEntry := rfl
@[simp] theorem Group.launch_segNext (g : Group) (f : Flight) : (g.launch f).segNext = g.segNext := rfl
@[simp] theorem Group.launch_csrw (g : Group) (f : Flight) : (g.launch f).csrw = g.csrw := rfl
@[simp] theorem Group.launch_saved (g : Group) (f : Flight) : (g.launch f).saved = g.saved := rfl
@[simp] theorem Group.launch_endX (g : Group) (f : Flight) : (g.launch f).endX = g.endX := rfl
@[simp] theorem Group.launch_endA (g : Group) (f : Flight) : (g.launch f).endA = g.endA := rfl
@[simp] theorem Group.launch_trapPend (g : Group) (f : Flight) : (g.launch f).trapPend = g.trapPend := rfl
@[simp] theorem Group.launch_heldA (g : Group) (f : Flight) : (g.launch f).heldA = g.heldA := rfl
@[simp] theorem Group.launch_heldX (g : Group) (f : Flight) : (g.launch f).heldX = g.heldX := rfl
@[simp] theorem Group.launch_needQuiet (g : Group) (f : Flight) : (g.launch f).needQuiet = g.needQuiet := rfl
@[simp] theorem Group.launch_awr (g : Group) (f : Flight) : (g.launch f).awr = g.awr := rfl
@[simp] theorem Group.launch_busy (g : Group) (f : Flight) : (g.launch f).busy = g.busy := rfl
@[simp] theorem Group.launch_holds (g : Group) (f : Flight) : (g.launch f).holds = g.holds := rfl
@[simp] theorem Group.launch_befR (g : Group) (f : Flight) : (g.launch f).befR = g.befR := rfl
@[simp] theorem Group.launch_befW (g : Group) (f : Flight) : (g.launch f).befW = g.befW := rfl
@[simp] theorem Group.launch_befE (g : Group) (f : Flight) : (g.launch f).befE = g.befE := rfl
@[simp] theorem Group.launch_pageWait (g : Group) (f : Flight) : (g.launch f).pageWait = g.pageWait := rfl
@[simp] theorem Group.launch_pageFail (g : Group) (f : Flight) : (g.launch f).pageFail = g.pageFail := rfl
@[simp] theorem Group.launch_depCycle (g : Group) (f : Flight) : (g.launch f).depCycle = g.depCycle := rfl
@[simp] theorem Group.launch_bwoken (g : Group) (f : Flight) : (g.launch f).bwoken = g.bwoken := rfl
@[simp] theorem Group.launch_parked (g : Group) (f : Flight) : (g.launch f).parked = g.parked := rfl
@[simp] theorem Group.launch_frozenAt (g : Group) (f : Flight) : (g.launch f).frozenAt = g.frozenAt := rfl
@[simp] theorem Group.launch_yieldReq (g : Group) (f : Flight) : (g.launch f).yieldReq = g.yieldReq := rfl
@[simp] theorem Group.launch_decplReq (g : Group) (f : Flight) : (g.launch f).decplReq = g.decplReq := rfl
@[simp] theorem Group.launch_dead (g : Group) (f : Flight) : (g.launch f).dead = g.dead := rfl
@[simp] theorem Group.launch_lateFault (g : Group) (f : Flight) : (g.launch f).lateFault = g.lateFault := rfl
@[simp] theorem Group.launch_lastSlot (g : Group) (f : Flight) : (g.launch f).lastSlot = g.lastSlot := rfl
@[simp] theorem Group.launch_followed (g : Group) (f : Flight) : (g.launch f).followed = g.followed := rfl
@[simp] theorem Group.launch_errPend (g : Group) (f : Flight) : (g.launch f).errPend = g.errPend := rfl
@[simp] theorem Group.launch_fault (g : Group) (f : Flight) : (g.launch f).fault = g.fault := rfl
@[simp] theorem Group.launch_woken (g : Group) (f : Flight) : (g.launch f).woken = g.woken := rfl
@[simp] theorem Group.launch_parkAt (g : Group) (f : Flight) : (g.launch f).parkAt = g.parkAt := rfl
@[simp] theorem Group.launch_stallCode (g : Group) (f : Flight) : (g.launch f).stallCode = g.stallCode := rfl
@[simp] theorem Group.launch_stallX (g : Group) (f : Flight) : (g.launch f).stallX = g.stallX := rfl

@[simp] theorem Group.later_gid (g : Group) (n r : Nat) (w : Word) : (g.later n r w).gid = g.gid := rfl
@[simp] theorem Group.later_ctx (g : Group) (n r : Nat) (w : Word) : (g.later n r w).ctx = g.ctx := rfl
@[simp] theorem Group.later_share (g : Group) (n r : Nat) (w : Word) : (g.later n r w).share = g.share := rfl
@[simp] theorem Group.later_step (g : Group) (n r : Nat) (w : Word) : (g.later n r w).step = g.step := rfl
@[simp] theorem Group.later_origin (g : Group) (n r : Nat) (w : Word) : (g.later n r w).origin = g.origin := rfl
@[simp] theorem Group.later_apc (g : Group) (n r : Nat) (w : Word) : (g.later n r w).apc = g.apc := rfl
@[simp] theorem Group.later_xpc (g : Group) (n r : Nat) (w : Word) : (g.later n r w).xpc = g.xpc := rfl
@[simp] theorem Group.later_gstat (g : Group) (n r : Nat) (w : Word) : (g.later n r w).gstat = g.gstat := rfl
@[simp] theorem Group.later_savStat (g : Group) (n r : Nat) (w : Word) : (g.later n r w).savStat = g.savStat := rfl
@[simp] theorem Group.later_savApc (g : Group) (n r : Nat) (w : Word) : (g.later n r w).savApc = g.savApc := rfl
@[simp] theorem Group.later_savXpc (g : Group) (n r : Nat) (w : Word) : (g.later n r w).savXpc = g.savXpc := rfl
@[simp] theorem Group.later_tvec (g : Group) (n r : Nat) (w : Word) : (g.later n r w).tvec = g.tvec := rfl
@[simp] theorem Group.later_a (g : Group) (n r : Nat) (w : Word) : (g.later n r w).a = g.a := rfl
@[simp] theorem Group.later_g (g : Group) (n r : Nat) (w : Word) : (g.later n r w).g = g.g := rfl
@[simp] theorem Group.later_k (g : Group) (n r : Nat) (w : Word) : (g.later n r w).k = g.k := rfl
@[simp] theorem Group.later_s (g : Group) (n r : Nat) (w : Word) : (g.later n r w).s = g.s := rfl
@[simp] theorem Group.later_v (g : Group) (n r : Nat) (w : Word) : (g.later n r w).v = g.v := rfl
@[simp] theorem Group.later_m (g : Group) (n r : Nat) (w : Word) : (g.later n r w).m = g.m := rfl
@[simp] theorem Group.later_mp (g : Group) (n r : Nat) (w : Word) : (g.later n r w).mp = g.mp := rfl
@[simp] theorem Group.later_lt (g : Group) (n r : Nat) (w : Word) : (g.later n r w).lt = g.lt := rfl
@[simp] theorem Group.later_live (g : Group) (n r : Nat) (w : Word) : (g.later n r w).live = g.live := rfl
@[simp] theorem Group.later_nq (g : Group) (n r : Nat) (w : Word) : (g.later n r w).nq = g.nq := rfl
@[simp] theorem Group.later_tq (g : Group) (n r : Nat) (w : Word) : (g.later n r w).tq = g.tq := rfl
@[simp] theorem Group.later_trapSel (g : Group) (n r : Nat) (w : Word) : (g.later n r w).trapSel = g.trapSel := rfl
@[simp] theorem Group.later_nextId (g : Group) (n r : Nat) (w : Word) : (g.later n r w).nextId = g.nextId := rfl
@[simp] theorem Group.later_flight (g : Group) (n r : Nat) (w : Word) : (g.later n r w).flight = g.flight := rfl
@[simp] theorem Group.later_snap (g : Group) (n r : Nat) (w : Word) : (g.later n r w).snap = g.snap := rfl
@[simp] theorem Group.later_trapSave (g : Group) (n r : Nat) (w : Word) : (g.later n r w).trapSave = g.trapSave := rfl
@[simp] theorem Group.later_trapLt (g : Group) (n r : Nat) (w : Word) : (g.later n r w).trapLt = g.trapLt := rfl
@[simp] theorem Group.later_trapLive (g : Group) (n r : Nat) (w : Word) : (g.later n r w).trapLive = g.trapLive := rfl
@[simp] theorem Group.later_holdLeft (g : Group) (n r : Nat) (w : Word) : (g.later n r w).holdLeft = g.holdLeft := rfl
@[simp] theorem Group.later_counted (g : Group) (n r : Nat) (w : Word) : (g.later n r w).counted = g.counted := rfl
@[simp] theorem Group.later_rmode (g : Group) (n r : Nat) (w : Word) : (g.later n r w).rmode = g.rmode := rfl
@[simp] theorem Group.later_rctr (g : Group) (n r : Nat) (w : Word) : (g.later n r w).rctr = g.rctr := rfl
@[simp] theorem Group.later_rbq (g : Group) (n r : Nat) (w : Word) : (g.later n r w).rbq = g.rbq := rfl
@[simp] theorem Group.later_sh (g : Group) (n r : Nat) (w : Word) : (g.later n r w).sh = g.sh := rfl
@[simp] theorem Group.later_ptr (g : Group) (n r : Nat) (w : Word) : (g.later n r w).ptr = g.ptr := rfl
@[simp] theorem Group.later_shPend (g : Group) (n r : Nat) (w : Word) : (g.later n r w).shPend = g.shPend := rfl
@[simp] theorem Group.later_ch (g : Group) (n r : Nat) (w : Word) : (g.later n r w).ch = g.ch := rfl
@[simp] theorem Group.later_bufNo (g : Group) (n r : Nat) (w : Word) : (g.later n r w).bufNo = g.bufNo := rfl
@[simp] theorem Group.later_hint (g : Group) (n r : Nat) (w : Word) : (g.later n r w).hint = g.hint := rfl
@[simp] theorem Group.later_seg (g : Group) (n r : Nat) (w : Word) : (g.later n r w).seg = g.seg := rfl
@[simp] theorem Group.later_hist (g : Group) (n r : Nat) (w : Word) : (g.later n r w).hist = g.hist := rfl
@[simp] theorem Group.later_bundles (g : Group) (n r : Nat) (w : Word) : (g.later n r w).bundles = g.bundles := rfl
@[simp] theorem Group.later_awaitBqe (g : Group) (n r : Nat) (w : Word) : (g.later n r w).awaitBqe = g.awaitBqe := rfl
@[simp] theorem Group.later_slotA (g : Group) (n r : Nat) (w : Word) : (g.later n r w).slotA = g.slotA := rfl
@[simp] theorem Group.later_slotX (g : Group) (n r : Nat) (w : Word) : (g.later n r w).slotX = g.slotX := rfl
@[simp] theorem Group.later_midA (g : Group) (n r : Nat) (w : Word) : (g.later n r w).midA = g.midA := rfl
@[simp] theorem Group.later_xNext (g : Group) (n r : Nat) (w : Word) : (g.later n r w).xNext = g.xNext := rfl
@[simp] theorem Group.later_atEntry (g : Group) (n r : Nat) (w : Word) : (g.later n r w).atEntry = g.atEntry := rfl
@[simp] theorem Group.later_segNext (g : Group) (n r : Nat) (w : Word) : (g.later n r w).segNext = g.segNext := rfl
@[simp] theorem Group.later_csrw (g : Group) (n r : Nat) (w : Word) : (g.later n r w).csrw = g.csrw := rfl
@[simp] theorem Group.later_saved (g : Group) (n r : Nat) (w : Word) : (g.later n r w).saved = g.saved := rfl
@[simp] theorem Group.later_endX (g : Group) (n r : Nat) (w : Word) : (g.later n r w).endX = g.endX := rfl
@[simp] theorem Group.later_endA (g : Group) (n r : Nat) (w : Word) : (g.later n r w).endA = g.endA := rfl
@[simp] theorem Group.later_trapPend (g : Group) (n r : Nat) (w : Word) : (g.later n r w).trapPend = g.trapPend := rfl
@[simp] theorem Group.later_heldA (g : Group) (n r : Nat) (w : Word) : (g.later n r w).heldA = g.heldA := rfl
@[simp] theorem Group.later_heldX (g : Group) (n r : Nat) (w : Word) : (g.later n r w).heldX = g.heldX := rfl
@[simp] theorem Group.later_needQuiet (g : Group) (n r : Nat) (w : Word) : (g.later n r w).needQuiet = g.needQuiet := rfl
@[simp] theorem Group.later_busy (g : Group) (n r : Nat) (w : Word) : (g.later n r w).busy = g.busy := rfl
@[simp] theorem Group.later_holds (g : Group) (n r : Nat) (w : Word) : (g.later n r w).holds = g.holds := rfl
@[simp] theorem Group.later_befR (g : Group) (n r : Nat) (w : Word) : (g.later n r w).befR = g.befR := rfl
@[simp] theorem Group.later_befW (g : Group) (n r : Nat) (w : Word) : (g.later n r w).befW = g.befW := rfl
@[simp] theorem Group.later_befE (g : Group) (n r : Nat) (w : Word) : (g.later n r w).befE = g.befE := rfl
@[simp] theorem Group.later_pageWait (g : Group) (n r : Nat) (w : Word) : (g.later n r w).pageWait = g.pageWait := rfl
@[simp] theorem Group.later_pageFail (g : Group) (n r : Nat) (w : Word) : (g.later n r w).pageFail = g.pageFail := rfl
@[simp] theorem Group.later_depCycle (g : Group) (n r : Nat) (w : Word) : (g.later n r w).depCycle = g.depCycle := rfl
@[simp] theorem Group.later_bwoken (g : Group) (n r : Nat) (w : Word) : (g.later n r w).bwoken = g.bwoken := rfl
@[simp] theorem Group.later_parked (g : Group) (n r : Nat) (w : Word) : (g.later n r w).parked = g.parked := rfl
@[simp] theorem Group.later_frozenAt (g : Group) (n r : Nat) (w : Word) : (g.later n r w).frozenAt = g.frozenAt := rfl
@[simp] theorem Group.later_yieldReq (g : Group) (n r : Nat) (w : Word) : (g.later n r w).yieldReq = g.yieldReq := rfl
@[simp] theorem Group.later_decplReq (g : Group) (n r : Nat) (w : Word) : (g.later n r w).decplReq = g.decplReq := rfl
@[simp] theorem Group.later_dead (g : Group) (n r : Nat) (w : Word) : (g.later n r w).dead = g.dead := rfl
@[simp] theorem Group.later_lateFault (g : Group) (n r : Nat) (w : Word) : (g.later n r w).lateFault = g.lateFault := rfl
@[simp] theorem Group.later_lastSlot (g : Group) (n r : Nat) (w : Word) : (g.later n r w).lastSlot = g.lastSlot := rfl
@[simp] theorem Group.later_followed (g : Group) (n r : Nat) (w : Word) : (g.later n r w).followed = g.followed := rfl
@[simp] theorem Group.later_errPend (g : Group) (n r : Nat) (w : Word) : (g.later n r w).errPend = g.errPend := rfl
@[simp] theorem Group.later_fault (g : Group) (n r : Nat) (w : Word) : (g.later n r w).fault = g.fault := rfl
@[simp] theorem Group.later_woken (g : Group) (n r : Nat) (w : Word) : (g.later n r w).woken = g.woken := rfl
@[simp] theorem Group.later_parkAt (g : Group) (n r : Nat) (w : Word) : (g.later n r w).parkAt = g.parkAt := rfl
@[simp] theorem Group.later_stallCode (g : Group) (n r : Nat) (w : Word) : (g.later n r w).stallCode = g.stallCode := rfl
@[simp] theorem Group.later_stallX (g : Group) (n r : Nat) (w : Word) : (g.later n r w).stallX = g.stallX := rfl

@[simp] theorem Group.wrA_gid (g : Group) (n : Nat) (w : Word) : (g.wrA n w).gid = g.gid := rfl
@[simp] theorem Group.wrA_ctx (g : Group) (n : Nat) (w : Word) : (g.wrA n w).ctx = g.ctx := rfl
@[simp] theorem Group.wrA_share (g : Group) (n : Nat) (w : Word) : (g.wrA n w).share = g.share := rfl
@[simp] theorem Group.wrA_step (g : Group) (n : Nat) (w : Word) : (g.wrA n w).step = g.step := rfl
@[simp] theorem Group.wrA_origin (g : Group) (n : Nat) (w : Word) : (g.wrA n w).origin = g.origin := rfl
@[simp] theorem Group.wrA_apc (g : Group) (n : Nat) (w : Word) : (g.wrA n w).apc = g.apc := rfl
@[simp] theorem Group.wrA_xpc (g : Group) (n : Nat) (w : Word) : (g.wrA n w).xpc = g.xpc := rfl
@[simp] theorem Group.wrA_gstat (g : Group) (n : Nat) (w : Word) : (g.wrA n w).gstat = g.gstat := rfl
@[simp] theorem Group.wrA_savStat (g : Group) (n : Nat) (w : Word) : (g.wrA n w).savStat = g.savStat := rfl
@[simp] theorem Group.wrA_savApc (g : Group) (n : Nat) (w : Word) : (g.wrA n w).savApc = g.savApc := rfl
@[simp] theorem Group.wrA_savXpc (g : Group) (n : Nat) (w : Word) : (g.wrA n w).savXpc = g.savXpc := rfl
@[simp] theorem Group.wrA_tvec (g : Group) (n : Nat) (w : Word) : (g.wrA n w).tvec = g.tvec := rfl
@[simp] theorem Group.wrA_g (g : Group) (n : Nat) (w : Word) : (g.wrA n w).g = g.g := rfl
@[simp] theorem Group.wrA_k (g : Group) (n : Nat) (w : Word) : (g.wrA n w).k = g.k := rfl
@[simp] theorem Group.wrA_s (g : Group) (n : Nat) (w : Word) : (g.wrA n w).s = g.s := rfl
@[simp] theorem Group.wrA_v (g : Group) (n : Nat) (w : Word) : (g.wrA n w).v = g.v := rfl
@[simp] theorem Group.wrA_m (g : Group) (n : Nat) (w : Word) : (g.wrA n w).m = g.m := rfl
@[simp] theorem Group.wrA_mp (g : Group) (n : Nat) (w : Word) : (g.wrA n w).mp = g.mp := rfl
@[simp] theorem Group.wrA_lt (g : Group) (n : Nat) (w : Word) : (g.wrA n w).lt = g.lt := rfl
@[simp] theorem Group.wrA_live (g : Group) (n : Nat) (w : Word) : (g.wrA n w).live = g.live := rfl
@[simp] theorem Group.wrA_nq (g : Group) (n : Nat) (w : Word) : (g.wrA n w).nq = g.nq := rfl
@[simp] theorem Group.wrA_tq (g : Group) (n : Nat) (w : Word) : (g.wrA n w).tq = g.tq := rfl
@[simp] theorem Group.wrA_trapSel (g : Group) (n : Nat) (w : Word) : (g.wrA n w).trapSel = g.trapSel := rfl
@[simp] theorem Group.wrA_nextId (g : Group) (n : Nat) (w : Word) : (g.wrA n w).nextId = g.nextId := rfl
@[simp] theorem Group.wrA_flight (g : Group) (n : Nat) (w : Word) : (g.wrA n w).flight = g.flight := rfl
@[simp] theorem Group.wrA_snap (g : Group) (n : Nat) (w : Word) : (g.wrA n w).snap = g.snap := rfl
@[simp] theorem Group.wrA_trapSave (g : Group) (n : Nat) (w : Word) : (g.wrA n w).trapSave = g.trapSave := rfl
@[simp] theorem Group.wrA_trapLt (g : Group) (n : Nat) (w : Word) : (g.wrA n w).trapLt = g.trapLt := rfl
@[simp] theorem Group.wrA_trapLive (g : Group) (n : Nat) (w : Word) : (g.wrA n w).trapLive = g.trapLive := rfl
@[simp] theorem Group.wrA_holdLeft (g : Group) (n : Nat) (w : Word) : (g.wrA n w).holdLeft = g.holdLeft := rfl
@[simp] theorem Group.wrA_counted (g : Group) (n : Nat) (w : Word) : (g.wrA n w).counted = g.counted := rfl
@[simp] theorem Group.wrA_rmode (g : Group) (n : Nat) (w : Word) : (g.wrA n w).rmode = g.rmode := rfl
@[simp] theorem Group.wrA_rctr (g : Group) (n : Nat) (w : Word) : (g.wrA n w).rctr = g.rctr := rfl
@[simp] theorem Group.wrA_rbq (g : Group) (n : Nat) (w : Word) : (g.wrA n w).rbq = g.rbq := rfl
@[simp] theorem Group.wrA_sh (g : Group) (n : Nat) (w : Word) : (g.wrA n w).sh = g.sh := rfl
@[simp] theorem Group.wrA_ptr (g : Group) (n : Nat) (w : Word) : (g.wrA n w).ptr = g.ptr := rfl
@[simp] theorem Group.wrA_shPend (g : Group) (n : Nat) (w : Word) : (g.wrA n w).shPend = g.shPend := rfl
@[simp] theorem Group.wrA_ch (g : Group) (n : Nat) (w : Word) : (g.wrA n w).ch = g.ch := rfl
@[simp] theorem Group.wrA_bufNo (g : Group) (n : Nat) (w : Word) : (g.wrA n w).bufNo = g.bufNo := rfl
@[simp] theorem Group.wrA_hint (g : Group) (n : Nat) (w : Word) : (g.wrA n w).hint = g.hint := rfl
@[simp] theorem Group.wrA_seg (g : Group) (n : Nat) (w : Word) : (g.wrA n w).seg = g.seg := rfl
@[simp] theorem Group.wrA_hist (g : Group) (n : Nat) (w : Word) : (g.wrA n w).hist = g.hist := rfl
@[simp] theorem Group.wrA_bundles (g : Group) (n : Nat) (w : Word) : (g.wrA n w).bundles = g.bundles := rfl
@[simp] theorem Group.wrA_awaitBqe (g : Group) (n : Nat) (w : Word) : (g.wrA n w).awaitBqe = g.awaitBqe := rfl
@[simp] theorem Group.wrA_slotA (g : Group) (n : Nat) (w : Word) : (g.wrA n w).slotA = g.slotA := rfl
@[simp] theorem Group.wrA_slotX (g : Group) (n : Nat) (w : Word) : (g.wrA n w).slotX = g.slotX := rfl
@[simp] theorem Group.wrA_midA (g : Group) (n : Nat) (w : Word) : (g.wrA n w).midA = g.midA := rfl
@[simp] theorem Group.wrA_xNext (g : Group) (n : Nat) (w : Word) : (g.wrA n w).xNext = g.xNext := rfl
@[simp] theorem Group.wrA_atEntry (g : Group) (n : Nat) (w : Word) : (g.wrA n w).atEntry = g.atEntry := rfl
@[simp] theorem Group.wrA_segNext (g : Group) (n : Nat) (w : Word) : (g.wrA n w).segNext = g.segNext := rfl
@[simp] theorem Group.wrA_csrw (g : Group) (n : Nat) (w : Word) : (g.wrA n w).csrw = g.csrw := rfl
@[simp] theorem Group.wrA_saved (g : Group) (n : Nat) (w : Word) : (g.wrA n w).saved = g.saved := rfl
@[simp] theorem Group.wrA_endX (g : Group) (n : Nat) (w : Word) : (g.wrA n w).endX = g.endX := rfl
@[simp] theorem Group.wrA_endA (g : Group) (n : Nat) (w : Word) : (g.wrA n w).endA = g.endA := rfl
@[simp] theorem Group.wrA_trapPend (g : Group) (n : Nat) (w : Word) : (g.wrA n w).trapPend = g.trapPend := rfl
@[simp] theorem Group.wrA_heldA (g : Group) (n : Nat) (w : Word) : (g.wrA n w).heldA = g.heldA := rfl
@[simp] theorem Group.wrA_heldX (g : Group) (n : Nat) (w : Word) : (g.wrA n w).heldX = g.heldX := rfl
@[simp] theorem Group.wrA_needQuiet (g : Group) (n : Nat) (w : Word) : (g.wrA n w).needQuiet = g.needQuiet := rfl
@[simp] theorem Group.wrA_awr (g : Group) (n : Nat) (w : Word) : (g.wrA n w).awr = g.awr := rfl
@[simp] theorem Group.wrA_busy (g : Group) (n : Nat) (w : Word) : (g.wrA n w).busy = g.busy := rfl
@[simp] theorem Group.wrA_holds (g : Group) (n : Nat) (w : Word) : (g.wrA n w).holds = g.holds := rfl
@[simp] theorem Group.wrA_befR (g : Group) (n : Nat) (w : Word) : (g.wrA n w).befR = g.befR := rfl
@[simp] theorem Group.wrA_befW (g : Group) (n : Nat) (w : Word) : (g.wrA n w).befW = g.befW := rfl
@[simp] theorem Group.wrA_befE (g : Group) (n : Nat) (w : Word) : (g.wrA n w).befE = g.befE := rfl
@[simp] theorem Group.wrA_pageWait (g : Group) (n : Nat) (w : Word) : (g.wrA n w).pageWait = g.pageWait := rfl
@[simp] theorem Group.wrA_pageFail (g : Group) (n : Nat) (w : Word) : (g.wrA n w).pageFail = g.pageFail := rfl
@[simp] theorem Group.wrA_depCycle (g : Group) (n : Nat) (w : Word) : (g.wrA n w).depCycle = g.depCycle := rfl
@[simp] theorem Group.wrA_bwoken (g : Group) (n : Nat) (w : Word) : (g.wrA n w).bwoken = g.bwoken := rfl
@[simp] theorem Group.wrA_parked (g : Group) (n : Nat) (w : Word) : (g.wrA n w).parked = g.parked := rfl
@[simp] theorem Group.wrA_frozenAt (g : Group) (n : Nat) (w : Word) : (g.wrA n w).frozenAt = g.frozenAt := rfl
@[simp] theorem Group.wrA_yieldReq (g : Group) (n : Nat) (w : Word) : (g.wrA n w).yieldReq = g.yieldReq := rfl
@[simp] theorem Group.wrA_decplReq (g : Group) (n : Nat) (w : Word) : (g.wrA n w).decplReq = g.decplReq := rfl
@[simp] theorem Group.wrA_dead (g : Group) (n : Nat) (w : Word) : (g.wrA n w).dead = g.dead := rfl
@[simp] theorem Group.wrA_lateFault (g : Group) (n : Nat) (w : Word) : (g.wrA n w).lateFault = g.lateFault := rfl
@[simp] theorem Group.wrA_lastSlot (g : Group) (n : Nat) (w : Word) : (g.wrA n w).lastSlot = g.lastSlot := rfl
@[simp] theorem Group.wrA_followed (g : Group) (n : Nat) (w : Word) : (g.wrA n w).followed = g.followed := rfl
@[simp] theorem Group.wrA_errPend (g : Group) (n : Nat) (w : Word) : (g.wrA n w).errPend = g.errPend := rfl
@[simp] theorem Group.wrA_fault (g : Group) (n : Nat) (w : Word) : (g.wrA n w).fault = g.fault := rfl
@[simp] theorem Group.wrA_woken (g : Group) (n : Nat) (w : Word) : (g.wrA n w).woken = g.woken := rfl
@[simp] theorem Group.wrA_parkAt (g : Group) (n : Nat) (w : Word) : (g.wrA n w).parkAt = g.parkAt := rfl
@[simp] theorem Group.wrA_stallCode (g : Group) (n : Nat) (w : Word) : (g.wrA n w).stallCode = g.stallCode := rfl
@[simp] theorem Group.wrA_stallX (g : Group) (n : Nat) (w : Word) : (g.wrA n w).stallX = g.stallX := rfl

@[simp] theorem Group.wrV_gid (g : Group) (n : Nat) (w : VReg) : (g.wrV n w).gid = g.gid := rfl
@[simp] theorem Group.wrV_ctx (g : Group) (n : Nat) (w : VReg) : (g.wrV n w).ctx = g.ctx := rfl
@[simp] theorem Group.wrV_share (g : Group) (n : Nat) (w : VReg) : (g.wrV n w).share = g.share := rfl
@[simp] theorem Group.wrV_step (g : Group) (n : Nat) (w : VReg) : (g.wrV n w).step = g.step := rfl
@[simp] theorem Group.wrV_origin (g : Group) (n : Nat) (w : VReg) : (g.wrV n w).origin = g.origin := rfl
@[simp] theorem Group.wrV_apc (g : Group) (n : Nat) (w : VReg) : (g.wrV n w).apc = g.apc := rfl
@[simp] theorem Group.wrV_xpc (g : Group) (n : Nat) (w : VReg) : (g.wrV n w).xpc = g.xpc := rfl
@[simp] theorem Group.wrV_gstat (g : Group) (n : Nat) (w : VReg) : (g.wrV n w).gstat = g.gstat := rfl
@[simp] theorem Group.wrV_savStat (g : Group) (n : Nat) (w : VReg) : (g.wrV n w).savStat = g.savStat := rfl
@[simp] theorem Group.wrV_savApc (g : Group) (n : Nat) (w : VReg) : (g.wrV n w).savApc = g.savApc := rfl
@[simp] theorem Group.wrV_savXpc (g : Group) (n : Nat) (w : VReg) : (g.wrV n w).savXpc = g.savXpc := rfl
@[simp] theorem Group.wrV_tvec (g : Group) (n : Nat) (w : VReg) : (g.wrV n w).tvec = g.tvec := rfl
@[simp] theorem Group.wrV_a (g : Group) (n : Nat) (w : VReg) : (g.wrV n w).a = g.a := rfl
@[simp] theorem Group.wrV_g (g : Group) (n : Nat) (w : VReg) : (g.wrV n w).g = g.g := rfl
@[simp] theorem Group.wrV_k (g : Group) (n : Nat) (w : VReg) : (g.wrV n w).k = g.k := rfl
@[simp] theorem Group.wrV_s (g : Group) (n : Nat) (w : VReg) : (g.wrV n w).s = g.s := rfl
@[simp] theorem Group.wrV_m (g : Group) (n : Nat) (w : VReg) : (g.wrV n w).m = g.m := rfl
@[simp] theorem Group.wrV_mp (g : Group) (n : Nat) (w : VReg) : (g.wrV n w).mp = g.mp := rfl
@[simp] theorem Group.wrV_lt (g : Group) (n : Nat) (w : VReg) : (g.wrV n w).lt = g.lt := rfl
@[simp] theorem Group.wrV_live (g : Group) (n : Nat) (w : VReg) : (g.wrV n w).live = g.live := rfl
@[simp] theorem Group.wrV_nq (g : Group) (n : Nat) (w : VReg) : (g.wrV n w).nq = g.nq := rfl
@[simp] theorem Group.wrV_tq (g : Group) (n : Nat) (w : VReg) : (g.wrV n w).tq = g.tq := rfl
@[simp] theorem Group.wrV_trapSel (g : Group) (n : Nat) (w : VReg) : (g.wrV n w).trapSel = g.trapSel := rfl
@[simp] theorem Group.wrV_nextId (g : Group) (n : Nat) (w : VReg) : (g.wrV n w).nextId = g.nextId := rfl
@[simp] theorem Group.wrV_flight (g : Group) (n : Nat) (w : VReg) : (g.wrV n w).flight = g.flight := rfl
@[simp] theorem Group.wrV_snap (g : Group) (n : Nat) (w : VReg) : (g.wrV n w).snap = g.snap := rfl
@[simp] theorem Group.wrV_trapSave (g : Group) (n : Nat) (w : VReg) : (g.wrV n w).trapSave = g.trapSave := rfl
@[simp] theorem Group.wrV_trapLt (g : Group) (n : Nat) (w : VReg) : (g.wrV n w).trapLt = g.trapLt := rfl
@[simp] theorem Group.wrV_trapLive (g : Group) (n : Nat) (w : VReg) : (g.wrV n w).trapLive = g.trapLive := rfl
@[simp] theorem Group.wrV_holdLeft (g : Group) (n : Nat) (w : VReg) : (g.wrV n w).holdLeft = g.holdLeft := rfl
@[simp] theorem Group.wrV_counted (g : Group) (n : Nat) (w : VReg) : (g.wrV n w).counted = g.counted := rfl
@[simp] theorem Group.wrV_rmode (g : Group) (n : Nat) (w : VReg) : (g.wrV n w).rmode = g.rmode := rfl
@[simp] theorem Group.wrV_rctr (g : Group) (n : Nat) (w : VReg) : (g.wrV n w).rctr = g.rctr := rfl
@[simp] theorem Group.wrV_rbq (g : Group) (n : Nat) (w : VReg) : (g.wrV n w).rbq = g.rbq := rfl
@[simp] theorem Group.wrV_sh (g : Group) (n : Nat) (w : VReg) : (g.wrV n w).sh = g.sh := rfl
@[simp] theorem Group.wrV_ptr (g : Group) (n : Nat) (w : VReg) : (g.wrV n w).ptr = g.ptr := rfl
@[simp] theorem Group.wrV_shPend (g : Group) (n : Nat) (w : VReg) : (g.wrV n w).shPend = g.shPend := rfl
@[simp] theorem Group.wrV_ch (g : Group) (n : Nat) (w : VReg) : (g.wrV n w).ch = g.ch := rfl
@[simp] theorem Group.wrV_bufNo (g : Group) (n : Nat) (w : VReg) : (g.wrV n w).bufNo = g.bufNo := rfl
@[simp] theorem Group.wrV_hint (g : Group) (n : Nat) (w : VReg) : (g.wrV n w).hint = g.hint := rfl
@[simp] theorem Group.wrV_seg (g : Group) (n : Nat) (w : VReg) : (g.wrV n w).seg = g.seg := rfl
@[simp] theorem Group.wrV_hist (g : Group) (n : Nat) (w : VReg) : (g.wrV n w).hist = g.hist := rfl
@[simp] theorem Group.wrV_bundles (g : Group) (n : Nat) (w : VReg) : (g.wrV n w).bundles = g.bundles := rfl
@[simp] theorem Group.wrV_awaitBqe (g : Group) (n : Nat) (w : VReg) : (g.wrV n w).awaitBqe = g.awaitBqe := rfl
@[simp] theorem Group.wrV_slotA (g : Group) (n : Nat) (w : VReg) : (g.wrV n w).slotA = g.slotA := rfl
@[simp] theorem Group.wrV_slotX (g : Group) (n : Nat) (w : VReg) : (g.wrV n w).slotX = g.slotX := rfl
@[simp] theorem Group.wrV_midA (g : Group) (n : Nat) (w : VReg) : (g.wrV n w).midA = g.midA := rfl
@[simp] theorem Group.wrV_xNext (g : Group) (n : Nat) (w : VReg) : (g.wrV n w).xNext = g.xNext := rfl
@[simp] theorem Group.wrV_atEntry (g : Group) (n : Nat) (w : VReg) : (g.wrV n w).atEntry = g.atEntry := rfl
@[simp] theorem Group.wrV_segNext (g : Group) (n : Nat) (w : VReg) : (g.wrV n w).segNext = g.segNext := rfl
@[simp] theorem Group.wrV_csrw (g : Group) (n : Nat) (w : VReg) : (g.wrV n w).csrw = g.csrw := rfl
@[simp] theorem Group.wrV_saved (g : Group) (n : Nat) (w : VReg) : (g.wrV n w).saved = g.saved := rfl
@[simp] theorem Group.wrV_endX (g : Group) (n : Nat) (w : VReg) : (g.wrV n w).endX = g.endX := rfl
@[simp] theorem Group.wrV_endA (g : Group) (n : Nat) (w : VReg) : (g.wrV n w).endA = g.endA := rfl
@[simp] theorem Group.wrV_trapPend (g : Group) (n : Nat) (w : VReg) : (g.wrV n w).trapPend = g.trapPend := rfl
@[simp] theorem Group.wrV_heldA (g : Group) (n : Nat) (w : VReg) : (g.wrV n w).heldA = g.heldA := rfl
@[simp] theorem Group.wrV_heldX (g : Group) (n : Nat) (w : VReg) : (g.wrV n w).heldX = g.heldX := rfl
@[simp] theorem Group.wrV_needQuiet (g : Group) (n : Nat) (w : VReg) : (g.wrV n w).needQuiet = g.needQuiet := rfl
@[simp] theorem Group.wrV_awr (g : Group) (n : Nat) (w : VReg) : (g.wrV n w).awr = g.awr := rfl
@[simp] theorem Group.wrV_busy (g : Group) (n : Nat) (w : VReg) : (g.wrV n w).busy = g.busy := rfl
@[simp] theorem Group.wrV_holds (g : Group) (n : Nat) (w : VReg) : (g.wrV n w).holds = g.holds := rfl
@[simp] theorem Group.wrV_befR (g : Group) (n : Nat) (w : VReg) : (g.wrV n w).befR = g.befR := rfl
@[simp] theorem Group.wrV_befW (g : Group) (n : Nat) (w : VReg) : (g.wrV n w).befW = g.befW := rfl
@[simp] theorem Group.wrV_befE (g : Group) (n : Nat) (w : VReg) : (g.wrV n w).befE = g.befE := rfl
@[simp] theorem Group.wrV_pageWait (g : Group) (n : Nat) (w : VReg) : (g.wrV n w).pageWait = g.pageWait := rfl
@[simp] theorem Group.wrV_pageFail (g : Group) (n : Nat) (w : VReg) : (g.wrV n w).pageFail = g.pageFail := rfl
@[simp] theorem Group.wrV_depCycle (g : Group) (n : Nat) (w : VReg) : (g.wrV n w).depCycle = g.depCycle := rfl
@[simp] theorem Group.wrV_bwoken (g : Group) (n : Nat) (w : VReg) : (g.wrV n w).bwoken = g.bwoken := rfl
@[simp] theorem Group.wrV_parked (g : Group) (n : Nat) (w : VReg) : (g.wrV n w).parked = g.parked := rfl
@[simp] theorem Group.wrV_frozenAt (g : Group) (n : Nat) (w : VReg) : (g.wrV n w).frozenAt = g.frozenAt := rfl
@[simp] theorem Group.wrV_yieldReq (g : Group) (n : Nat) (w : VReg) : (g.wrV n w).yieldReq = g.yieldReq := rfl
@[simp] theorem Group.wrV_decplReq (g : Group) (n : Nat) (w : VReg) : (g.wrV n w).decplReq = g.decplReq := rfl
@[simp] theorem Group.wrV_dead (g : Group) (n : Nat) (w : VReg) : (g.wrV n w).dead = g.dead := rfl
@[simp] theorem Group.wrV_lateFault (g : Group) (n : Nat) (w : VReg) : (g.wrV n w).lateFault = g.lateFault := rfl
@[simp] theorem Group.wrV_lastSlot (g : Group) (n : Nat) (w : VReg) : (g.wrV n w).lastSlot = g.lastSlot := rfl
@[simp] theorem Group.wrV_followed (g : Group) (n : Nat) (w : VReg) : (g.wrV n w).followed = g.followed := rfl
@[simp] theorem Group.wrV_errPend (g : Group) (n : Nat) (w : VReg) : (g.wrV n w).errPend = g.errPend := rfl
@[simp] theorem Group.wrV_fault (g : Group) (n : Nat) (w : VReg) : (g.wrV n w).fault = g.fault := rfl
@[simp] theorem Group.wrV_woken (g : Group) (n : Nat) (w : VReg) : (g.wrV n w).woken = g.woken := rfl
@[simp] theorem Group.wrV_parkAt (g : Group) (n : Nat) (w : VReg) : (g.wrV n w).parkAt = g.parkAt := rfl
@[simp] theorem Group.wrV_stallCode (g : Group) (n : Nat) (w : VReg) : (g.wrV n w).stallCode = g.stallCode := rfl
@[simp] theorem Group.wrV_stallX (g : Group) (n : Nat) (w : VReg) : (g.wrV n w).stallX = g.stallX := rfl

@[simp] theorem Group.wrK_gid (g : Group) (n : Nat) (w : BitVec 32) : (g.wrK n w).gid = g.gid := rfl
@[simp] theorem Group.wrK_ctx (g : Group) (n : Nat) (w : BitVec 32) : (g.wrK n w).ctx = g.ctx := rfl
@[simp] theorem Group.wrK_share (g : Group) (n : Nat) (w : BitVec 32) : (g.wrK n w).share = g.share := rfl
@[simp] theorem Group.wrK_step (g : Group) (n : Nat) (w : BitVec 32) : (g.wrK n w).step = g.step := rfl
@[simp] theorem Group.wrK_origin (g : Group) (n : Nat) (w : BitVec 32) : (g.wrK n w).origin = g.origin := rfl
@[simp] theorem Group.wrK_apc (g : Group) (n : Nat) (w : BitVec 32) : (g.wrK n w).apc = g.apc := rfl
@[simp] theorem Group.wrK_xpc (g : Group) (n : Nat) (w : BitVec 32) : (g.wrK n w).xpc = g.xpc := rfl
@[simp] theorem Group.wrK_gstat (g : Group) (n : Nat) (w : BitVec 32) : (g.wrK n w).gstat = g.gstat := rfl
@[simp] theorem Group.wrK_savStat (g : Group) (n : Nat) (w : BitVec 32) : (g.wrK n w).savStat = g.savStat := rfl
@[simp] theorem Group.wrK_savApc (g : Group) (n : Nat) (w : BitVec 32) : (g.wrK n w).savApc = g.savApc := rfl
@[simp] theorem Group.wrK_savXpc (g : Group) (n : Nat) (w : BitVec 32) : (g.wrK n w).savXpc = g.savXpc := rfl
@[simp] theorem Group.wrK_tvec (g : Group) (n : Nat) (w : BitVec 32) : (g.wrK n w).tvec = g.tvec := rfl
@[simp] theorem Group.wrK_a (g : Group) (n : Nat) (w : BitVec 32) : (g.wrK n w).a = g.a := rfl
@[simp] theorem Group.wrK_g (g : Group) (n : Nat) (w : BitVec 32) : (g.wrK n w).g = g.g := rfl
@[simp] theorem Group.wrK_s (g : Group) (n : Nat) (w : BitVec 32) : (g.wrK n w).s = g.s := rfl
@[simp] theorem Group.wrK_v (g : Group) (n : Nat) (w : BitVec 32) : (g.wrK n w).v = g.v := rfl
@[simp] theorem Group.wrK_m (g : Group) (n : Nat) (w : BitVec 32) : (g.wrK n w).m = g.m := rfl
@[simp] theorem Group.wrK_mp (g : Group) (n : Nat) (w : BitVec 32) : (g.wrK n w).mp = g.mp := rfl
@[simp] theorem Group.wrK_lt (g : Group) (n : Nat) (w : BitVec 32) : (g.wrK n w).lt = g.lt := rfl
@[simp] theorem Group.wrK_live (g : Group) (n : Nat) (w : BitVec 32) : (g.wrK n w).live = g.live := rfl
@[simp] theorem Group.wrK_nq (g : Group) (n : Nat) (w : BitVec 32) : (g.wrK n w).nq = g.nq := rfl
@[simp] theorem Group.wrK_tq (g : Group) (n : Nat) (w : BitVec 32) : (g.wrK n w).tq = g.tq := rfl
@[simp] theorem Group.wrK_trapSel (g : Group) (n : Nat) (w : BitVec 32) : (g.wrK n w).trapSel = g.trapSel := rfl
@[simp] theorem Group.wrK_nextId (g : Group) (n : Nat) (w : BitVec 32) : (g.wrK n w).nextId = g.nextId := rfl
@[simp] theorem Group.wrK_flight (g : Group) (n : Nat) (w : BitVec 32) : (g.wrK n w).flight = g.flight := rfl
@[simp] theorem Group.wrK_snap (g : Group) (n : Nat) (w : BitVec 32) : (g.wrK n w).snap = g.snap := rfl
@[simp] theorem Group.wrK_trapSave (g : Group) (n : Nat) (w : BitVec 32) : (g.wrK n w).trapSave = g.trapSave := rfl
@[simp] theorem Group.wrK_trapLt (g : Group) (n : Nat) (w : BitVec 32) : (g.wrK n w).trapLt = g.trapLt := rfl
@[simp] theorem Group.wrK_trapLive (g : Group) (n : Nat) (w : BitVec 32) : (g.wrK n w).trapLive = g.trapLive := rfl
@[simp] theorem Group.wrK_holdLeft (g : Group) (n : Nat) (w : BitVec 32) : (g.wrK n w).holdLeft = g.holdLeft := rfl
@[simp] theorem Group.wrK_counted (g : Group) (n : Nat) (w : BitVec 32) : (g.wrK n w).counted = g.counted := rfl
@[simp] theorem Group.wrK_rmode (g : Group) (n : Nat) (w : BitVec 32) : (g.wrK n w).rmode = g.rmode := rfl
@[simp] theorem Group.wrK_rctr (g : Group) (n : Nat) (w : BitVec 32) : (g.wrK n w).rctr = g.rctr := rfl
@[simp] theorem Group.wrK_rbq (g : Group) (n : Nat) (w : BitVec 32) : (g.wrK n w).rbq = g.rbq := rfl
@[simp] theorem Group.wrK_sh (g : Group) (n : Nat) (w : BitVec 32) : (g.wrK n w).sh = g.sh := rfl
@[simp] theorem Group.wrK_ptr (g : Group) (n : Nat) (w : BitVec 32) : (g.wrK n w).ptr = g.ptr := rfl
@[simp] theorem Group.wrK_shPend (g : Group) (n : Nat) (w : BitVec 32) : (g.wrK n w).shPend = g.shPend := rfl
@[simp] theorem Group.wrK_ch (g : Group) (n : Nat) (w : BitVec 32) : (g.wrK n w).ch = g.ch := rfl
@[simp] theorem Group.wrK_bufNo (g : Group) (n : Nat) (w : BitVec 32) : (g.wrK n w).bufNo = g.bufNo := rfl
@[simp] theorem Group.wrK_hint (g : Group) (n : Nat) (w : BitVec 32) : (g.wrK n w).hint = g.hint := rfl
@[simp] theorem Group.wrK_seg (g : Group) (n : Nat) (w : BitVec 32) : (g.wrK n w).seg = g.seg := rfl
@[simp] theorem Group.wrK_hist (g : Group) (n : Nat) (w : BitVec 32) : (g.wrK n w).hist = g.hist := rfl
@[simp] theorem Group.wrK_bundles (g : Group) (n : Nat) (w : BitVec 32) : (g.wrK n w).bundles = g.bundles := rfl
@[simp] theorem Group.wrK_awaitBqe (g : Group) (n : Nat) (w : BitVec 32) : (g.wrK n w).awaitBqe = g.awaitBqe := rfl
@[simp] theorem Group.wrK_slotA (g : Group) (n : Nat) (w : BitVec 32) : (g.wrK n w).slotA = g.slotA := rfl
@[simp] theorem Group.wrK_slotX (g : Group) (n : Nat) (w : BitVec 32) : (g.wrK n w).slotX = g.slotX := rfl
@[simp] theorem Group.wrK_midA (g : Group) (n : Nat) (w : BitVec 32) : (g.wrK n w).midA = g.midA := rfl
@[simp] theorem Group.wrK_xNext (g : Group) (n : Nat) (w : BitVec 32) : (g.wrK n w).xNext = g.xNext := rfl
@[simp] theorem Group.wrK_atEntry (g : Group) (n : Nat) (w : BitVec 32) : (g.wrK n w).atEntry = g.atEntry := rfl
@[simp] theorem Group.wrK_segNext (g : Group) (n : Nat) (w : BitVec 32) : (g.wrK n w).segNext = g.segNext := rfl
@[simp] theorem Group.wrK_csrw (g : Group) (n : Nat) (w : BitVec 32) : (g.wrK n w).csrw = g.csrw := rfl
@[simp] theorem Group.wrK_saved (g : Group) (n : Nat) (w : BitVec 32) : (g.wrK n w).saved = g.saved := rfl
@[simp] theorem Group.wrK_endX (g : Group) (n : Nat) (w : BitVec 32) : (g.wrK n w).endX = g.endX := rfl
@[simp] theorem Group.wrK_endA (g : Group) (n : Nat) (w : BitVec 32) : (g.wrK n w).endA = g.endA := rfl
@[simp] theorem Group.wrK_trapPend (g : Group) (n : Nat) (w : BitVec 32) : (g.wrK n w).trapPend = g.trapPend := rfl
@[simp] theorem Group.wrK_heldA (g : Group) (n : Nat) (w : BitVec 32) : (g.wrK n w).heldA = g.heldA := rfl
@[simp] theorem Group.wrK_heldX (g : Group) (n : Nat) (w : BitVec 32) : (g.wrK n w).heldX = g.heldX := rfl
@[simp] theorem Group.wrK_needQuiet (g : Group) (n : Nat) (w : BitVec 32) : (g.wrK n w).needQuiet = g.needQuiet := rfl
@[simp] theorem Group.wrK_awr (g : Group) (n : Nat) (w : BitVec 32) : (g.wrK n w).awr = g.awr := rfl
@[simp] theorem Group.wrK_busy (g : Group) (n : Nat) (w : BitVec 32) : (g.wrK n w).busy = g.busy := rfl
@[simp] theorem Group.wrK_holds (g : Group) (n : Nat) (w : BitVec 32) : (g.wrK n w).holds = g.holds := rfl
@[simp] theorem Group.wrK_befR (g : Group) (n : Nat) (w : BitVec 32) : (g.wrK n w).befR = g.befR := rfl
@[simp] theorem Group.wrK_befW (g : Group) (n : Nat) (w : BitVec 32) : (g.wrK n w).befW = g.befW := rfl
@[simp] theorem Group.wrK_befE (g : Group) (n : Nat) (w : BitVec 32) : (g.wrK n w).befE = g.befE := rfl
@[simp] theorem Group.wrK_pageWait (g : Group) (n : Nat) (w : BitVec 32) : (g.wrK n w).pageWait = g.pageWait := rfl
@[simp] theorem Group.wrK_pageFail (g : Group) (n : Nat) (w : BitVec 32) : (g.wrK n w).pageFail = g.pageFail := rfl
@[simp] theorem Group.wrK_depCycle (g : Group) (n : Nat) (w : BitVec 32) : (g.wrK n w).depCycle = g.depCycle := rfl
@[simp] theorem Group.wrK_bwoken (g : Group) (n : Nat) (w : BitVec 32) : (g.wrK n w).bwoken = g.bwoken := rfl
@[simp] theorem Group.wrK_parked (g : Group) (n : Nat) (w : BitVec 32) : (g.wrK n w).parked = g.parked := rfl
@[simp] theorem Group.wrK_frozenAt (g : Group) (n : Nat) (w : BitVec 32) : (g.wrK n w).frozenAt = g.frozenAt := rfl
@[simp] theorem Group.wrK_yieldReq (g : Group) (n : Nat) (w : BitVec 32) : (g.wrK n w).yieldReq = g.yieldReq := rfl
@[simp] theorem Group.wrK_decplReq (g : Group) (n : Nat) (w : BitVec 32) : (g.wrK n w).decplReq = g.decplReq := rfl
@[simp] theorem Group.wrK_dead (g : Group) (n : Nat) (w : BitVec 32) : (g.wrK n w).dead = g.dead := rfl
@[simp] theorem Group.wrK_lateFault (g : Group) (n : Nat) (w : BitVec 32) : (g.wrK n w).lateFault = g.lateFault := rfl
@[simp] theorem Group.wrK_lastSlot (g : Group) (n : Nat) (w : BitVec 32) : (g.wrK n w).lastSlot = g.lastSlot := rfl
@[simp] theorem Group.wrK_followed (g : Group) (n : Nat) (w : BitVec 32) : (g.wrK n w).followed = g.followed := rfl
@[simp] theorem Group.wrK_errPend (g : Group) (n : Nat) (w : BitVec 32) : (g.wrK n w).errPend = g.errPend := rfl
@[simp] theorem Group.wrK_fault (g : Group) (n : Nat) (w : BitVec 32) : (g.wrK n w).fault = g.fault := rfl
@[simp] theorem Group.wrK_woken (g : Group) (n : Nat) (w : BitVec 32) : (g.wrK n w).woken = g.woken := rfl
@[simp] theorem Group.wrK_parkAt (g : Group) (n : Nat) (w : BitVec 32) : (g.wrK n w).parkAt = g.parkAt := rfl
@[simp] theorem Group.wrK_stallCode (g : Group) (n : Nat) (w : BitVec 32) : (g.wrK n w).stallCode = g.stallCode := rfl
@[simp] theorem Group.wrK_stallX (g : Group) (n : Nat) (w : BitVec 32) : (g.wrK n w).stallX = g.stallX := rfl

@[simp] theorem Group.setQs_gid (g : Group) (x : QueueSet) : (g.setQs x).gid = g.gid := by
  unfold Group.setQs; split <;> rfl
@[simp] theorem Group.setQs_ctx (g : Group) (x : QueueSet) : (g.setQs x).ctx = g.ctx := by
  unfold Group.setQs; split <;> rfl
@[simp] theorem Group.setQs_share (g : Group) (x : QueueSet) : (g.setQs x).share = g.share := by
  unfold Group.setQs; split <;> rfl
@[simp] theorem Group.setQs_step (g : Group) (x : QueueSet) : (g.setQs x).step = g.step := by
  unfold Group.setQs; split <;> rfl
@[simp] theorem Group.setQs_origin (g : Group) (x : QueueSet) : (g.setQs x).origin = g.origin := by
  unfold Group.setQs; split <;> rfl
@[simp] theorem Group.setQs_apc (g : Group) (x : QueueSet) : (g.setQs x).apc = g.apc := by
  unfold Group.setQs; split <;> rfl
@[simp] theorem Group.setQs_xpc (g : Group) (x : QueueSet) : (g.setQs x).xpc = g.xpc := by
  unfold Group.setQs; split <;> rfl
@[simp] theorem Group.setQs_gstat (g : Group) (x : QueueSet) : (g.setQs x).gstat = g.gstat := by
  unfold Group.setQs; split <;> rfl
@[simp] theorem Group.setQs_savStat (g : Group) (x : QueueSet) : (g.setQs x).savStat = g.savStat := by
  unfold Group.setQs; split <;> rfl
@[simp] theorem Group.setQs_savApc (g : Group) (x : QueueSet) : (g.setQs x).savApc = g.savApc := by
  unfold Group.setQs; split <;> rfl
@[simp] theorem Group.setQs_savXpc (g : Group) (x : QueueSet) : (g.setQs x).savXpc = g.savXpc := by
  unfold Group.setQs; split <;> rfl
@[simp] theorem Group.setQs_tvec (g : Group) (x : QueueSet) : (g.setQs x).tvec = g.tvec := by
  unfold Group.setQs; split <;> rfl
@[simp] theorem Group.setQs_a (g : Group) (x : QueueSet) : (g.setQs x).a = g.a := by
  unfold Group.setQs; split <;> rfl
@[simp] theorem Group.setQs_g (g : Group) (x : QueueSet) : (g.setQs x).g = g.g := by
  unfold Group.setQs; split <;> rfl
@[simp] theorem Group.setQs_k (g : Group) (x : QueueSet) : (g.setQs x).k = g.k := by
  unfold Group.setQs; split <;> rfl
@[simp] theorem Group.setQs_s (g : Group) (x : QueueSet) : (g.setQs x).s = g.s := by
  unfold Group.setQs; split <;> rfl
@[simp] theorem Group.setQs_v (g : Group) (x : QueueSet) : (g.setQs x).v = g.v := by
  unfold Group.setQs; split <;> rfl
@[simp] theorem Group.setQs_m (g : Group) (x : QueueSet) : (g.setQs x).m = g.m := by
  unfold Group.setQs; split <;> rfl
@[simp] theorem Group.setQs_mp (g : Group) (x : QueueSet) : (g.setQs x).mp = g.mp := by
  unfold Group.setQs; split <;> rfl
@[simp] theorem Group.setQs_lt (g : Group) (x : QueueSet) : (g.setQs x).lt = g.lt := by
  unfold Group.setQs; split <;> rfl
@[simp] theorem Group.setQs_live (g : Group) (x : QueueSet) : (g.setQs x).live = g.live := by
  unfold Group.setQs; split <;> rfl
@[simp] theorem Group.setQs_trapSel (g : Group) (x : QueueSet) : (g.setQs x).trapSel = g.trapSel := by
  unfold Group.setQs; split <;> rfl
@[simp] theorem Group.setQs_nextId (g : Group) (x : QueueSet) : (g.setQs x).nextId = g.nextId := by
  unfold Group.setQs; split <;> rfl
@[simp] theorem Group.setQs_flight (g : Group) (x : QueueSet) : (g.setQs x).flight = g.flight := by
  unfold Group.setQs; split <;> rfl
@[simp] theorem Group.setQs_snap (g : Group) (x : QueueSet) : (g.setQs x).snap = g.snap := by
  unfold Group.setQs; split <;> rfl
@[simp] theorem Group.setQs_trapSave (g : Group) (x : QueueSet) : (g.setQs x).trapSave = g.trapSave := by
  unfold Group.setQs; split <;> rfl
@[simp] theorem Group.setQs_trapLt (g : Group) (x : QueueSet) : (g.setQs x).trapLt = g.trapLt := by
  unfold Group.setQs; split <;> rfl
@[simp] theorem Group.setQs_trapLive (g : Group) (x : QueueSet) : (g.setQs x).trapLive = g.trapLive := by
  unfold Group.setQs; split <;> rfl
@[simp] theorem Group.setQs_holdLeft (g : Group) (x : QueueSet) : (g.setQs x).holdLeft = g.holdLeft := by
  unfold Group.setQs; split <;> rfl
@[simp] theorem Group.setQs_counted (g : Group) (x : QueueSet) : (g.setQs x).counted = g.counted := by
  unfold Group.setQs; split <;> rfl
@[simp] theorem Group.setQs_rmode (g : Group) (x : QueueSet) : (g.setQs x).rmode = g.rmode := by
  unfold Group.setQs; split <;> rfl
@[simp] theorem Group.setQs_rctr (g : Group) (x : QueueSet) : (g.setQs x).rctr = g.rctr := by
  unfold Group.setQs; split <;> rfl
@[simp] theorem Group.setQs_rbq (g : Group) (x : QueueSet) : (g.setQs x).rbq = g.rbq := by
  unfold Group.setQs; split <;> rfl
@[simp] theorem Group.setQs_sh (g : Group) (x : QueueSet) : (g.setQs x).sh = g.sh := by
  unfold Group.setQs; split <;> rfl
@[simp] theorem Group.setQs_ptr (g : Group) (x : QueueSet) : (g.setQs x).ptr = g.ptr := by
  unfold Group.setQs; split <;> rfl
@[simp] theorem Group.setQs_shPend (g : Group) (x : QueueSet) : (g.setQs x).shPend = g.shPend := by
  unfold Group.setQs; split <;> rfl
@[simp] theorem Group.setQs_ch (g : Group) (x : QueueSet) : (g.setQs x).ch = g.ch := by
  unfold Group.setQs; split <;> rfl
@[simp] theorem Group.setQs_bufNo (g : Group) (x : QueueSet) : (g.setQs x).bufNo = g.bufNo := by
  unfold Group.setQs; split <;> rfl
@[simp] theorem Group.setQs_hint (g : Group) (x : QueueSet) : (g.setQs x).hint = g.hint := by
  unfold Group.setQs; split <;> rfl
@[simp] theorem Group.setQs_seg (g : Group) (x : QueueSet) : (g.setQs x).seg = g.seg := by
  unfold Group.setQs; split <;> rfl
@[simp] theorem Group.setQs_hist (g : Group) (x : QueueSet) : (g.setQs x).hist = g.hist := by
  unfold Group.setQs; split <;> rfl
@[simp] theorem Group.setQs_bundles (g : Group) (x : QueueSet) : (g.setQs x).bundles = g.bundles := by
  unfold Group.setQs; split <;> rfl
@[simp] theorem Group.setQs_awaitBqe (g : Group) (x : QueueSet) : (g.setQs x).awaitBqe = g.awaitBqe := by
  unfold Group.setQs; split <;> rfl
@[simp] theorem Group.setQs_slotA (g : Group) (x : QueueSet) : (g.setQs x).slotA = g.slotA := by
  unfold Group.setQs; split <;> rfl
@[simp] theorem Group.setQs_slotX (g : Group) (x : QueueSet) : (g.setQs x).slotX = g.slotX := by
  unfold Group.setQs; split <;> rfl
@[simp] theorem Group.setQs_midA (g : Group) (x : QueueSet) : (g.setQs x).midA = g.midA := by
  unfold Group.setQs; split <;> rfl
@[simp] theorem Group.setQs_xNext (g : Group) (x : QueueSet) : (g.setQs x).xNext = g.xNext := by
  unfold Group.setQs; split <;> rfl
@[simp] theorem Group.setQs_atEntry (g : Group) (x : QueueSet) : (g.setQs x).atEntry = g.atEntry := by
  unfold Group.setQs; split <;> rfl
@[simp] theorem Group.setQs_segNext (g : Group) (x : QueueSet) : (g.setQs x).segNext = g.segNext := by
  unfold Group.setQs; split <;> rfl
@[simp] theorem Group.setQs_csrw (g : Group) (x : QueueSet) : (g.setQs x).csrw = g.csrw := by
  unfold Group.setQs; split <;> rfl
@[simp] theorem Group.setQs_saved (g : Group) (x : QueueSet) : (g.setQs x).saved = g.saved := by
  unfold Group.setQs; split <;> rfl
@[simp] theorem Group.setQs_endX (g : Group) (x : QueueSet) : (g.setQs x).endX = g.endX := by
  unfold Group.setQs; split <;> rfl
@[simp] theorem Group.setQs_endA (g : Group) (x : QueueSet) : (g.setQs x).endA = g.endA := by
  unfold Group.setQs; split <;> rfl
@[simp] theorem Group.setQs_trapPend (g : Group) (x : QueueSet) : (g.setQs x).trapPend = g.trapPend := by
  unfold Group.setQs; split <;> rfl
@[simp] theorem Group.setQs_heldA (g : Group) (x : QueueSet) : (g.setQs x).heldA = g.heldA := by
  unfold Group.setQs; split <;> rfl
@[simp] theorem Group.setQs_heldX (g : Group) (x : QueueSet) : (g.setQs x).heldX = g.heldX := by
  unfold Group.setQs; split <;> rfl
@[simp] theorem Group.setQs_needQuiet (g : Group) (x : QueueSet) : (g.setQs x).needQuiet = g.needQuiet := by
  unfold Group.setQs; split <;> rfl
@[simp] theorem Group.setQs_awr (g : Group) (x : QueueSet) : (g.setQs x).awr = g.awr := by
  unfold Group.setQs; split <;> rfl
@[simp] theorem Group.setQs_busy (g : Group) (x : QueueSet) : (g.setQs x).busy = g.busy := by
  unfold Group.setQs; split <;> rfl
@[simp] theorem Group.setQs_holds (g : Group) (x : QueueSet) : (g.setQs x).holds = g.holds := by
  unfold Group.setQs; split <;> rfl
@[simp] theorem Group.setQs_befR (g : Group) (x : QueueSet) : (g.setQs x).befR = g.befR := by
  unfold Group.setQs; split <;> rfl
@[simp] theorem Group.setQs_befW (g : Group) (x : QueueSet) : (g.setQs x).befW = g.befW := by
  unfold Group.setQs; split <;> rfl
@[simp] theorem Group.setQs_befE (g : Group) (x : QueueSet) : (g.setQs x).befE = g.befE := by
  unfold Group.setQs; split <;> rfl
@[simp] theorem Group.setQs_pageWait (g : Group) (x : QueueSet) : (g.setQs x).pageWait = g.pageWait := by
  unfold Group.setQs; split <;> rfl
@[simp] theorem Group.setQs_pageFail (g : Group) (x : QueueSet) : (g.setQs x).pageFail = g.pageFail := by
  unfold Group.setQs; split <;> rfl
@[simp] theorem Group.setQs_depCycle (g : Group) (x : QueueSet) : (g.setQs x).depCycle = g.depCycle := by
  unfold Group.setQs; split <;> rfl
@[simp] theorem Group.setQs_bwoken (g : Group) (x : QueueSet) : (g.setQs x).bwoken = g.bwoken := by
  unfold Group.setQs; split <;> rfl
@[simp] theorem Group.setQs_parked (g : Group) (x : QueueSet) : (g.setQs x).parked = g.parked := by
  unfold Group.setQs; split <;> rfl
@[simp] theorem Group.setQs_frozenAt (g : Group) (x : QueueSet) : (g.setQs x).frozenAt = g.frozenAt := by
  unfold Group.setQs; split <;> rfl
@[simp] theorem Group.setQs_yieldReq (g : Group) (x : QueueSet) : (g.setQs x).yieldReq = g.yieldReq := by
  unfold Group.setQs; split <;> rfl
@[simp] theorem Group.setQs_decplReq (g : Group) (x : QueueSet) : (g.setQs x).decplReq = g.decplReq := by
  unfold Group.setQs; split <;> rfl
@[simp] theorem Group.setQs_dead (g : Group) (x : QueueSet) : (g.setQs x).dead = g.dead := by
  unfold Group.setQs; split <;> rfl
@[simp] theorem Group.setQs_lateFault (g : Group) (x : QueueSet) : (g.setQs x).lateFault = g.lateFault := by
  unfold Group.setQs; split <;> rfl
@[simp] theorem Group.setQs_lastSlot (g : Group) (x : QueueSet) : (g.setQs x).lastSlot = g.lastSlot := by
  unfold Group.setQs; split <;> rfl
@[simp] theorem Group.setQs_followed (g : Group) (x : QueueSet) : (g.setQs x).followed = g.followed := by
  unfold Group.setQs; split <;> rfl
@[simp] theorem Group.setQs_errPend (g : Group) (x : QueueSet) : (g.setQs x).errPend = g.errPend := by
  unfold Group.setQs; split <;> rfl
@[simp] theorem Group.setQs_fault (g : Group) (x : QueueSet) : (g.setQs x).fault = g.fault := by
  unfold Group.setQs; split <;> rfl
@[simp] theorem Group.setQs_woken (g : Group) (x : QueueSet) : (g.setQs x).woken = g.woken := by
  unfold Group.setQs; split <;> rfl
@[simp] theorem Group.setQs_parkAt (g : Group) (x : QueueSet) : (g.setQs x).parkAt = g.parkAt := by
  unfold Group.setQs; split <;> rfl
@[simp] theorem Group.setQs_stallCode (g : Group) (x : QueueSet) : (g.setQs x).stallCode = g.stallCode := by
  unfold Group.setQs; split <;> rfl
@[simp] theorem Group.setQs_stallX (g : Group) (x : QueueSet) : (g.setQs x).stallX = g.stallX := by
  unfold Group.setQs; split <;> rfl

@[simp] theorem Group.reserve_gid (g : Group) (q : Nat) : (g.reserve q).2.gid = g.gid := Group.setQs_gid ..
@[simp] theorem Group.reserve_ctx (g : Group) (q : Nat) : (g.reserve q).2.ctx = g.ctx := Group.setQs_ctx ..
@[simp] theorem Group.reserve_share (g : Group) (q : Nat) : (g.reserve q).2.share = g.share := Group.setQs_share ..
@[simp] theorem Group.reserve_step (g : Group) (q : Nat) : (g.reserve q).2.step = g.step := Group.setQs_step ..
@[simp] theorem Group.reserve_origin (g : Group) (q : Nat) : (g.reserve q).2.origin = g.origin := Group.setQs_origin ..
@[simp] theorem Group.reserve_apc (g : Group) (q : Nat) : (g.reserve q).2.apc = g.apc := Group.setQs_apc ..
@[simp] theorem Group.reserve_xpc (g : Group) (q : Nat) : (g.reserve q).2.xpc = g.xpc := Group.setQs_xpc ..
@[simp] theorem Group.reserve_gstat (g : Group) (q : Nat) : (g.reserve q).2.gstat = g.gstat := Group.setQs_gstat ..
@[simp] theorem Group.reserve_savStat (g : Group) (q : Nat) : (g.reserve q).2.savStat = g.savStat := Group.setQs_savStat ..
@[simp] theorem Group.reserve_savApc (g : Group) (q : Nat) : (g.reserve q).2.savApc = g.savApc := Group.setQs_savApc ..
@[simp] theorem Group.reserve_savXpc (g : Group) (q : Nat) : (g.reserve q).2.savXpc = g.savXpc := Group.setQs_savXpc ..
@[simp] theorem Group.reserve_tvec (g : Group) (q : Nat) : (g.reserve q).2.tvec = g.tvec := Group.setQs_tvec ..
@[simp] theorem Group.reserve_a (g : Group) (q : Nat) : (g.reserve q).2.a = g.a := Group.setQs_a ..
@[simp] theorem Group.reserve_g (g : Group) (q : Nat) : (g.reserve q).2.g = g.g := Group.setQs_g ..
@[simp] theorem Group.reserve_k (g : Group) (q : Nat) : (g.reserve q).2.k = g.k := Group.setQs_k ..
@[simp] theorem Group.reserve_s (g : Group) (q : Nat) : (g.reserve q).2.s = g.s := Group.setQs_s ..
@[simp] theorem Group.reserve_v (g : Group) (q : Nat) : (g.reserve q).2.v = g.v := Group.setQs_v ..
@[simp] theorem Group.reserve_m (g : Group) (q : Nat) : (g.reserve q).2.m = g.m := Group.setQs_m ..
@[simp] theorem Group.reserve_mp (g : Group) (q : Nat) : (g.reserve q).2.mp = g.mp := Group.setQs_mp ..
@[simp] theorem Group.reserve_lt (g : Group) (q : Nat) : (g.reserve q).2.lt = g.lt := Group.setQs_lt ..
@[simp] theorem Group.reserve_live (g : Group) (q : Nat) : (g.reserve q).2.live = g.live := Group.setQs_live ..
@[simp] theorem Group.reserve_trapSel (g : Group) (q : Nat) : (g.reserve q).2.trapSel = g.trapSel := Group.setQs_trapSel ..
@[simp] theorem Group.reserve_flight (g : Group) (q : Nat) : (g.reserve q).2.flight = g.flight := Group.setQs_flight ..
@[simp] theorem Group.reserve_snap (g : Group) (q : Nat) : (g.reserve q).2.snap = g.snap := Group.setQs_snap ..
@[simp] theorem Group.reserve_trapSave (g : Group) (q : Nat) : (g.reserve q).2.trapSave = g.trapSave := Group.setQs_trapSave ..
@[simp] theorem Group.reserve_trapLt (g : Group) (q : Nat) : (g.reserve q).2.trapLt = g.trapLt := Group.setQs_trapLt ..
@[simp] theorem Group.reserve_trapLive (g : Group) (q : Nat) : (g.reserve q).2.trapLive = g.trapLive := Group.setQs_trapLive ..
@[simp] theorem Group.reserve_holdLeft (g : Group) (q : Nat) : (g.reserve q).2.holdLeft = g.holdLeft := Group.setQs_holdLeft ..
@[simp] theorem Group.reserve_counted (g : Group) (q : Nat) : (g.reserve q).2.counted = g.counted := Group.setQs_counted ..
@[simp] theorem Group.reserve_rmode (g : Group) (q : Nat) : (g.reserve q).2.rmode = g.rmode := Group.setQs_rmode ..
@[simp] theorem Group.reserve_rctr (g : Group) (q : Nat) : (g.reserve q).2.rctr = g.rctr := Group.setQs_rctr ..
@[simp] theorem Group.reserve_rbq (g : Group) (q : Nat) : (g.reserve q).2.rbq = g.rbq := Group.setQs_rbq ..
@[simp] theorem Group.reserve_sh (g : Group) (q : Nat) : (g.reserve q).2.sh = g.sh := Group.setQs_sh ..
@[simp] theorem Group.reserve_ptr (g : Group) (q : Nat) : (g.reserve q).2.ptr = g.ptr := Group.setQs_ptr ..
@[simp] theorem Group.reserve_shPend (g : Group) (q : Nat) : (g.reserve q).2.shPend = g.shPend := Group.setQs_shPend ..
@[simp] theorem Group.reserve_ch (g : Group) (q : Nat) : (g.reserve q).2.ch = g.ch := Group.setQs_ch ..
@[simp] theorem Group.reserve_bufNo (g : Group) (q : Nat) : (g.reserve q).2.bufNo = g.bufNo := Group.setQs_bufNo ..
@[simp] theorem Group.reserve_hint (g : Group) (q : Nat) : (g.reserve q).2.hint = g.hint := Group.setQs_hint ..
@[simp] theorem Group.reserve_seg (g : Group) (q : Nat) : (g.reserve q).2.seg = g.seg := Group.setQs_seg ..
@[simp] theorem Group.reserve_hist (g : Group) (q : Nat) : (g.reserve q).2.hist = g.hist := Group.setQs_hist ..
@[simp] theorem Group.reserve_bundles (g : Group) (q : Nat) : (g.reserve q).2.bundles = g.bundles := Group.setQs_bundles ..
@[simp] theorem Group.reserve_awaitBqe (g : Group) (q : Nat) : (g.reserve q).2.awaitBqe = g.awaitBqe := Group.setQs_awaitBqe ..
@[simp] theorem Group.reserve_slotA (g : Group) (q : Nat) : (g.reserve q).2.slotA = g.slotA := Group.setQs_slotA ..
@[simp] theorem Group.reserve_slotX (g : Group) (q : Nat) : (g.reserve q).2.slotX = g.slotX := Group.setQs_slotX ..
@[simp] theorem Group.reserve_midA (g : Group) (q : Nat) : (g.reserve q).2.midA = g.midA := Group.setQs_midA ..
@[simp] theorem Group.reserve_xNext (g : Group) (q : Nat) : (g.reserve q).2.xNext = g.xNext := Group.setQs_xNext ..
@[simp] theorem Group.reserve_atEntry (g : Group) (q : Nat) : (g.reserve q).2.atEntry = g.atEntry := Group.setQs_atEntry ..
@[simp] theorem Group.reserve_segNext (g : Group) (q : Nat) : (g.reserve q).2.segNext = g.segNext := Group.setQs_segNext ..
@[simp] theorem Group.reserve_csrw (g : Group) (q : Nat) : (g.reserve q).2.csrw = g.csrw := Group.setQs_csrw ..
@[simp] theorem Group.reserve_saved (g : Group) (q : Nat) : (g.reserve q).2.saved = g.saved := Group.setQs_saved ..
@[simp] theorem Group.reserve_endX (g : Group) (q : Nat) : (g.reserve q).2.endX = g.endX := Group.setQs_endX ..
@[simp] theorem Group.reserve_endA (g : Group) (q : Nat) : (g.reserve q).2.endA = g.endA := Group.setQs_endA ..
@[simp] theorem Group.reserve_trapPend (g : Group) (q : Nat) : (g.reserve q).2.trapPend = g.trapPend := Group.setQs_trapPend ..
@[simp] theorem Group.reserve_heldA (g : Group) (q : Nat) : (g.reserve q).2.heldA = g.heldA := Group.setQs_heldA ..
@[simp] theorem Group.reserve_heldX (g : Group) (q : Nat) : (g.reserve q).2.heldX = g.heldX := Group.setQs_heldX ..
@[simp] theorem Group.reserve_needQuiet (g : Group) (q : Nat) : (g.reserve q).2.needQuiet = g.needQuiet := Group.setQs_needQuiet ..
@[simp] theorem Group.reserve_awr (g : Group) (q : Nat) : (g.reserve q).2.awr = g.awr := Group.setQs_awr ..
@[simp] theorem Group.reserve_busy (g : Group) (q : Nat) : (g.reserve q).2.busy = g.busy := Group.setQs_busy ..
@[simp] theorem Group.reserve_holds (g : Group) (q : Nat) : (g.reserve q).2.holds = g.holds := Group.setQs_holds ..
@[simp] theorem Group.reserve_befR (g : Group) (q : Nat) : (g.reserve q).2.befR = g.befR := Group.setQs_befR ..
@[simp] theorem Group.reserve_befW (g : Group) (q : Nat) : (g.reserve q).2.befW = g.befW := Group.setQs_befW ..
@[simp] theorem Group.reserve_befE (g : Group) (q : Nat) : (g.reserve q).2.befE = g.befE := Group.setQs_befE ..
@[simp] theorem Group.reserve_pageWait (g : Group) (q : Nat) : (g.reserve q).2.pageWait = g.pageWait := Group.setQs_pageWait ..
@[simp] theorem Group.reserve_pageFail (g : Group) (q : Nat) : (g.reserve q).2.pageFail = g.pageFail := Group.setQs_pageFail ..
@[simp] theorem Group.reserve_depCycle (g : Group) (q : Nat) : (g.reserve q).2.depCycle = g.depCycle := Group.setQs_depCycle ..
@[simp] theorem Group.reserve_bwoken (g : Group) (q : Nat) : (g.reserve q).2.bwoken = g.bwoken := Group.setQs_bwoken ..
@[simp] theorem Group.reserve_parked (g : Group) (q : Nat) : (g.reserve q).2.parked = g.parked := Group.setQs_parked ..
@[simp] theorem Group.reserve_frozenAt (g : Group) (q : Nat) : (g.reserve q).2.frozenAt = g.frozenAt := Group.setQs_frozenAt ..
@[simp] theorem Group.reserve_yieldReq (g : Group) (q : Nat) : (g.reserve q).2.yieldReq = g.yieldReq := Group.setQs_yieldReq ..
@[simp] theorem Group.reserve_decplReq (g : Group) (q : Nat) : (g.reserve q).2.decplReq = g.decplReq := Group.setQs_decplReq ..
@[simp] theorem Group.reserve_dead (g : Group) (q : Nat) : (g.reserve q).2.dead = g.dead := Group.setQs_dead ..
@[simp] theorem Group.reserve_lateFault (g : Group) (q : Nat) : (g.reserve q).2.lateFault = g.lateFault := Group.setQs_lateFault ..
@[simp] theorem Group.reserve_lastSlot (g : Group) (q : Nat) : (g.reserve q).2.lastSlot = g.lastSlot := Group.setQs_lastSlot ..
@[simp] theorem Group.reserve_followed (g : Group) (q : Nat) : (g.reserve q).2.followed = g.followed := Group.setQs_followed ..
@[simp] theorem Group.reserve_errPend (g : Group) (q : Nat) : (g.reserve q).2.errPend = g.errPend := Group.setQs_errPend ..
@[simp] theorem Group.reserve_fault (g : Group) (q : Nat) : (g.reserve q).2.fault = g.fault := Group.setQs_fault ..
@[simp] theorem Group.reserve_woken (g : Group) (q : Nat) : (g.reserve q).2.woken = g.woken := Group.setQs_woken ..
@[simp] theorem Group.reserve_parkAt (g : Group) (q : Nat) : (g.reserve q).2.parkAt = g.parkAt := Group.setQs_parkAt ..
@[simp] theorem Group.reserve_stallCode (g : Group) (q : Nat) : (g.reserve q).2.stallCode = g.stallCode := Group.setQs_stallCode ..
@[simp] theorem Group.reserve_stallX (g : Group) (q : Nat) : (g.reserve q).2.stallX = g.stallX := Group.setQs_stallX ..

@[simp] theorem Group.pop_gid (g : Group) (q : Nat) : (g.pop q).2.gid = g.gid := by
  unfold Group.pop; split <;> simp [Group.setQueue]
@[simp] theorem Group.pop_ctx (g : Group) (q : Nat) : (g.pop q).2.ctx = g.ctx := by
  unfold Group.pop; split <;> simp [Group.setQueue]
@[simp] theorem Group.pop_share (g : Group) (q : Nat) : (g.pop q).2.share = g.share := by
  unfold Group.pop; split <;> simp [Group.setQueue]
@[simp] theorem Group.pop_step (g : Group) (q : Nat) : (g.pop q).2.step = g.step := by
  unfold Group.pop; split <;> simp [Group.setQueue]
@[simp] theorem Group.pop_origin (g : Group) (q : Nat) : (g.pop q).2.origin = g.origin := by
  unfold Group.pop; split <;> simp [Group.setQueue]
@[simp] theorem Group.pop_apc (g : Group) (q : Nat) : (g.pop q).2.apc = g.apc := by
  unfold Group.pop; split <;> simp [Group.setQueue]
@[simp] theorem Group.pop_xpc (g : Group) (q : Nat) : (g.pop q).2.xpc = g.xpc := by
  unfold Group.pop; split <;> simp [Group.setQueue]
@[simp] theorem Group.pop_gstat (g : Group) (q : Nat) : (g.pop q).2.gstat = g.gstat := by
  unfold Group.pop; split <;> simp [Group.setQueue]
@[simp] theorem Group.pop_savStat (g : Group) (q : Nat) : (g.pop q).2.savStat = g.savStat := by
  unfold Group.pop; split <;> simp [Group.setQueue]
@[simp] theorem Group.pop_savApc (g : Group) (q : Nat) : (g.pop q).2.savApc = g.savApc := by
  unfold Group.pop; split <;> simp [Group.setQueue]
@[simp] theorem Group.pop_savXpc (g : Group) (q : Nat) : (g.pop q).2.savXpc = g.savXpc := by
  unfold Group.pop; split <;> simp [Group.setQueue]
@[simp] theorem Group.pop_tvec (g : Group) (q : Nat) : (g.pop q).2.tvec = g.tvec := by
  unfold Group.pop; split <;> simp [Group.setQueue]
@[simp] theorem Group.pop_a (g : Group) (q : Nat) : (g.pop q).2.a = g.a := by
  unfold Group.pop; split <;> simp [Group.setQueue]
@[simp] theorem Group.pop_g (g : Group) (q : Nat) : (g.pop q).2.g = g.g := by
  unfold Group.pop; split <;> simp [Group.setQueue]
@[simp] theorem Group.pop_k (g : Group) (q : Nat) : (g.pop q).2.k = g.k := by
  unfold Group.pop; split <;> simp [Group.setQueue]
@[simp] theorem Group.pop_s (g : Group) (q : Nat) : (g.pop q).2.s = g.s := by
  unfold Group.pop; split <;> simp [Group.setQueue]
@[simp] theorem Group.pop_v (g : Group) (q : Nat) : (g.pop q).2.v = g.v := by
  unfold Group.pop; split <;> simp [Group.setQueue]
@[simp] theorem Group.pop_m (g : Group) (q : Nat) : (g.pop q).2.m = g.m := by
  unfold Group.pop; split <;> simp [Group.setQueue]
@[simp] theorem Group.pop_mp (g : Group) (q : Nat) : (g.pop q).2.mp = g.mp := by
  unfold Group.pop; split <;> simp [Group.setQueue]
@[simp] theorem Group.pop_lt (g : Group) (q : Nat) : (g.pop q).2.lt = g.lt := by
  unfold Group.pop; split <;> simp [Group.setQueue]
@[simp] theorem Group.pop_live (g : Group) (q : Nat) : (g.pop q).2.live = g.live := by
  unfold Group.pop; split <;> simp [Group.setQueue]
@[simp] theorem Group.pop_trapSel (g : Group) (q : Nat) : (g.pop q).2.trapSel = g.trapSel := by
  unfold Group.pop; split <;> simp [Group.setQueue]
@[simp] theorem Group.pop_nextId (g : Group) (q : Nat) : (g.pop q).2.nextId = g.nextId := by
  unfold Group.pop; split <;> simp [Group.setQueue]
@[simp] theorem Group.pop_flight (g : Group) (q : Nat) : (g.pop q).2.flight = g.flight := by
  unfold Group.pop; split <;> simp [Group.setQueue]
@[simp] theorem Group.pop_snap (g : Group) (q : Nat) : (g.pop q).2.snap = g.snap := by
  unfold Group.pop; split <;> simp [Group.setQueue]
@[simp] theorem Group.pop_trapSave (g : Group) (q : Nat) : (g.pop q).2.trapSave = g.trapSave := by
  unfold Group.pop; split <;> simp [Group.setQueue]
@[simp] theorem Group.pop_trapLt (g : Group) (q : Nat) : (g.pop q).2.trapLt = g.trapLt := by
  unfold Group.pop; split <;> simp [Group.setQueue]
@[simp] theorem Group.pop_trapLive (g : Group) (q : Nat) : (g.pop q).2.trapLive = g.trapLive := by
  unfold Group.pop; split <;> simp [Group.setQueue]
@[simp] theorem Group.pop_holdLeft (g : Group) (q : Nat) : (g.pop q).2.holdLeft = g.holdLeft := by
  unfold Group.pop; split <;> simp [Group.setQueue]
@[simp] theorem Group.pop_counted (g : Group) (q : Nat) : (g.pop q).2.counted = g.counted := by
  unfold Group.pop; split <;> simp [Group.setQueue]
@[simp] theorem Group.pop_rmode (g : Group) (q : Nat) : (g.pop q).2.rmode = g.rmode := by
  unfold Group.pop; split <;> simp [Group.setQueue]
@[simp] theorem Group.pop_rctr (g : Group) (q : Nat) : (g.pop q).2.rctr = g.rctr := by
  unfold Group.pop; split <;> simp [Group.setQueue]
@[simp] theorem Group.pop_rbq (g : Group) (q : Nat) : (g.pop q).2.rbq = g.rbq := by
  unfold Group.pop; split <;> simp [Group.setQueue]
@[simp] theorem Group.pop_sh (g : Group) (q : Nat) : (g.pop q).2.sh = g.sh := by
  unfold Group.pop; split <;> simp [Group.setQueue]
@[simp] theorem Group.pop_ptr (g : Group) (q : Nat) : (g.pop q).2.ptr = g.ptr := by
  unfold Group.pop; split <;> simp [Group.setQueue]
@[simp] theorem Group.pop_shPend (g : Group) (q : Nat) : (g.pop q).2.shPend = g.shPend := by
  unfold Group.pop; split <;> simp [Group.setQueue]
@[simp] theorem Group.pop_ch (g : Group) (q : Nat) : (g.pop q).2.ch = g.ch := by
  unfold Group.pop; split <;> simp [Group.setQueue]
@[simp] theorem Group.pop_bufNo (g : Group) (q : Nat) : (g.pop q).2.bufNo = g.bufNo := by
  unfold Group.pop; split <;> simp [Group.setQueue]
@[simp] theorem Group.pop_hint (g : Group) (q : Nat) : (g.pop q).2.hint = g.hint := by
  unfold Group.pop; split <;> simp [Group.setQueue]
@[simp] theorem Group.pop_seg (g : Group) (q : Nat) : (g.pop q).2.seg = g.seg := by
  unfold Group.pop; split <;> simp [Group.setQueue]
@[simp] theorem Group.pop_hist (g : Group) (q : Nat) : (g.pop q).2.hist = g.hist := by
  unfold Group.pop; split <;> simp [Group.setQueue]
@[simp] theorem Group.pop_bundles (g : Group) (q : Nat) : (g.pop q).2.bundles = g.bundles := by
  unfold Group.pop; split <;> simp [Group.setQueue]
@[simp] theorem Group.pop_awaitBqe (g : Group) (q : Nat) : (g.pop q).2.awaitBqe = g.awaitBqe := by
  unfold Group.pop; split <;> simp [Group.setQueue]
@[simp] theorem Group.pop_slotA (g : Group) (q : Nat) : (g.pop q).2.slotA = g.slotA := by
  unfold Group.pop; split <;> simp [Group.setQueue]
@[simp] theorem Group.pop_slotX (g : Group) (q : Nat) : (g.pop q).2.slotX = g.slotX := by
  unfold Group.pop; split <;> simp [Group.setQueue]
@[simp] theorem Group.pop_midA (g : Group) (q : Nat) : (g.pop q).2.midA = g.midA := by
  unfold Group.pop; split <;> simp [Group.setQueue]
@[simp] theorem Group.pop_xNext (g : Group) (q : Nat) : (g.pop q).2.xNext = g.xNext := by
  unfold Group.pop; split <;> simp [Group.setQueue]
@[simp] theorem Group.pop_atEntry (g : Group) (q : Nat) : (g.pop q).2.atEntry = g.atEntry := by
  unfold Group.pop; split <;> simp [Group.setQueue]
@[simp] theorem Group.pop_segNext (g : Group) (q : Nat) : (g.pop q).2.segNext = g.segNext := by
  unfold Group.pop; split <;> simp [Group.setQueue]
@[simp] theorem Group.pop_csrw (g : Group) (q : Nat) : (g.pop q).2.csrw = g.csrw := by
  unfold Group.pop; split <;> simp [Group.setQueue]
@[simp] theorem Group.pop_saved (g : Group) (q : Nat) : (g.pop q).2.saved = g.saved := by
  unfold Group.pop; split <;> simp [Group.setQueue]
@[simp] theorem Group.pop_endX (g : Group) (q : Nat) : (g.pop q).2.endX = g.endX := by
  unfold Group.pop; split <;> simp [Group.setQueue]
@[simp] theorem Group.pop_endA (g : Group) (q : Nat) : (g.pop q).2.endA = g.endA := by
  unfold Group.pop; split <;> simp [Group.setQueue]
@[simp] theorem Group.pop_trapPend (g : Group) (q : Nat) : (g.pop q).2.trapPend = g.trapPend := by
  unfold Group.pop; split <;> simp [Group.setQueue]
@[simp] theorem Group.pop_heldA (g : Group) (q : Nat) : (g.pop q).2.heldA = g.heldA := by
  unfold Group.pop; split <;> simp [Group.setQueue]
@[simp] theorem Group.pop_heldX (g : Group) (q : Nat) : (g.pop q).2.heldX = g.heldX := by
  unfold Group.pop; split <;> simp [Group.setQueue]
@[simp] theorem Group.pop_needQuiet (g : Group) (q : Nat) : (g.pop q).2.needQuiet = g.needQuiet := by
  unfold Group.pop; split <;> simp [Group.setQueue]
@[simp] theorem Group.pop_awr (g : Group) (q : Nat) : (g.pop q).2.awr = g.awr := by
  unfold Group.pop; split <;> simp [Group.setQueue]
@[simp] theorem Group.pop_busy (g : Group) (q : Nat) : (g.pop q).2.busy = g.busy := by
  unfold Group.pop; split <;> simp [Group.setQueue]
@[simp] theorem Group.pop_holds (g : Group) (q : Nat) : (g.pop q).2.holds = g.holds := by
  unfold Group.pop; split <;> simp [Group.setQueue]
@[simp] theorem Group.pop_befR (g : Group) (q : Nat) : (g.pop q).2.befR = g.befR := by
  unfold Group.pop; split <;> simp [Group.setQueue]
@[simp] theorem Group.pop_befW (g : Group) (q : Nat) : (g.pop q).2.befW = g.befW := by
  unfold Group.pop; split <;> simp [Group.setQueue]
@[simp] theorem Group.pop_befE (g : Group) (q : Nat) : (g.pop q).2.befE = g.befE := by
  unfold Group.pop; split <;> simp [Group.setQueue]
@[simp] theorem Group.pop_pageWait (g : Group) (q : Nat) : (g.pop q).2.pageWait = g.pageWait := by
  unfold Group.pop; split <;> simp [Group.setQueue]
@[simp] theorem Group.pop_pageFail (g : Group) (q : Nat) : (g.pop q).2.pageFail = g.pageFail := by
  unfold Group.pop; split <;> simp [Group.setQueue]
@[simp] theorem Group.pop_depCycle (g : Group) (q : Nat) : (g.pop q).2.depCycle = g.depCycle := by
  unfold Group.pop; split <;> simp [Group.setQueue]
@[simp] theorem Group.pop_bwoken (g : Group) (q : Nat) : (g.pop q).2.bwoken = g.bwoken := by
  unfold Group.pop; split <;> simp [Group.setQueue]
@[simp] theorem Group.pop_parked (g : Group) (q : Nat) : (g.pop q).2.parked = g.parked := by
  unfold Group.pop; split <;> simp [Group.setQueue]
@[simp] theorem Group.pop_frozenAt (g : Group) (q : Nat) : (g.pop q).2.frozenAt = g.frozenAt := by
  unfold Group.pop; split <;> simp [Group.setQueue]
@[simp] theorem Group.pop_yieldReq (g : Group) (q : Nat) : (g.pop q).2.yieldReq = g.yieldReq := by
  unfold Group.pop; split <;> simp [Group.setQueue]
@[simp] theorem Group.pop_decplReq (g : Group) (q : Nat) : (g.pop q).2.decplReq = g.decplReq := by
  unfold Group.pop; split <;> simp [Group.setQueue]
@[simp] theorem Group.pop_dead (g : Group) (q : Nat) : (g.pop q).2.dead = g.dead := by
  unfold Group.pop; split <;> simp [Group.setQueue]
@[simp] theorem Group.pop_lateFault (g : Group) (q : Nat) : (g.pop q).2.lateFault = g.lateFault := by
  unfold Group.pop; split <;> simp [Group.setQueue]
@[simp] theorem Group.pop_lastSlot (g : Group) (q : Nat) : (g.pop q).2.lastSlot = g.lastSlot := by
  unfold Group.pop; split <;> simp [Group.setQueue]
@[simp] theorem Group.pop_followed (g : Group) (q : Nat) : (g.pop q).2.followed = g.followed := by
  unfold Group.pop; split <;> simp [Group.setQueue]
@[simp] theorem Group.pop_errPend (g : Group) (q : Nat) : (g.pop q).2.errPend = g.errPend := by
  unfold Group.pop; split <;> simp [Group.setQueue]
@[simp] theorem Group.pop_fault (g : Group) (q : Nat) : (g.pop q).2.fault = g.fault := by
  unfold Group.pop; split <;> simp [Group.setQueue]
@[simp] theorem Group.pop_woken (g : Group) (q : Nat) : (g.pop q).2.woken = g.woken := by
  unfold Group.pop; split <;> simp [Group.setQueue]
@[simp] theorem Group.pop_parkAt (g : Group) (q : Nat) : (g.pop q).2.parkAt = g.parkAt := by
  unfold Group.pop; split <;> simp [Group.setQueue]
@[simp] theorem Group.pop_stallCode (g : Group) (q : Nat) : (g.pop q).2.stallCode = g.stallCode := by
  unfold Group.pop; split <;> simp [Group.setQueue]
@[simp] theorem Group.pop_stallX (g : Group) (q : Nat) : (g.pop q).2.stallX = g.stallX := by
  unfold Group.pop; split <;> simp [Group.setQueue]

@[simp] theorem Group.fill_gid (g : Group) (q id : Nat) (v : VReg) : (g.fill q id v).gid = g.gid := rfl
@[simp] theorem Group.fill_ctx (g : Group) (q id : Nat) (v : VReg) : (g.fill q id v).ctx = g.ctx := rfl
@[simp] theorem Group.fill_share (g : Group) (q id : Nat) (v : VReg) : (g.fill q id v).share = g.share := rfl
@[simp] theorem Group.fill_step (g : Group) (q id : Nat) (v : VReg) : (g.fill q id v).step = g.step := rfl
@[simp] theorem Group.fill_origin (g : Group) (q id : Nat) (v : VReg) : (g.fill q id v).origin = g.origin := rfl
@[simp] theorem Group.fill_apc (g : Group) (q id : Nat) (v : VReg) : (g.fill q id v).apc = g.apc := rfl
@[simp] theorem Group.fill_xpc (g : Group) (q id : Nat) (v : VReg) : (g.fill q id v).xpc = g.xpc := rfl
@[simp] theorem Group.fill_gstat (g : Group) (q id : Nat) (v : VReg) : (g.fill q id v).gstat = g.gstat := rfl
@[simp] theorem Group.fill_savStat (g : Group) (q id : Nat) (v : VReg) : (g.fill q id v).savStat = g.savStat := rfl
@[simp] theorem Group.fill_savApc (g : Group) (q id : Nat) (v : VReg) : (g.fill q id v).savApc = g.savApc := rfl
@[simp] theorem Group.fill_savXpc (g : Group) (q id : Nat) (v : VReg) : (g.fill q id v).savXpc = g.savXpc := rfl
@[simp] theorem Group.fill_tvec (g : Group) (q id : Nat) (v : VReg) : (g.fill q id v).tvec = g.tvec := rfl
@[simp] theorem Group.fill_a (g : Group) (q id : Nat) (v : VReg) : (g.fill q id v).a = g.a := rfl
@[simp] theorem Group.fill_g (g : Group) (q id : Nat) (v : VReg) : (g.fill q id v).g = g.g := rfl
@[simp] theorem Group.fill_k (g : Group) (q id : Nat) (v : VReg) : (g.fill q id v).k = g.k := rfl
@[simp] theorem Group.fill_s (g : Group) (q id : Nat) (v : VReg) : (g.fill q id v).s = g.s := rfl
@[simp] theorem Group.fill_v (g : Group) (q id : Nat) (v : VReg) : (g.fill q id v).v = g.v := rfl
@[simp] theorem Group.fill_m (g : Group) (q id : Nat) (v : VReg) : (g.fill q id v).m = g.m := rfl
@[simp] theorem Group.fill_mp (g : Group) (q id : Nat) (v : VReg) : (g.fill q id v).mp = g.mp := rfl
@[simp] theorem Group.fill_lt (g : Group) (q id : Nat) (v : VReg) : (g.fill q id v).lt = g.lt := rfl
@[simp] theorem Group.fill_live (g : Group) (q id : Nat) (v : VReg) : (g.fill q id v).live = g.live := rfl
@[simp] theorem Group.fill_trapSel (g : Group) (q id : Nat) (v : VReg) : (g.fill q id v).trapSel = g.trapSel := rfl
@[simp] theorem Group.fill_nextId (g : Group) (q id : Nat) (v : VReg) : (g.fill q id v).nextId = g.nextId := rfl
@[simp] theorem Group.fill_flight (g : Group) (q id : Nat) (v : VReg) : (g.fill q id v).flight = g.flight := rfl
@[simp] theorem Group.fill_snap (g : Group) (q id : Nat) (v : VReg) : (g.fill q id v).snap = g.snap := rfl
@[simp] theorem Group.fill_trapSave (g : Group) (q id : Nat) (v : VReg) : (g.fill q id v).trapSave = g.trapSave := rfl
@[simp] theorem Group.fill_trapLt (g : Group) (q id : Nat) (v : VReg) : (g.fill q id v).trapLt = g.trapLt := rfl
@[simp] theorem Group.fill_trapLive (g : Group) (q id : Nat) (v : VReg) : (g.fill q id v).trapLive = g.trapLive := rfl
@[simp] theorem Group.fill_holdLeft (g : Group) (q id : Nat) (v : VReg) : (g.fill q id v).holdLeft = g.holdLeft := rfl
@[simp] theorem Group.fill_counted (g : Group) (q id : Nat) (v : VReg) : (g.fill q id v).counted = g.counted := rfl
@[simp] theorem Group.fill_rmode (g : Group) (q id : Nat) (v : VReg) : (g.fill q id v).rmode = g.rmode := rfl
@[simp] theorem Group.fill_rctr (g : Group) (q id : Nat) (v : VReg) : (g.fill q id v).rctr = g.rctr := rfl
@[simp] theorem Group.fill_rbq (g : Group) (q id : Nat) (v : VReg) : (g.fill q id v).rbq = g.rbq := rfl
@[simp] theorem Group.fill_sh (g : Group) (q id : Nat) (v : VReg) : (g.fill q id v).sh = g.sh := rfl
@[simp] theorem Group.fill_ptr (g : Group) (q id : Nat) (v : VReg) : (g.fill q id v).ptr = g.ptr := rfl
@[simp] theorem Group.fill_shPend (g : Group) (q id : Nat) (v : VReg) : (g.fill q id v).shPend = g.shPend := rfl
@[simp] theorem Group.fill_ch (g : Group) (q id : Nat) (v : VReg) : (g.fill q id v).ch = g.ch := rfl
@[simp] theorem Group.fill_bufNo (g : Group) (q id : Nat) (v : VReg) : (g.fill q id v).bufNo = g.bufNo := rfl
@[simp] theorem Group.fill_hint (g : Group) (q id : Nat) (v : VReg) : (g.fill q id v).hint = g.hint := rfl
@[simp] theorem Group.fill_seg (g : Group) (q id : Nat) (v : VReg) : (g.fill q id v).seg = g.seg := rfl
@[simp] theorem Group.fill_hist (g : Group) (q id : Nat) (v : VReg) : (g.fill q id v).hist = g.hist := rfl
@[simp] theorem Group.fill_bundles (g : Group) (q id : Nat) (v : VReg) : (g.fill q id v).bundles = g.bundles := rfl
@[simp] theorem Group.fill_awaitBqe (g : Group) (q id : Nat) (v : VReg) : (g.fill q id v).awaitBqe = g.awaitBqe := rfl
@[simp] theorem Group.fill_slotA (g : Group) (q id : Nat) (v : VReg) : (g.fill q id v).slotA = g.slotA := rfl
@[simp] theorem Group.fill_slotX (g : Group) (q id : Nat) (v : VReg) : (g.fill q id v).slotX = g.slotX := rfl
@[simp] theorem Group.fill_midA (g : Group) (q id : Nat) (v : VReg) : (g.fill q id v).midA = g.midA := rfl
@[simp] theorem Group.fill_xNext (g : Group) (q id : Nat) (v : VReg) : (g.fill q id v).xNext = g.xNext := rfl
@[simp] theorem Group.fill_atEntry (g : Group) (q id : Nat) (v : VReg) : (g.fill q id v).atEntry = g.atEntry := rfl
@[simp] theorem Group.fill_segNext (g : Group) (q id : Nat) (v : VReg) : (g.fill q id v).segNext = g.segNext := rfl
@[simp] theorem Group.fill_csrw (g : Group) (q id : Nat) (v : VReg) : (g.fill q id v).csrw = g.csrw := rfl
@[simp] theorem Group.fill_saved (g : Group) (q id : Nat) (v : VReg) : (g.fill q id v).saved = g.saved := rfl
@[simp] theorem Group.fill_endX (g : Group) (q id : Nat) (v : VReg) : (g.fill q id v).endX = g.endX := rfl
@[simp] theorem Group.fill_endA (g : Group) (q id : Nat) (v : VReg) : (g.fill q id v).endA = g.endA := rfl
@[simp] theorem Group.fill_trapPend (g : Group) (q id : Nat) (v : VReg) : (g.fill q id v).trapPend = g.trapPend := rfl
@[simp] theorem Group.fill_heldA (g : Group) (q id : Nat) (v : VReg) : (g.fill q id v).heldA = g.heldA := rfl
@[simp] theorem Group.fill_heldX (g : Group) (q id : Nat) (v : VReg) : (g.fill q id v).heldX = g.heldX := rfl
@[simp] theorem Group.fill_needQuiet (g : Group) (q id : Nat) (v : VReg) : (g.fill q id v).needQuiet = g.needQuiet := rfl
@[simp] theorem Group.fill_awr (g : Group) (q id : Nat) (v : VReg) : (g.fill q id v).awr = g.awr := rfl
@[simp] theorem Group.fill_busy (g : Group) (q id : Nat) (v : VReg) : (g.fill q id v).busy = g.busy := rfl
@[simp] theorem Group.fill_holds (g : Group) (q id : Nat) (v : VReg) : (g.fill q id v).holds = g.holds := rfl
@[simp] theorem Group.fill_befR (g : Group) (q id : Nat) (v : VReg) : (g.fill q id v).befR = g.befR := rfl
@[simp] theorem Group.fill_befW (g : Group) (q id : Nat) (v : VReg) : (g.fill q id v).befW = g.befW := rfl
@[simp] theorem Group.fill_befE (g : Group) (q id : Nat) (v : VReg) : (g.fill q id v).befE = g.befE := rfl
@[simp] theorem Group.fill_pageWait (g : Group) (q id : Nat) (v : VReg) : (g.fill q id v).pageWait = g.pageWait := rfl
@[simp] theorem Group.fill_pageFail (g : Group) (q id : Nat) (v : VReg) : (g.fill q id v).pageFail = g.pageFail := rfl
@[simp] theorem Group.fill_depCycle (g : Group) (q id : Nat) (v : VReg) : (g.fill q id v).depCycle = g.depCycle := rfl
@[simp] theorem Group.fill_bwoken (g : Group) (q id : Nat) (v : VReg) : (g.fill q id v).bwoken = g.bwoken := rfl
@[simp] theorem Group.fill_parked (g : Group) (q id : Nat) (v : VReg) : (g.fill q id v).parked = g.parked := rfl
@[simp] theorem Group.fill_frozenAt (g : Group) (q id : Nat) (v : VReg) : (g.fill q id v).frozenAt = g.frozenAt := rfl
@[simp] theorem Group.fill_yieldReq (g : Group) (q id : Nat) (v : VReg) : (g.fill q id v).yieldReq = g.yieldReq := rfl
@[simp] theorem Group.fill_decplReq (g : Group) (q id : Nat) (v : VReg) : (g.fill q id v).decplReq = g.decplReq := rfl
@[simp] theorem Group.fill_dead (g : Group) (q id : Nat) (v : VReg) : (g.fill q id v).dead = g.dead := rfl
@[simp] theorem Group.fill_lateFault (g : Group) (q id : Nat) (v : VReg) : (g.fill q id v).lateFault = g.lateFault := rfl
@[simp] theorem Group.fill_lastSlot (g : Group) (q id : Nat) (v : VReg) : (g.fill q id v).lastSlot = g.lastSlot := rfl
@[simp] theorem Group.fill_followed (g : Group) (q id : Nat) (v : VReg) : (g.fill q id v).followed = g.followed := rfl
@[simp] theorem Group.fill_errPend (g : Group) (q id : Nat) (v : VReg) : (g.fill q id v).errPend = g.errPend := rfl
@[simp] theorem Group.fill_fault (g : Group) (q id : Nat) (v : VReg) : (g.fill q id v).fault = g.fault := rfl
@[simp] theorem Group.fill_woken (g : Group) (q id : Nat) (v : VReg) : (g.fill q id v).woken = g.woken := rfl
@[simp] theorem Group.fill_parkAt (g : Group) (q id : Nat) (v : VReg) : (g.fill q id v).parkAt = g.parkAt := rfl
@[simp] theorem Group.fill_stallCode (g : Group) (q id : Nat) (v : VReg) : (g.fill q id v).stallCode = g.stallCode := rfl
@[simp] theorem Group.fill_stallX (g : Group) (q id : Nat) (v : VReg) : (g.fill q id v).stallX = g.stallX := rfl

end Sys2Proof.Machine
end

