-- ==== Sys2Proof/Safety.lean ====
section
/-!
DEFINITION. The terms in which statements speak of a step: a memory in its canonical form, a syllable whose checks and
guard let it act, an outcome that goes on, and what two states have in common.
-/
namespace Sys2Proof.Machine

/-! ## Memory -/

/-- The canonical form of a memory: addresses strictly rising, and no entry equal to what an unlisted address reads. -/
def Memory.wf (m : List Host.Cell) : Bool := Tab.wf 0 m

/-- Device memory, host memory and the memory of other devices are in their canonical form. -/
abbrev State.memWf (s : State) : Prop := Memory.wf s.mem = true ∧ Memory.wf s.host = true ∧ Memory.wf s.far = true

/-- Lines that no cache may hold are in none, and a clean line holds what stands behind it (R194, R197). -/
abbrev State.coherent (s : State) : Prop :=
  (∀ ln, s.uncached ln = true → s.cached ln = none) ∧
  (∀ ln l, s.cached ln = some l → l.dirty = false → l.data = s.backing ln)

/-! ## Outcomes -/

/-- The outcome goes on, to a state of which `p` holds. -/
abbrev Answers (o : Out) (p : State → Prop) : Prop := ∃ t, o = .next t ∧ p t

/-- A step never stops here. -/
abbrev Safe (o : Out) : Prop := Answers o (fun _ => True)

/-! ## Syllables that act -/

/-- In slot `slot` of the execute stream: no encoding error, and the guard holds (R60–R62). -/
abbrev OpenX (i : Instr) (y : Syl) (slot : Nat) (s : State) : Prop :=
  i.wf = true ∧ s.here.slot = slot ∧ slot < 4 ∧ s.me.guardX y.guard 0 = true

/-- In slot `slot` of the access stream. -/
abbrev OpenA (i : Instr) (y : Syl) (slot : Nat) (s : State) : Prop :=
  i.wf = true ∧ s.here.slot = slot ∧ 4 ≤ slot ∧ s.me.guardA y.guard 0 = true

/-- The core whose syllable is under way has a group in front. -/
abbrev State.seated (s : State) : Prop := (s.front s.here.core).isSome = true

/-- A group that is not fused, with no trap pending and both streams of it free to trap (R35, R49). -/
abbrev State.alone (s : State) (c : Nat) : Prop :=
  (s.front c).any (fun g => !g.gstat.fused && !g.gstat.valid && g.trapPend.isNone) = true

/-! ## What states have in common -/

/-- The registers that the streams' results land in (R25): the s, v, m and mp files, the latches and their liveness. -/
def sameExecute (g h : Group) : Prop :=
  g.s = h.s ∧ g.v = h.v ∧ g.m = h.m ∧ g.mp = h.mp ∧ g.lt = h.lt ∧ g.live = h.live

/-- The registers of the access stream: the a, g and k files and the shape registers. -/
def sameAccess (g h : Group) : Prop := g.a = h.a ∧ g.g = h.g ∧ g.k = h.k ∧ g.sh = h.sh ∧ g.ptr = h.ptr

/-- The registers that a trap saves into, the trap vector, the rounding mode and the random counter (R39, R113, R117). -/
def sameSpecial (g h : Group) : Prop :=
  g.savApc = h.savApc ∧ g.savXpc = h.savXpc ∧ g.savStat = h.savStat ∧ g.tvec = h.tvec ∧ g.rmode = h.rmode ∧ g.rctr = h.rctr

/-- The bytes and the cell tags of every memory: device, host and other devices. -/
def sameMemory (s t : State) : Prop :=
  t.mem = s.mem ∧ t.tags = s.tags ∧ t.host = s.host ∧ t.far = s.far ∧ t.farTags = s.farTags

/-- The operand store of every cluster. -/
def sameStores (s t : State) : Prop := ∀ c, (t.cluster c).os = (s.cluster c).os

/-- Every core but `c`. -/
def sameOthers (c : Nat) (s t : State) : Prop := ∀ d, d ≠ c → t.core d = s.core d

/-- Every field of the device but its cores, and the record of the syllable under way. -/
def sameDevice (s t : State) : Prop := { t with cores := s.cores, here := s.here } = s

end Sys2Proof.Machine
end

