-- ==== Sys2Proof/Certificates/Slice0/Obligations.lean ====
section
/-!
DEFINITION. The statements about this machine, one proposition each; OBLIGATIONS.json names and cites them. `Answers o p`
says that an instruction goes on to a state with `p`; `OpenX` and `OpenA` say that a syllable has no encoding error and
that its guard holds.
-/

open Sys2Proof Sys2Proof.Machine

/-! ## Encoding (R52–R56, R68, R77) -/

/-- Every well-formed syllable comes back from the word that encodes it, whatever its STOP bit. -/
def Obligations.DecodeOfEncode : Prop :=
  ∀ (stop : Bool) (i : Instr) (w : Word), i.wf = true → encode stop i = some w →
    decodeSyllable w = .ok i ∧ w.getLsbD 63 = stop

/-- A word that decodes is the word that its instruction encodes to: no bit of a syllable is dropped. Micro-op words and
micro-ops stand for one another. -/
def Obligations.EncodeOfDecode : Prop :=
  (
    ∀ (w : Word) (i : Instr), decodeSyllable w = .ok i → encode (w.getLsbD 63) i = some w) ∧
  (
    (∀ (i : Instr) (w : BitVec 32), encodeMicro i = some w → decodeMicro w = .ok i) ∧
    (∀ (w : BitVec 32) (i : Instr), decodeMicro w = .ok i → encodeMicro i = some w))

/-- The micro-opcode of a 32-bit micro-op word is its bits 31:28: the codes 0x0 to 0xD stand, in order, for STRM, STRC,
LST, SWP, ADV, ZERO, WAITB, ARRB, LP, EL, AINC, CHK, NOPM and RETM; a word with code 0xE or 0xF is no micro-op (R77). -/
def Obligations.MicroCodes : Prop :=
  let names : List (Instr → Bool) := [(· matches .strm ..), (· matches .strc ..), (· matches .lst ..), (· matches .swp),
    (· matches .adv), (· matches .zero), (· matches .waitb ..), (· matches .arrb ..),
    fun i => (i matches .lp _) || (i matches .lpReg _), (· matches .el), (· matches .ainc ..), (· matches .chk ..),
    (· matches .nopm), (· matches .retm)]
  let code := fun (w : BitVec 32) => (w.extractLsb' 28 4).toNat
  (∀ (w : BitVec 32) (i : Instr), decodeMicro w = .ok i → ∃ p, names[code w]? = some p ∧ p i = true) ∧
  (∀ k p, names[k]? = some p → ∃ w i, code w = k ∧ decodeMicro w = .ok i ∧ p i = true) ∧
  (∀ (w : BitVec 32) (i : Instr), 0xE ≤ code w → decodeMicro w ≠ .ok i)

/-- Words written out from the spec's layouts decode to the instructions that they stand for: one of each slot and of the
micro-ops, and two opcodes that no map lists. -/
def Obligations.DecodeWords : Prop :=
  -- li s1, 0xABCDEF; lim s1, s1, 0x456789; lit s1, s1, 0x123, with STOP (R52, R71, R90)
  decodeSyllable 0x8021010000ABCDEF = .ok (.li ⟨0, 0x01, 0x00, 0x00, 0xABCDEF⟩) ∧
  decodeSyllable 0x8022010100456789 = .ok (.lim ⟨0, 0x01, 0x01, 0x00, 0x456789⟩) ∧
  decodeSyllable 0x8023010100000123 = .ok (.lit ⟨0, 0x01, 0x01, 0x00, 0x000123⟩) ∧
  -- slots V0 and V1: VADD i32 of v1 and v2 to v3 under m1; M: MSWP (R72, R73)
  decodeSyllable 0x1100030102100000 = .ok (.vadd false ⟨1, 0x03, 0x01, 0x02, 0x100000⟩) ∧
  decodeSyllable 0xA100030102100000 = .ok (.vadd true ⟨1, 0x03, 0x01, 0x02, 0x100000⟩) ∧
  decodeSyllable 0xB002000000000000 = .ok (.mswp ⟨0, 0, 0, 0, 0⟩) ∧
  -- L, S, C, Y: LD, ST, SHWI, AADD (R74–R76)
  decodeSyllable 0xC000050200180040 = .ok (.ld ⟨0, 0x05, 0x02, 0x00, 0x180040⟩) ∧
  decodeSyllable 0xD000000207180040 = .ok (.st ⟨0, 0x00, 0x02, 0x07, 0x180040⟩) ∧
  decodeSyllable 0xE003000000041234 = .ok (.shwi ⟨0, 0, 0, 0, 0x041234⟩) ∧
  decodeSyllable 0xF903040506000000 = .ok (.aadd ⟨9, 0x04, 0x05, 0x06, 0⟩) ∧
  -- a pair syllable: bits 55:54 are ones (R68)
  decodeSyllable 0x80C2060A87031845 =
    .ok (.pair ⟨0, 2, 1, 0x41, 0x50, 0x38, 6, 0x18, 0x45⟩) ∧
  -- X opcode 0x1C and C opcode 0x0E are on no map (R71, R75)
  decodeSyllable 0x801C000000000000 = .error (.opcode 0 0x1C) ∧
  decodeSyllable 0xE00E000000000000 = .error (.opcode 6 0x0E) ∧
  -- NOPM, RETM, LP 7; micro-opcode 0xE (R77)
  decodeMicro 0xC0000000 = .ok .nopm ∧ decodeMicro 0xD0000000 = .ok .retm ∧ decodeMicro 0x80000007 = .ok (.lp 7) ∧
  decodeMicro 0xE0000000 = .error (.micro 0xE0000000)

/-- What decodes as a bundle is one: one to eight words, STOP on the last alone, slot tags strictly rising, and no V0
syllable beside a pair syllable (R54, R55). -/
def Obligations.BundleForm : Prop :=
  ∀ (word : Nat → Option Word) (l : List (Nat × Option Instr)), decodeBundle word = .ok l →
    1 ≤ l.length ∧ l.length ≤ 8 ∧ (l.map (·.1)).Pairwise (· < ·) ∧
    (∀ n x, l[n]? = some x → ∃ w, word n = some w ∧ x = ((w.part 60 3).toNat, (decodeSyllable w).toOption) ∧
      (w.getLsbD 63 = true ↔ n + 1 = l.length)) ∧
    ((∃ n w, n < l.length ∧ word n = some w ∧ w.part 60 3 = 0 ∧ w.part 54 2 = 0b11) → ∀ x ∈ l, x.1 ≠ 1)

/-! ## Steps -/

/-- No step stops: every state has a next one. Where it says more than the spec does, it states the model's own choice:
log entries 1 and 13. -/
def Obligations.EveryStepAnswers : Prop := ∀ s : State, ∃ t, step s = .next t

/-- When the turn is the execute stream's and the bundle at its address is one syllable of its own, the step is that
syllable's meaning and then the end of the bundle. The same of the access stream, after the outcome of an earlier transfer
has moved it. The array engine's turn runs the micro-op at its place in the routine; an event's turn runs the event,
unless start-up has failed or what it brings is left in a cluster's FIFO (R353, R442; log entry 121). A bundle of one
stream: its syllables run in slot order, each after the one before it has gone on, and those of the other stream are
passed over (R23). Where it says more than the spec does, it states the model's own choice: log entries 1, 2, 3 and 14. -/
def Obligations.StepRunsDecoded : Prop :=
  (
    ∀ (s : State) (c slot : Nat) (rest : List Turn) (g : Machine.Group) (i : Instr),
      s.agenda = .execute c :: rest → slot < 4 →
      let u := ({ s with agenda := rest } : State).boundary c
      let l : List (Nat × Option Instr) := [(slot, some i)]
      u.mayMove c = true → u.mustStop c false = false → u.front c = some g → u.members c = [c] →
      g.dead = none → g.trapPend = none → g.endX = false → g.holdLeft = 0 → u.frozen c false = 0 →
      u.bundle c g.xpc = .ok l → g.slotX ≤ slot →
      (g.slotX = 0 → g.latchLive = true → g.needQuiet = false ∧ g.gstat.lrun.toNat < 16) →
      let v := ((u.begin c false g.xpc l).each [c] (fun _ _ g => g.thawX)).enterX [c]
      step s = andThen (exec i { v with here := { v.here with core := c, slot := slot } })
        (closeX setCsr [c] u (g.xpc + 8) l)) ∧
  (
    ∀ (s : State) (c slot : Nat) (rest : List Turn) (g0 g : Machine.Group) (i : Instr),
      s.agenda = .access c :: rest → 4 ≤ slot →
      let u := ({ s with agenda := rest } : State).boundary c
      let l : List (Nat × Option Instr) := [(slot, some i)]
      u.mayMove c = true → u.mustStop c true = false → u.members c = [c] →
      let v := u.endHolds c
      v.front c = some g0 → g0.dead = none → g0.endA = false → g0.trapPend = none → v.frozen c true = 0 →
      let x := v.each [c] (fun _ _ g => g.followBqe)
      x.front c = some g → g.endA = false → g.lateFault = none → x.bundle c g.apc = .ok l → g.slotA ≤ slot →
      let z := x.enterA [c] c g.apc l
      step s = andThen (exec i { z with here := { z.here with core := c, slot := slot } })
        (closeA [c] x (g.apc + 8) l)) ∧
  (
    (∀ (s : State) (c : Nat) (rest : List Turn) (r : Run) (i : Instr),
      s.agenda = .micro c :: rest → s.mayMove c = true → (s.core c).mat.run = some r →
      decodeMicro (Tab.get 0 (s.cluster (c / 4)).words r.pc) = .ok i →
      step s = exec i { s with agenda := rest, here := { core := c, access := false } }) ∧
    (∀ (s : State) (rest : List Turn) (i : Instr), s.agenda = .event i :: rest → fetchedInstr i = false →
      (s.board.stage ≠ 0xFF ∨ answersFailed i = true) → (∀ c, pacedCore i = some c → s.mayMove c = true) →
      ({ s with agenda := rest } : State).collect i = none → step s = exec i { s with agenda := rest })) ∧
  (
    ∀ (run : Instr → State → Out) (access : Bool) (c slot : Nat) (i : Instr) (rest : List (Nat × Option Instr)) (s : State)
      (g : Machine.Group), s.front c = some g →
      (ownSlot access slot = false → runSlots run access [c] ((slot, some i) :: rest) s = runSlots run access [c] rest s) ∧
      (∀ t, ownSlot access slot = true → (if access then g.slotA else g.slotX) ≤ slot →
        run i { s with here := { s.here with core := c, slot := slot } } = .next t → t.here.stall = none → t.here.off = [] →
        runSlots run access [c] ((slot, some i) :: rest) s = runSlots run access [c] rest t))

/-! ## Traps (R35–R37, R56, R62, R78, R99, R386) -/

/-- Taking a trap, once the other stream has stopped: the fault is recorded, the addresses and the status are saved, the
results in flight and the latches go to the save area, the trap queue set is selected empty, and both streams stand at
TVEC in S mode. No register of the streams, no memory and no other core changes; a group parked on a cell leaves the wait
table. A second trap before ERET ends the group when it is raised: both causes are kept for the share, nothing of the
group is saved, and both streams are at their end. TRAP and SVC take their trap in the execute stream, to resume at slot
1, once the access stream has stopped; until then the trap is pending with their cause. No CSR write of a lower slot is
under way: there is no lower slot. Where it says more than the spec does, it states the model's own choice: log entries 3
and 16. -/
def Obligations.TrapEntry : Prop :=
  (
    ∀ (s : State) (c slot : Nat) (cause : BitVec 8) (access : Bool) (g : Machine.Group),
      s.front c = some g → g.trapPend = some (cause, access, slot) → s.stopped c (!access) = true → g.gstat.valid = false →
      slot < 8 →
      ∃ h, (s.takeTrap c).front c = some h ∧
        h.gstat.cause = cause ∧ h.gstat.slotResume.toNat = slot ∧ h.gstat.stream = access ∧
        h.gstat.valid = true ∧ h.gstat.mode = true ∧ h.gstat.lrun = 0 ∧
        h.savApc = g.apc ∧ h.savXpc = g.xpc ∧ h.apc = g.tvec ∧ h.xpc = g.tvec ∧
        h.savStat.mode = g.gstat.mode ∧ h.savStat.lrun = g.gstat.lrun ∧ h.savStat.valid = false ∧ h.savStat.cause = cause ∧
        h.trapSave = g.snap ++ g.flight ∧ h.trapLt = g.lt ∧ h.trapLive = g.live ∧
        h.snap = [] ∧ h.flight = [] ∧ h.live = 0 ∧ h.trapSel = true ∧ h.tq = {} ∧ h.nq = g.nq ∧ h.trapPend = none ∧
        h.s = g.s ∧ h.v = g.v ∧ h.m = g.m ∧ h.mp = g.mp ∧ sameAccess h g ∧ h.tvec = g.tvec ∧ h.rmode = g.rmode ∧
        h.rctr = g.rctr ∧ sameDevice (s.leaveWait c g.gid) (s.takeTrap c) ∧ sameOthers c s (s.takeTrap c)) ∧
  (
    ∀ (s : State) (slot : Nat) (cause : BitVec 8) (g : Machine.Group),
      s.front s.here.core = some g → g.gstat.valid = true →
      let t := raiseAt cause slot s
      ∃ h, t.front s.here.core = some h ∧ h.dead = some (cause, g.gstat.cause) ∧ h.endX = true ∧ h.endA = true ∧
        h.savApc = g.savApc ∧ h.savXpc = g.savXpc ∧ h.savStat = g.savStat ∧ h.trapSave = g.trapSave ∧ h.flight = [] ∧
        h.snap = [] ∧ sameAccess h g ∧ sameDevice s t ∧ sameOthers s.here.core s t) ∧
  (
    ∀ e ∈ [(Instr.trap, (0x18 : BitVec 8)), (Instr.svc, 0x19)], ∀ (y : Syl) (s : State) (g : Machine.Group),
      OpenX (e.1 y) y 0 s → s.here.access = false → s.front s.here.core = some g → g.trapPend = none → g.gstat.valid = false →
      g.csrw = [] →
      let c := s.here.core
      let u := ({ s with here := { s.here with off := c :: s.here.off, resume := 1 } } : State).upd
        (fun g => { g with trapPend := some (e.2, false, 1) })
      Answers (exec (e.1 y) s) (fun t => ∃ h, t.front c = some h ∧
        (u.stopped c true = false → h = { g with trapPend := some (e.2, false, 1) } ∧ sameDevice s t) ∧
        (u.stopped c true = true → sameDevice (s.leaveWait c g.gid) t ∧ h.gstat.cause = e.2 ∧ h.gstat.slotResume = 1 ∧ h.gstat.stream = false ∧
          h.gstat.valid = true ∧ h.gstat.mode = true ∧ h.savXpc = g.xpc ∧ h.savApc = g.apc ∧ h.xpc = g.tvec ∧ h.apc = g.tvec) ∧
        h.s = g.s ∧ h.v = g.v ∧ h.m = g.m ∧ h.mp = g.mp ∧ sameAccess h g ∧ sameOthers c s t))

/-- A syllable of any slot that its encoding tables do not admit traps with ILLOP at its slot, whatever its guard. The
privileged syllables trap with PRIV in U mode; so does a CSR that the view hides (R78, R101, R386). -/
def Obligations.EncodingAndPrivilege : Prop :=
  (
    ∀ (i : Instr) (s : State), (i.slotOpc.isSome = true ∨ ∃ y, i = .pair y) → i.wf = false →
      exec i s = .next (raise ILLOP s)) ∧
  (
    (∀ e ∈ [(Instr.ringvoid, 7), (Instr.winw, 7), (Instr.gswap, 7)], ∀ (y : Syl) (s : State),
      OpenA (e.1 y) y e.2 s → s.me.gstat.mode = false → exec (e.1 y) s = .next (raise PRIV s)) ∧
    (∀ (y : Syl) (s : State), OpenX (.mupld y) y 3 s → s.me.gstat.mode = false →
      exec (.mupld y) s = .next (raise PRIV s)) ∧
    (∀ i ∈ [Instr.csrr, .csrw, .csrs, .csrc], ∀ (y : Syl) (s : State), OpenX (i y) y 0 s → s.me.gstat.mode = false →
      y.im 11 0 ∈ [0x001, 0x002, 0x003, 0x004, 0x00A, 0x010, 0x011, 0x012, 0x040, 0x041] →
      exec (i y) s = .next (raise PRIV s)))

/-- ERET in S mode from a handler, alone in its bundle: the status is restored but for the fields that hardware maintains,
the saved addresses stand, the save area returns, and the normal queue set is selected again. The handler's own results
have had their execute cycle, and those still in flight go on landing (the model's choice, log 99). ERET beside other
syllables traps with ILLOP whatever its guard; alone in U mode it traps with PRIV, and in S mode outside a handler with
ILLOP. Where it says more than the spec does, it states the model's own choice: log entry 17. -/
def Obligations.EretReturns : Prop :=
  (
    ∀ (y : Syl) (s : State) (g : Machine.Group),
      OpenX (.eret y) y 0 s → s.here.sole = true → s.front s.here.core = some g → g.gstat.mode = true → g.gstat.valid = true →
      Answers (exec (.eret y) s) (fun t => ∃ h, t.front s.here.core = some h ∧
        h.gstat = { g.gstat with cause := g.savStat.cause, slotResume := g.savStat.slotResume, stream := g.savStat.stream,
                                 mode := g.savStat.mode, lrun := g.savStat.lrun, valid := false,
                                 scopeMiss := g.savStat.scopeMiss || g.gstat.scopeMiss } ∧
        h.apc = g.savApc ∧ h.xpc = g.savXpc ∧ h.snap = g.trapSave ++ g.snap ∧ h.flight = g.tick.flight ∧
        h.lt = g.trapLt ∧ h.live = g.trapLive ∧ h.trapSel = false ∧ h.tq = {} ∧ h.nq = g.tick.nq ∧
        (if g.savStat.stream then h.slotA = g.savStat.slotResume.toNat else h.slotX = g.savStat.slotResume.toNat) ∧
        h.s = g.tick.s ∧ h.v = g.tick.v ∧ h.m = g.tick.m ∧ h.mp = g.tick.mp ∧ sameAccess h g ∧ h.tvec = g.tvec ∧
        h.savApc = g.savApc ∧ h.savXpc = g.savXpc ∧ h.savStat = g.savStat ∧ sameDevice s t ∧
        (g.gstat.fused = false → sameOthers s.here.core s t))) ∧
  (
    ∀ (y : Syl) (s : State),
      (s.here.sole = false → exec (.eret y) s = .next (raise ILLOP s)) ∧
      (OpenX (.eret y) y 0 s → s.here.sole = true → s.me.gstat.mode = false → exec (.eret y) s = .next (raise PRIV s)) ∧
      (OpenX (.eret y) y 0 s → s.here.sole = true → s.me.gstat.mode = true → s.me.gstat.valid = false →
        exec (.eret y) s = .next (raise ILLOP s)))

/-! ## Guards (R60, R61) -/

/-- A guard field names no predicate, a predicate, or its complement, in each stream's own registers. -/
def Obligations.GuardsSelect : Prop :=
  ∀ (g : Machine.Group) (sel : BitVec 4) (b : Nat),
    (sel = 0 → g.guardX sel b = true ∧ g.guardA sel b = true) ∧
    (1 ≤ sel.toNat → sel.toNat ≤ 7 →
      g.guardX sel b = (g.rdM sel.toNat).getLsbD b ∧ g.guardA sel b = (g.rdG sel.toNat).getLsbD b) ∧
    (9 ≤ sel.toNat → sel.toNat ≤ 15 →
      g.guardX sel b = !(g.rdM (sel.toNat - 8)).getLsbD b ∧ g.guardA sel b = !(g.rdG (sel.toNat - 8)).getLsbD b) ∧
    (sel = 8 → ∀ (i : Instr) (slot opc : Nat) (y : Syl) (s : State), i.slotOpc = some (slot, opc, y) → y.guard = sel →
      exec i s = .next (raise ILLOP s)) ∧
    (sel = 8 → ∀ (y : PairSyl) (s : State), y.guard = sel → exec (.pair y) s = .next (raise ILLOP s))

/-- A syllable that takes bit 0 of its guard, with that bit 0, makes its queue traffic and nothing else; a transfer and a
LOOP push a not-taken outcome beside it, and so does ERET, behind which the access stream has waited (the model's choice,
log 96). A vector or pair syllable none of whose elements is enabled launches no bit of a result: what is in flight after
it, it would leave every destination and latch as it is. -/
def Obligations.GuardedOff : Prop :=
  (
    (∀ (i : Instr) (slot opc : Nat) (y : Syl) (s : State), i.slotOpc = some (slot, opc, y) → i.wf = true →
      s.here.slot = slot → (if slot < 4 then s.me.guardX y.guard 0 else s.me.guardA y.guard 0) = false →
      slot ∈ [0, 3, 4, 5, 6, 7] → isXctl i = false → isLoop i = false → (∀ z, i ≠ .eret z) →
      (∀ z, i ≠ .vld z ∧ i ≠ .vlds z ∧ i ≠ .vldx z ∧ i ≠ .vldt z ∧ i ≠ .ldn z ∧ i ≠ .vldb z ∧ i ≠ .vst z ∧ i ≠ .vsts z ∧
        i ≠ .vstx z ∧ i ≠ .stnt z ∧ i ≠ .bank z) →
      exec i s = .next (traffic i s)) ∧
    (∀ (i : Instr) (opc : Nat) (y : Syl) (s : State), i.slotOpc = some (0, opc, y) → isXctl i = true → i.wf = true →
      s.here.slot = 0 → s.me.guardX y.guard 0 = false → exec i s = .next (pass (traffic i s))) ∧
    (∀ (y : Syl) (s : State), (Instr.loop y).wf = true → s.me.guardA y.guard 0 = false →
      exec (.loop y) s = .next (pushBqa { taken := false, target := s.here.addr + BitVec.ofNat 64 s.here.size } s)) ∧
    (∀ (y : Syl) (s : State), (Instr.eret y).wf = true → s.here.sole = true → s.me.guardX y.guard 0 = false →
      exec (.eret y) s = .next (pass s))) ∧
  (
    ∀ (hi : Bool) (y : Syl) (s t : State), (∀ b, s.me.guardX y.guard b = false) → s.here.slot = (if hi then 2 else 1) →
      ∀ i ∈ [Instr.vadd hi y, .vsub hi y, .vmul hi y, .vfma hi y, .vfms hi y, .vmin hi y, .vmax hi y, .vabs hi y, .vneg hi y,
        .vadds hi y, .vsubs hi y, .vmulh hi y, .vand hi y, .vor hi y, .vxor hi y, .vandn hi y, .vshl hi y, .vshr hi y,
        .vsra hi y, .vclz hi y, .vpopc hi y, .vsel hi y, .vperm hi y, .vrot hi y, .vbcast hi y, .vmov hi y, .vli hi y],
      i.wf = true → s.seated → exec i s = .next t →
      ∃ f, t.me.flight = s.me.flight ++ [f] ∧ f.en = 0)

/-! ## Operands and landings (R23–R33, R63–R66, R84, R91) -/

/-- A scalar source of the X and M slots: what each selector reads, and that only a pop changes anything. A vector source:
a register, a latch or a queue entry whole, the lane index, or one constant in every element. A source of the access
slots. Queues deliver their entries in the order they were pushed: a pop takes the oldest, a reservation goes to the end,
data enters its own entry, and no other queue or register changes. -/
def Obligations.SourcesRead : Prop :=
  (
    ∀ (sel : BitVec 8) (s : State),
      let n := sel.toNat
      let g := s.me
      let c := s.here.core
      (n < 0x40 → readX sel s = (g.rdS n, s)) ∧
      (0x40 ≤ n → n ≤ 0x42 → readX sel s = (lo64 (g.rdLt (n - 0x40)), s)) ∧
      (0x44 ≤ n → n ≤ 0x47 → readX sel s = (lo64 (g.peek (n - 0x44)), s.upd (fun _ => (g.pop (n - 0x44)).2))) ∧
      (0x48 ≤ n → n ≤ 0x4B → readX sel s = (lo64 (g.peek (n - 0x48)), s)) ∧
      (n = 0x50 → readX sel s = (0, s)) ∧
      (n = 0x51 → readX sel s = (if g.gstat.fused then g.gstat.fidx.setWidth 64 else 0, s)) ∧
      (n = 0x52 → readX sel s = (BitVec.ofNat 64 (c % 4), s)) ∧
      (n = 0x53 → readX sel s = (BitVec.ofNat 64 (c / 4), s)) ∧
      (n = 0x54 → readX sel s = (0, s)) ∧
      (0x80 ≤ n → readX sel s = ((sel.setWidth 7).signExtend 64, s))) ∧
  (
    ∀ (sel : BitVec 8) (s : State),
      let n := sel.toNat
      let g := s.me
      let c := s.here.core
      (n < 0x40 → readV sel s = (.reg (g.rdV n), s)) ∧
      (0x40 ≤ n → n ≤ 0x42 → readV sel s = (.reg (g.rdLt (n - 0x40)), s)) ∧
      (0x44 ≤ n → n ≤ 0x47 → readV sel s = (.reg (g.peek (n - 0x44)), s.upd (fun _ => (g.pop (n - 0x44)).2))) ∧
      (0x48 ≤ n → n ≤ 0x4B → readV sel s = (.reg (g.peek (n - 0x48)), s)) ∧
      (n = 0x50 → readV sel s = (.lane, s)) ∧
      (n = 0x51 → readV sel s = (.splat (if g.gstat.fused then g.gstat.fidx.toNat else 0), s)) ∧
      (n = 0x52 → readV sel s = (.splat (c % 4 : Nat), s)) ∧
      (n = 0x53 → readV sel s = (.splat (c / 4 : Nat), s)) ∧
      (n = 0x54 → readV sel s = (.splat 0, s)) ∧
      (0x80 ≤ n → readV sel s = (.splat (sel.setWidth 7).toInt, s))) ∧
  (
    ∀ (sel : BitVec 8) (s : State),
      let n := sel.toNat
      let g := s.me
      let c := s.here.core
      (n < 0x20 → readA sel s = (g.rdA n, s)) ∧
      (0x44 ≤ n → n ≤ 0x46 → readA sel s = (lo64 (g.peek (n - 0x40)), s.upd (fun _ => (g.pop (n - 0x40)).2))) ∧
      (0x48 ≤ n → n ≤ 0x4A → readA sel s = (lo64 (g.peek (n - 0x44)), s)) ∧
      (n = 0x50 → readA sel s = (0, s)) ∧
      (n = 0x51 → readA sel s = (if g.gstat.fused then g.gstat.fidx.setWidth 64 else 0, s)) ∧
      (n = 0x52 → readA sel s = (BitVec.ofNat 64 (c % 4), s)) ∧
      (n = 0x53 → readA sel s = (BitVec.ofNat 64 (c / 4), s)) ∧
      (n = 0x54 → readA sel s = (0, s)) ∧
      (0x80 ≤ n → readA sel s = ((sel.setWidth 7).signExtend 64, s))) ∧
  (
    ∀ (g : Machine.Group) (q : Nat),
      (∀ e rest, g.queue q = e :: rest → (g.pop q).1 = e.data.getD 0 ∧ (g.pop q).2.queue q = rest ∧
        (∀ p, p ≠ q → (g.pop q).2.queue p = g.queue p) ∧ sameExecute (g.pop q).2 g ∧ sameAccess (g.pop q).2 g) ∧
      (g.reserve q).2.queue q = g.queue q ++ [{ id := (g.reserve q).1, data := none }] ∧
      (∀ p, p ≠ q → (g.reserve q).2.queue p = g.queue p) ∧
      sameExecute (g.reserve q).2 g ∧ sameAccess (g.reserve q).2 g ∧
      (∀ v, (∀ e ∈ g.queue q, e.id < g.nextId) →
        (g.push q v).queue q = g.queue q ++ [{ id := g.nextId, data := some v }] ∧
        (∀ p, p ≠ q → (g.push q v).queue p = g.queue p) ∧ sameExecute (g.push q v) g ∧ sameAccess (g.push q v) g))

/-- The destination of an execute slot: what DST makes of a result, and that until it lands no register changes. Where it
says more than the spec does, it states the model's own choice: log entry 14. -/
def Obligations.ExecuteDestinations : Prop :=
  ∀ (lat : Nat) (dst : BitVec 8) (val en : VReg) (s : State) (g : Machine.Group),
    s.front s.here.core = some g → s.here.slot < 4 →
    let t := finish lat dst val en s
    let n := dst.toNat
    let f : Flight := { left := lat, slot := s.here.slot, dst := .latch, val := val, en := en }
    (0x80 ≤ n → t.me = { g with flight := g.flight ++ [{ f with nwb := true }] }) ∧
    (n < 0x40 → t.me = { g with flight := g.flight ++
      [{ f with dst := if s.here.slot = 1 ∨ s.here.slot = 2 then .vreg n else .sreg n }] }) ∧
    (0x40 ≤ n → n ≤ 0x43 →
      t.me.flight = g.flight ++ [{ f with dst := .queue (n - 0x40 + 4) g.nextId }] ∧
      t.me.queue (n - 0x40 + 4) = g.queue (n - 0x40 + 4) ++ [{ id := g.nextId, data := none }]) ∧
    sameExecute t.me g ∧ sameAccess t.me g ∧ sameSpecial t.me g ∧ sameDevice s t ∧ sameOthers s.here.core s t

/-- What the access slots wrote lands at the end of their bundle, the later write of a register standing; a write of g0 is
discarded; no other register of either stream changes. Where it says more than the spec does, it states the model's own
choice: log entry 14. -/
def Obligations.AccessLanding : Prop :=
  ∀ (g : Machine.Group) (l : List (Nat × Nat × Word)) (n : Nat) (w : Word),
    (g.awr = l ++ [(0, n, w)] → g.landA.rdA n = w) ∧
    (g.awr = l ++ [(1, n, w)] → g.landA.rdG n = if n = 0 then BitVec.allOnes 64 else w) ∧
    (g.awr = l ++ [(2, n, w)] → g.landA.rdK n = w.setWidth 32) ∧
    ((∀ x ∈ g.awr, ¬ (x.1 = 0 ∧ x.2.1 = n)) → g.landA.rdA n = g.rdA n) ∧
    ((∀ x ∈ g.awr, ¬ (x.1 = 1 ∧ x.2.1 = n)) → g.landA.rdG n = g.rdG n) ∧
    ((∀ x ∈ g.awr, x.1 < 2 ∨ x.2.1 ≠ n) → g.landA.rdK n = g.rdK n) ∧
    sameExecute g.landA g ∧ g.landA.awr = [] ∧ g.landA.nq = g.nq ∧ g.landA.tq = g.tq

/-- A result alone in flight with latency L: the bundles of the next L − 1 execute cycles read the old value, those after
them the new one. Of two results that land in one s register in the same cycle, that of the higher slot stands, in
whichever order they were issued; of two that land in different cycles, the later one. While a blocking result holds the
execute stream, its turn issues no bundle and passes one execute cycle: the hold and every result in flight come one cycle
nearer. Where it says more than the spec does, it states the model's own choice: log entries 14 and 15. -/
def Obligations.ResultsLand : Prop :=
  (
    ∀ (g : Machine.Group) (f : Flight) (n k : Nat), g.flight = [f] → 1 ≤ f.left → f.slot < 4 →
      (f.dst = .sreg n → (k < f.left → (Machine.Group.tick^[k] g).rdS n = g.rdS n) ∧
        (n ≠ 0 → f.left ≤ k → (Machine.Group.tick^[k] g).rdS n = lo64 f.val)) ∧
      (f.dst = .vreg n → (k < f.left → (Machine.Group.tick^[k] g).rdV n = g.rdV n) ∧
        (f.left ≤ k → (Machine.Group.tick^[k] g).rdV n = merge f.en f.val (g.rdV n))) ∧
      (f.dst = .mreg n → n ≠ 0 → (k < f.left → (Machine.Group.tick^[k] g).rdM n = g.rdM n) ∧
        (f.left ≤ k → (Machine.Group.tick^[k] g).rdM n = merge (f.en.setWidth 256) (f.val.setWidth 256) (g.rdM n)))) ∧
  (
    ∀ (g : Machine.Group) (a b : Flight) (n : Nat), a.dst = .sreg n → b.dst = .sreg n → n ≠ 0 → a.slot < 4 → b.slot < 4 →
      (g.flight = [a, b] ∨ g.flight = [b, a]) → 1 ≤ a.left →
      (a.left = b.left → a.slot < b.slot → (Machine.Group.tick^[a.left] g).rdS n = lo64 b.val) ∧
      (a.left < b.left → (Machine.Group.tick^[b.left] g).rdS n = lo64 b.val)) ∧
  (
    ∀ (run : Instr → State → Out) (write : Nat → Word → State → State) (s : State) (c : Nat) (g : Machine.Group),
      s.front c = some g → s.members c = [c] → g.dead = none → g.trapPend = none → g.endX = false → g.holdLeft ≠ 0 →
      g.slotX = 0 →
      Answers (issueX run write c s) (fun t => t.front c = some g.thawX.tick ∧ g.thawX.tick.holdLeft + 1 = g.holdLeft ∧
        g.thawX.tick.xpc = g.xpc ∧ g.thawX.tick.hist = g.hist ∧ sameDevice s t ∧ sameOthers c s t))

/-- A landing result: its register or entry, the latch of its slot and the latch's liveness, and nothing else. Slot M has
no latch; a write of s0 or m0 is discarded and still enters the latch; an NWB result makes the latch live. s0 reads zero,
m0 all ones, g0 true, whatever is written to them. Where it says more than the spec does, it states the model's own
choice: log entry 14. -/
def Obligations.LandingWrites : Prop :=
  (
    ∀ (g : Machine.Group) (f : Flight), f.slot < 4 →
      let h := g.land g.m f
      (∀ n, h.rdS n = if f.dst = .sreg n ∧ n ≠ 0 then lo64 f.val else g.rdS n) ∧
      (∀ n, h.rdV n = if f.dst = .vreg n then merge f.en f.val (g.rdV n) else g.rdV n) ∧
      (∀ n, h.rdM n = if f.dst = .mreg n ∧ n ≠ 0 then merge (f.en.setWidth 256) (f.val.setWidth 256) (g.rdM n) else g.rdM n) ∧
      (f.slot = 3 → h.lt = g.lt ∧ h.live = g.live) ∧
      (f.slot < 3 → (∀ n, n ≠ f.slot → h.rdLt n = g.rdLt n) ∧
        h.live = if f.en = 0 then g.live else if f.nwb then g.live ||| BitVec.twoPow 3 f.slot else g.live &&& ~~~ BitVec.twoPow 3 f.slot) ∧
      (f.slot = 0 → (∀ n, f.dst ≠ .mreg n) → h.rdLt 0 = zx (lo64 (merge f.en f.val (g.rdLt 0)))) ∧
      (f.slot = 1 ∨ f.slot = 2 → (∀ n, f.dst ≠ .mreg n) → h.rdLt f.slot = merge f.en f.val (g.rdLt f.slot)) ∧
      sameAccess h g ∧ sameSpecial h g ∧ h.flight = g.flight ∧ h.gstat = g.gstat) ∧
  (
    ∀ (g : Machine.Group) (w : Word) (m : Mask),
      g.rdS 0 = 0 ∧ g.rdM 0 = BitVec.allOnes 256 ∧ g.rdG 0 = BitVec.allOnes 64 ∧ g.wrS 0 w = g ∧ g.wrM 0 m = g ∧ g.wrG 0 w = g ∧
      (∀ n, n ≠ 0 → (g.wrS n w).rdS n = w ∧ (g.wrM n m).rdM n = m ∧ (g.wrG n w).rdG n = w) ∧
      (∀ n k, n ≠ k → (g.wrS n w).rdS k = g.rdS k ∧ (g.wrM n m).rdM k = g.rdM k ∧ (g.wrG n w).rdG k = g.rdG k ∧
        (g.wrA n w).rdA k = g.rdA k) ∧
      (∀ n, (g.wrA n w).rdA n = w))

/-! ## CSRs (R38, R39, R101, R102) -/

/-- A CSR instruction returns the readable fields of the old value, and leaves its write for the end of the execute cycle:
the fields that the view may write, from the operation's new value. What a CSR's new value does: each register that a view
may write, in the group whose write it is. -/
def Obligations.CsrInstructions : Prop :=
  (
    ∀ (y : Syl) (s : State), s.seated →
      let n := y.im 11 0
      let sm := s.me.gstat.mode
      let now := s.csrValue s.here.core s.me n
      let old := now &&& csrRead sm n
      let wr := csrWrite sm n
      ¬ (csrRead sm n = 0 ∧ wr = 0) →
      (OpenX (.csrr y) y 0 s → exec (.csrr y) s = .next (finishS 1 y.dst old s)) ∧
      (∀ e ∈ [(Instr.csrw, fun (_ v : Word) => v), (Instr.csrs, fun o v => o ||| v), (Instr.csrc, fun o v => o &&& ~~~ v)],
        OpenX (e.1 y) y 0 s →
          (wr = 0 → exec (e.1 y) s = .next (finishS 1 y.dst old (readX y.srca s).2)) ∧
          (wr ≠ 0 → exec (e.1 y) s = .next (finishS 1 y.dst old ((readX y.srca s).2.upd (fun g =>
            { g with csrw := g.csrw ++ [(n, (now &&& ~~~ wr) ||| (e.2 old (readX y.srca s).1 &&& wr))] })))))) ∧
  (
    ∀ (s : State) (w : Word) (g : Machine.Group), s.front s.here.core = some g →
      ((setCsr 0x002 w s).me = { g with savApc := w &&& ~~~ 7 }) ∧
      ((setCsr 0x003 w s).me = { g with savXpc := w &&& ~~~ 7 }) ∧
      ((setCsr 0x004 w s).me = { g with tvec := w &&& ~~~ 63 }) ∧
      (w.toNat % 8 ≤ 4 → (setCsr 0x008 w s).me = { g with rmode := w.setWidth 3 }) ∧
      (4 < w.toNat % 8 → setCsr 0x008 w s = s.upd id) ∧
      ((setCsr 0x012 w s).me = { g with rctr := w, rbq := [] }) ∧
      ((setCsr 0x001 w s).me.savStat.slotResume = w.extractLsb' 53 3 ∧ (setCsr 0x001 w s).me.savStat.cause = w.extractLsb' 56 8 ∧
        (setCsr 0x001 w s).me.savStat.mode = w.getLsbD 50 ∧ (setCsr 0x001 w s).me.savStat.lrun = w.extractLsb' 29 5) ∧
      (g.gstat.mode = false →
        (setCsr 0x000 w s).me = { g with gstat := { g.gstat with scopeMiss := g.gstat.scopeMiss && w.getLsbD 49 } }) ∧
      (g.gstat.mode = true →
        (setCsr 0x000 w s).me = { g with gstat := { g.gstat with
          cause := w.extractLsb' 56 8, slotResume := w.extractLsb' 53 3, stream := w.getLsbD 52, scopeMiss := w.getLsbD 49 } }))

/-! ## The X slot (R84–R100, R105, R106, R362) -/

/-- The two-source forms, with their latencies: each reads SRCA, then SRCB, and launches its result; the operations are
written here on integers, modulo 2^64. The division forms: the quotient truncated toward zero, the remainder with the sign
of a, all ones and a itself for a zero divisor, no trap on any operands; the result takes 18 execute cycles and holds the
stream as long. Where it says more than the spec does, it states the model's own choice: log entry 14. -/
def Obligations.ScalarTwoSources : Prop :=
  (
    let z := fun (x : Int) => BitVec.ofInt 64 x
    let sh := fun (b : Word) => b.toNat % 64
    ∀ e ∈ [(Instr.add, 1, fun (a b : Word) => z (a.toInt + b.toInt)),
        (Instr.sub, 1, fun a b => z (a.toInt - b.toInt)),
        (Instr.mul, 3, fun a b => z (a.toInt * b.toInt)),
        (Instr.mulhi, 3, fun a b => z (a.toInt * b.toInt / 2 ^ 64)),
        (Instr.mulhn, 3, fun a b => z ((a.toNat * b.toNat : Nat) / 2 ^ 64)),
        (Instr.and, 1, fun a b => a &&& b), (Instr.or, 1, fun a b => a ||| b), (Instr.xor, 1, fun a b => a ^^^ b),
        (Instr.andn, 1, fun a b => a &&& ~~~ b),
        (Instr.shl, 1, fun a b => z (a.toNat * 2 ^ sh b : Nat)),
        (Instr.shr, 1, fun a b => z (a.toNat / 2 ^ sh b : Nat)),
        (Instr.sra, 1, fun a b => z (a.toInt / 2 ^ sh b)),
        (Instr.rot, 1, fun a b => z (a.toNat * 2 ^ sh b % 2 ^ 64 + a.toNat * 2 ^ sh b / 2 ^ 64 : Nat)),
        (Instr.min, 1, fun a b => z (min a.toInt b.toInt)), (Instr.max, 1, fun a b => z (max a.toInt b.toInt)),
        (Instr.minn, 1, fun a b => z (min a.toNat b.toNat : Nat)), (Instr.maxn, 1, fun a b => z (max a.toNat b.toNat : Nat))],
      ∀ (y : Syl) (s : State), OpenX (e.1 y) y 0 s →
        let (a, b, t) := readX2 y.srca y.srcb s
        exec (e.1 y) s = .next (finishS e.2.1 y.dst (e.2.2 a b) t)) ∧
  (
    ∀ e ∈ [(Instr.div, fun (a b : Word) => if b = 0 then BitVec.allOnes 64 else BitVec.ofInt 64 (a.toInt.tdiv b.toInt)),
        (Instr.divn, fun a b => if b = 0 then BitVec.allOnes 64 else BitVec.ofNat 64 (a.toNat / b.toNat)),
        (Instr.rem, fun a b => if b = 0 then a else BitVec.ofInt 64 (a.toInt.tmod b.toInt)),
        (Instr.remn, fun a b => if b = 0 then a else BitVec.ofNat 64 (a.toNat % b.toNat))],
      ∀ (y : Syl) (s : State), OpenX (e.1 y) y 0 s →
        let (a, b, t) := readX2 y.srca y.srcb s
        exec (e.1 y) s = .next ((finishS 18 y.dst (e.2 a b) t).upd (fun g => { g with holdLeft := max g.holdLeft 18 })))

/-- The one-source and immediate forms, EXTR, INS, SEL, TIME, CYC and RNDW: the value that each launches with latency 1.
NOP has no effect, and HINT only sets the hint; a NOP or an ERET with a reserved field that is not zero traps with ILLOP.
Where it says more than the spec does, it states the model's own choice: log entries 14, 23 and 26. -/
def Obligations.ScalarOneSource : Prop :=
  (
    let k := fun (y : Syl) => y.imm.signExtend 64
    (∀ e ∈ [(Instr.addi, fun (y : Syl) (a : Word) => a + k y), (Instr.andi, fun y a => a &&& k y),
        (Instr.ori, fun y a => a ||| k y), (Instr.xori, fun y a => a ^^^ k y),
        (Instr.lim, fun y a => a.extractLsb' 48 16 ++ y.imm ++ a.extractLsb' 0 24),
        (Instr.lit, fun y a => y.imm.extractLsb' 0 16 ++ a.extractLsb' 0 48),
        (Instr.popc, fun _ a => BitVec.ofNat 64 ((List.range 64).countP (fun i => a.getLsbD i))),
        (Instr.clz, fun _ a => BitVec.ofNat 64 (((List.range 64).find? (fun i => a.getLsbD (63 - i))).getD 64)),
        (Instr.ctz, fun _ a => BitVec.ofNat 64 (((List.range 64).find? (fun i => a.getLsbD i)).getD 64)),
        (Instr.extr, fun y a =>
          let pos := (y.imm.extractLsb' 0 6).toNat
          let len := (y.imm.extractLsb' 6 7).toNat
          let f := a.toNat / 2 ^ pos % 2 ^ len
          if y.imm.getLsbD 13 && decide (2 ^ (len - 1) ≤ f) then BitVec.ofInt 64 (f - 2 ^ len) else BitVec.ofNat 64 f)],
      ∀ (y : Syl) (s : State), OpenX (e.1 y) y 0 s →
        exec (e.1 y) s = .next (finishS 1 y.dst (e.2 y (readX y.srca s).1) (readX y.srca s).2)) ∧
    (∀ e ∈ [(Instr.li, fun (y : Syl) (_ : State) => k y), (Instr.time, fun _ s => BitVec.ofNat 64 s.time),
        (Instr.cyc, fun _ s => (s.core s.here.core).cyc)],
      ∀ (y : Syl) (s : State), OpenX (e.1 y) y 0 s → exec (e.1 y) s = .next (finishS 1 y.dst (e.2 y s) s)) ∧
    (∀ (y : Syl) (s : State), OpenX (.ins y) y 0 s →
      let (a, b, t) := readX2 y.srca y.srcb s
      let pos := (y.imm.extractLsb' 0 6).toNat
      let len := (y.imm.extractLsb' 6 7).toNat
      ∃ r : Word, exec (.ins y) s = .next (finishS 1 y.dst r t) ∧
        ∀ j < 64, r.getLsbD j = if pos ≤ j ∧ j < pos + len then a.getLsbD (j - pos) else b.getLsbD j) ∧
    (∀ (y : Syl) (s : State), OpenX (.sel y) y 0 s →
      let (a, b, t) := readX2 y.srca y.srcb s
      exec (.sel y) s = .next (finishS 1 y.dst (if (s.me.rdM (y.imm.extractLsb' 0 4).toNat).getLsbD 0 then a else b) t)) ∧
    (∀ (y : Syl) (s : State) (g : Machine.Group) (w : VReg) (ws : List VReg), OpenX (.rndw y) y 0 s →
      s.front s.here.core = some g → g.rbq = w :: ws →
      Answers (exec (.rndw y) s) (fun t => ∃ u : State, t = finishS 1 y.dst (lo64 w) u ∧ u.me.rbq = ws ∧
        u.me.rctr.extractLsb' 21 43 = g.rctr.extractLsb' 21 43 ∧ u.me.rctr.extractLsb' 0 21 = g.rctr.extractLsb' 0 21 + 1 ∧
        sameExecute u.me g ∧ sameAccess u.me g ∧ u.me.flight = g.flight ∧ sameDevice s u ∧ sameOthers s.here.core s u))) ∧
  (
    (∀ (y : Syl) (s : State), OpenX (.nop y) y 0 s → exec (.nop y) s = .next s) ∧
    (∀ (y : Syl) (s : State), OpenX (.hint y) y 0 s →
      exec (.hint y) s = .next (s.upd (fun g => { g with hint := y.imm.extractLsb' 0 2 }))) ∧
    (∀ (y : Syl) (s : State), (y.dst ≠ 0 ∨ y.srca ≠ 0 ∨ y.srcb ≠ 0 ∨ y.imm ≠ 0) →
      exec (.nop y) s = .next (raise ILLOP s) ∧ exec (.eret y) s = .next (raise ILLOP s)))

/-- The conditions of CMP.cc and ACMP.cc: eq, ne, lt, ge, ltn, gen, le, gt, len, gtn, by the codes 0 to 9 of IMM24 bits
7:4; the codes 10 to 15 trap with ILLOP. -/
def Obligations.ConditionCodes : Prop :=
  let conds : List (Nat × (Word → Word → Bool)) :=
    [(0, fun a b => a == b), (1, fun a b => a != b), (2, fun a b => decide (a.toInt < b.toInt)),
     (3, fun a b => decide (a.toInt ≥ b.toInt)), (4, fun a b => decide (a.toNat < b.toNat)),
     (5, fun a b => decide (a.toNat ≥ b.toNat)), (6, fun a b => decide (a.toInt ≤ b.toInt)),
     (7, fun a b => decide (a.toInt > b.toInt)), (8, fun a b => decide (a.toNat ≤ b.toNat)),
     (9, fun a b => decide (a.toNat > b.toNat))]
  (∀ e ∈ conds, ∀ (y : Syl) (s : State), (y.imm.extractLsb' 4 4).toNat = e.1 →
    (OpenX (.cmpCc y) y 0 s →
      let (a, b, t) := readX2 y.srca y.srcb s
      exec (.cmpCc y) s = .next (t.upd (fun g => { g with flight := g.flight ++
        [{ left := 1, slot := 0, dst := .mreg (y.imm.extractLsb' 0 4).toNat, val := if e.2 a b then BitVec.allOnes 2048 else 0,
           en := BitVec.allOnes 2048 }] }))) ∧
    (OpenA (.acmpCc y) y 7 s →
      let (a, b, t) := readA2 y.srca y.srcb s
      exec (.acmpCc y) s = .next (t.upd (fun g => { g with awr := g.awr ++
        [(1, (y.imm.extractLsb' 0 3).toNat, if e.2 a b then BitVec.allOnes 64 else 0)] })))) ∧
  (∀ (y : Syl) (s : State), 10 ≤ (y.imm.extractLsb' 4 4).toNat →
    exec (.cmpCc y) s = .next (raise ILLOP s) ∧ exec (.acmpCc y) s = .next (raise ILLOP s))

/-- The control transfers: BR and CALL to the bundle address plus the signed offset of 8-byte units, CALL with its link in
sN, RET and JR through a register, each with its outcome in bqe and the execute stream's next bundle; RET and JR to a
target that is not a multiple of 8 trap with ALIGN and do not transfer; END pushes the outcome "end" and stops the execute
stream. The access stream follows the outcome in bqe: taken, its APC is the target; not taken, APC stands; "end", it is at
its end; the outcome leaves bqe. -/
def Obligations.Transfers : Prop :=
  (
    let off := fun (y : Syl) => BitVec.ofInt 64 (y.imm.toInt * 8)
    let take := fun (target : Word) (u : State) => u.upd (fun g =>
      { (g.setQs { g.qs with bqe := g.qs.bqe ++ [{ taken := true, target := target }] }) with xNext := some target })
    (∀ (y : Syl) (s : State), OpenX (.br y) y 0 s → exec (.br y) s = .next (take (s.here.addr + off y) s)) ∧
    (∀ (y : Syl) (s : State), OpenX (.call y) y 0 s → exec (.call y) s = .next (take (s.here.addr + off y)
      (finishS 1 y.dst (s.here.addr + BitVec.ofNat 64 s.here.size) s))) ∧
    (∀ e ∈ [(Instr.ret, fun (_ : Syl) (a : Word) => a), (Instr.jr, fun y a => a + off y)], ∀ (y : Syl) (s : State),
      OpenX (e.1 y) y 0 s →
      let a := (readX y.srca s).1
      ((e.2 y a).toNat % 8 = 0 → exec (e.1 y) s = .next (take (e.2 y a) (readX y.srca s).2)) ∧
      ((e.2 y a).toNat % 8 ≠ 0 → exec (e.1 y) s = .next (raise ALIGN s))) ∧
    (∀ (y : Syl) (s : State), OpenX (.endStep y) y 0 s →
      exec (.endStep y) s = .next (s.upd (fun g =>
        { (g.setQs { g.qs with bqe := g.qs.bqe ++
            [{ taken := false, target := s.here.addr + BitVec.ofNat 64 s.here.size, isEnd := true }] }) with endX := true })))) ∧
  (
    ∀ (g : Machine.Group) (o : BOut) (rest : List BOut), g.awaitBqe = true → g.holds = [] → g.qs.bqe = o :: rest →
      let h := g.followBqe
      h.qs.bqe = rest ∧ h.awaitBqe = false ∧ h.endA = (o.isEnd || g.endA) ∧
      h.apc = (if !o.isEnd && o.taken then o.target else g.apc) ∧ sameExecute h g ∧ sameAccess h g)

/-! ## Access-side arithmetic and loops (R91–R94) -/

/-- The arithmetic forms of the Y slot: the value that lands in DST at the end of the bundle. KSET puts its immediate or
bits 31:0 of SRCA into kN; LOOP counts kN down and goes on at its offset while kN exceeds 1, else clears kN and falls
through, with the outcome in bqa either way. Where it says more than the spec does, it states the model's own choice: log
entry 14. -/
def Obligations.AccessArithmetic : Prop :=
  (
    let z := fun (x : Int) => BitVec.ofInt 64 x
    let k := fun (y : Syl) => y.imm.signExtend 64
    let sh := fun (y : Syl) => (y.imm.extractLsb' 0 6).toNat
    (∀ e ∈ [(Instr.aadd, fun (a b : Word) => z (a.toInt + b.toInt)), (Instr.asub, fun a b => z (a.toInt - b.toInt)),
        (Instr.amul, fun a b => z (a.toInt * b.toInt)), (Instr.amin, fun a b => z (min a.toInt b.toInt)),
        (Instr.amax, fun a b => z (max a.toInt b.toInt))],
      ∀ (y : Syl) (s : State), OpenA (e.1 y) y 7 s →
        let (a, b, t) := readA2 y.srca y.srcb s
        exec (e.1 y) s = .next (finishA y.dst (e.2 a b) t)) ∧
    (∀ e ∈ [(Instr.aaddi, fun (y : Syl) (a : Word) => a + k y), (Instr.aandi, fun y a => a &&& k y),
        (Instr.ashli, fun y a => z (a.toNat * 2 ^ sh y : Nat)), (Instr.ashri, fun y a => z (a.toNat / 2 ^ sh y : Nat)),
        (Instr.alim, fun y a => a.extractLsb' 48 16 ++ y.imm ++ a.extractLsb' 0 24),
        (Instr.alit, fun y a => y.imm.extractLsb' 0 16 ++ a.extractLsb' 0 48), (Instr.aq, fun _ a => a)],
      ∀ (y : Syl) (s : State), OpenA (e.1 y) y 7 s →
        exec (e.1 y) s = .next (finishA y.dst (e.2 y (readA y.srca s).1) (readA y.srca s).2)) ∧
    (∀ (y : Syl) (s : State), OpenA (.ali y) y 7 s → exec (.ali y) s = .next (finishA y.dst (k y) s)) ∧
    (∀ (y : Syl) (s : State), OpenA (.amovq y) y 7 s →
      exec (.amovq y) s = .next (finishA y.dst (lo64 (s.me.peek 6)) (s.upd (fun _ => (s.me.pop 6).2)))) ∧
    (∀ (dst : BitVec 8) (w : Word) (s : State),
      (dst.toNat < 0x20 → finishA dst w s = s.upd (fun g => { g with awr := g.awr ++ [(0, dst.toNat, w)] })) ∧
      (0x40 ≤ dst.toNat → dst.toNat ≤ 0x43 → finishA dst w s = s.upd (fun g => g.push (dst.toNat - 0x40) (zx w))))) ∧
  (
    (∀ (y : Syl) (s : State), OpenA (.kset y) y 7 s →
      let n := (y.imm.extractLsb' 22 2).toNat
      (y.imm.getLsbD 21 = true → exec (.kset y) s = .next (s.upd (fun g =>
        { g with awr := g.awr ++ [(2, n, (y.imm.extractLsb' 0 21).setWidth 64)] }))) ∧
      (y.imm.getLsbD 21 = false → exec (.kset y) s = .next ((readA y.srca s).2.upd (fun g =>
        { g with awr := g.awr ++ [(2, n, (readA y.srca s).1)] })))) ∧
    (∀ (y : Syl) (s : State) (g : Machine.Group), OpenA (.loop y) y 7 s → s.front s.here.core = some g →
      let n := (y.imm.extractLsb' 22 2).toNat
      let there := s.here.addr + BitVec.ofInt 64 ((y.imm.extractLsb' 0 22).toInt * 8)
      Answers (exec (.loop y) s) (fun t =>
        (1 < (g.rdK n).toNat → t.me.awr = g.awr ++ [(2, n, ((g.rdK n) - 1).setWidth 64)] ∧
          t.me.qs.bqa = g.qs.bqa ++ [{ taken := true, target := there }] ∧ t.here.aNext = some there) ∧
        ((g.rdK n).toNat ≤ 1 → t.me.awr = g.awr ++ [(2, n, 0)] ∧
          t.me.qs.bqa = g.qs.bqa ++ [{ taken := false, target := s.here.addr + BitVec.ofNat 64 s.here.size }] ∧
          t.here.aNext = none) ∧
        sameExecute t.me g ∧ sameAccess t.me g ∧ sameDevice s t ∧ sameOthers s.here.core s t)))

/-! ## The V0 and V1 slots (R133–R163) -/

/-- The forms of one or two sources without rounding: each element of the result, where the guard enables it, is the
form's value on the elements of its sources, after the form's latency. Integer elements: the arithmetic of each width,
exact and then modulo 2^w or saturated, signed and unsigned. Where it says more than the spec does, it states the model's
own choice: log entry 14. -/
def Obligations.VectorPlainForms : Prop :=
  (
    (∀ e ∈ [(Instr.vabs, fun (y : Syl) (t : Ty) (a : Nat) => laneAbs t y.sat a), (Instr.vneg, fun y t a => laneNeg t y.sat a),
        (Instr.vclz, fun _ t a => ((List.range t.width).find? (fun i => a.testBit (t.width - 1 - i))).getD t.width),
        (Instr.vpopc, fun _ t a => (List.range t.width).countP (fun i => a.testBit i)), (Instr.vmov, fun _ _ a => a),
        (Instr.vclass, fun _ t a => match t with
          | .float f => classOf f a
          | _ => 0)],
      ∀ (hi : Bool) (y : Syl) (s : State) (t : Ty), (e.1 hi y).wf = true → Ty.ofCode y.ty = some t →
        let (a, u) := readV y.srca s
        exec (e.1 hi y) s = .next (finishV 2 y t.width (s.me.enables y.guard t.count) (fun i => e.2 y t (a.at t i)) u)) ∧
    (∀ e ∈ [(Instr.vmin, fun (t : Ty) => laneMin t false), (Instr.vmax, fun t => laneMin t true), (Instr.vadds, laneAddSat),
        (Instr.vsubs, laneSubSat), (Instr.vmulh, laneMulHi), (Instr.vand, fun _ a b => a &&& b), (Instr.vor, fun _ a b => a ||| b),
        (Instr.vxor, fun _ a b => a ^^^ b), (Instr.vandn, fun t a b => a &&& notW t.width b),
        (Instr.vshl, fun t a b => a * 2 ^ (b % t.width) % 2 ^ t.width), (Instr.vshr, fun t a b => a / 2 ^ (b % t.width)),
        (Instr.vsra, fun t a b => wrap t.width (signed t.width a / 2 ^ (b % t.width)))],
      ∀ (hi : Bool) (y : Syl) (s : State) (t : Ty), (e.1 hi y).wf = true → Ty.ofCode y.ty = some t →
        let (a, u) := readV y.srca s
        let (b, v) := readV y.srcb u
        exec (e.1 hi y) s =
          .next (finishV 2 y t.width (s.me.enables y.guard t.count) (fun i => e.2 t (a.at t i) (b.at t i)) v)) ∧
    (∀ (hi : Bool) (y : Syl) (s : State) (t : Ty), (Instr.vli hi y).wf = true → Ty.ofCode y.ty = some t →
      exec (.vli hi y) s =
        .next (finishV 2 y t.width (s.me.enables y.guard t.count) (fun _ => vliElem t (y.srca.toNat * 256 + y.srcb.toNat)) s))) ∧
  (
    ∀ w ∈ [8, 16, 32, 64], ∀ (a b c : Nat) (md : Mode) (sat : Bool), a < 2 ^ w → b < 2 ^ w → c < 2 ^ w →
      (∀ t ∈ [Ty.int w, Ty.nat w],
        laneAdd t md sat a b = (a + b) % 2 ^ w ∧ laneSub t md sat a b = (a + (2 ^ w - b)) % 2 ^ w ∧
        laneMul t md sat a b = a * b % 2 ^ w ∧
        laneFma t false md sat a b c = (a * b + c) % 2 ^ w ∧ laneFma t true md sat a b c = (a * b + (2 ^ w - c)) % 2 ^ w ∧
        laneNeg t false a = (2 ^ w - a) % 2 ^ w) ∧
      laneAddSat (.nat w) a b = min (a + b) (2 ^ w - 1) ∧ laneSubSat (.nat w) a b = a - b ∧
      laneMulHi (.nat w) a b = a * b / 2 ^ w ∧ laneMin (.nat w) false a b = min a b ∧ laneMin (.nat w) true a b = max a b ∧
      signed w (laneAddSat (.int w) a b) = max (-(2 ^ (w - 1))) (min (2 ^ (w - 1) - 1) (signed w a + signed w b)) ∧
      signed w (laneSubSat (.int w) a b) = max (-(2 ^ (w - 1))) (min (2 ^ (w - 1) - 1) (signed w a - signed w b)) ∧
      signed w (laneMulHi (.int w) a b) = signed w a * signed w b / 2 ^ w ∧
      signed w (laneMin (.int w) false a b) = min (signed w a) (signed w b) ∧
      signed w (laneMin (.int w) true a b) = max (signed w a) (signed w b) ∧
      (signed w a ≠ -(2 ^ (w - 1)) → (laneAbs (.int w) sat a : Int) = (signed w a).natAbs) ∧
      (signed w a = -(2 ^ (w - 1)) → laneAbs (.int w) true a = 2 ^ (w - 1) - 1 ∧ laneNeg (.int w) true a = 2 ^ (w - 1) - 1))

/-- The forms that round: the mode is the syllable's own or RMODE, SR pops one random word whatever the guard, and each
element is the form's value on its sources' elements. The rounding of a syllable: RNE, RTZ, RUP and RDN take no random
word; SR, named or by RMODE, pops the oldest word of RBQ and moves the counter's low 21 bits on by one; DYN is RMODE.
Where it says more than the spec does, it states the model's own choice: log entries 14 and 24. -/
def Obligations.VectorRoundedForms : Prop :=
  (
    let lat := fun (t : Ty) => match t with
      | .float _ => 4
      | _ => 2
    (∀ e ∈ [(Instr.vadd, lat, laneAdd), (Instr.vsub, lat, laneSub), (Instr.vmul, lat, laneMul),
        (Instr.vscale, fun _ => 4, fun t md sat a b => match t with
          | .float f => laneScale f md sat a b
          | _ => 0)],
      ∀ (hi : Bool) (y : Syl) (s : State) (t : Ty), (e.1 hi y).wf = true → Ty.ofCode y.ty = some t →
        let (a, u) := readV y.srca s
        let (b, v) := readV y.srcb u
        let (r, w) := rounding y v
        exec (e.1 hi y) s = .next (finishV (e.2.1 t) y t.width (s.me.enables y.guard t.count)
          (fun i => e.2.2 t (r.at t.count i) y.sat (a.at t i) (b.at t i)) w)) ∧
    (∀ e ∈ [(Instr.vfma, false), (Instr.vfms, true)],
      ∀ (hi : Bool) (y : Syl) (s : State) (t : Ty), (e.1 hi y).wf = true → Ty.ofCode y.ty = some t →
        let (a, u) := readV y.srca s
        let (b, v) := readV y.srcb u
        let (c, w) := readV y.srcc v
        let (r, x) := rounding y w
        exec (e.1 hi y) s = .next (finishV (lat t) y t.width (s.me.enables y.guard t.count)
          (fun i => laneFma t e.2 (r.at t.count i) y.sat (a.at t i) (b.at t i) (c.at t i)) x)) ∧
    (∀ e ∈ [(Instr.vdot2, 2), (Instr.vdot4, 4)],
      ∀ (hi : Bool) (y : Syl) (s : State) (t : Ty), (e.1 hi y).wf = true → Ty.ofCode y.ty = some t →
        let (a, u) := readV y.srca s
        let (b, v) := readV y.srcb u
        let (c, w) := readV y.srcc v
        let (r, x) := rounding y w
        exec (e.1 hi y) s = .next (finishV 4 y 32 (s.me.enables y.guard 64) (fun j => laneDot t e.2 (r.at 64 j) y.sat a b c j) x)) ∧
    (∀ e ∈ [(Instr.vrcp, laneRcp), (Instr.vrsq, Fmt.rsqrt), (Instr.vexp2, Fmt.exp2), (Instr.vlog2, Fmt.log2),
        (Instr.vtanh, Fmt.tanh)],
      ∀ (hi : Bool) (y : Syl) (s : State) (f : Fmt), (e.1 hi y).wf = true → Ty.ofCode y.ty = some (.float f) →
        let t : Ty := .float f
        let (a, u) := readV y.srca s
        let (r, w) := rounding y u
        exec (e.1 hi y) s = .next (finishV 8 y t.width (s.me.enables y.guard t.count)
          (fun i => e.2 f (r.at t.count i) y.sat (f.dec (a.at t i))) w)) ∧
    -- the blocking forms hold the stream for 16 execute cycles (R162)
    (∀ (hi : Bool) (y : Syl) (s : State) (f : Fmt), Ty.ofCode y.ty = some (.float f) → s.here.off = [] →
      let t : Ty := .float f
      let hold := fun (u : State) => u.upd (fun g => { g with holdLeft := max g.holdLeft 16 })
      let on := s.me.enables y.guard t.count
      ((Instr.vsqrt hi y).wf = true →
        let (a, u) := readV y.srca s
        let (r, w) := rounding y u
        exec (.vsqrt hi y) s = .next (hold (finishV 16 y t.width on (fun i => f.sqrt (r.at t.count i) y.sat (f.dec (a.at t i))) w))) ∧
      ((Instr.vdiv hi y).wf = true →
        let (a, u) := readV y.srca s
        let (b, v) := readV y.srcb u
        let (r, w) := rounding y v
        exec (.vdiv hi y) s = .next (hold (finishV 16 y t.width on
          (fun i => f.div (r.at t.count i) y.sat (f.dec (a.at t i)) (f.dec (b.at t i))) w))))) ∧
  (
    ∀ (y : Syl) (s : State) (g : Machine.Group), s.front s.here.core = some g → g.rmode.toNat ≤ 4 → y.rnd ≤ 5 →
      let md := if y.rnd = 5 then g.rmode.toNat else y.rnd
      (md = 0 → rounding y s = (.fixed .rne, s)) ∧ (md = 1 → rounding y s = (.fixed .rtz, s)) ∧
      (md = 2 → rounding y s = (.fixed .rup, s)) ∧ (md = 3 → rounding y s = (.fixed .rdn, s)) ∧
      (∀ w ws, md = 4 → g.rbq = w :: ws → (rounding y s).1 = .sr w ∧ (rounding y s).2.me.rbq = ws ∧
        (rounding y s).2.me.rctr.extractLsb' 0 21 = g.rctr.extractLsb' 0 21 + 1 ∧
        (rounding y s).2.me.rctr.extractLsb' 21 43 = g.rctr.extractLsb' 21 43))

/-- VSEL: element e of the result is a's where bit e of mMD is 1, else b's; the guard acts apart from the selecting mask.
MAND, MOR, MXOR, MNOT: bit i of the result from bits i of the masks that SRCA and SRCB name; bits whose guard bit is 0 are
not written; a SRCA, or SRCB of the two-source forms, above 0x0F traps with ILLOP. -/
def Obligations.MasksSelect : Prop :=
  (
    ∀ (hi : Bool) (y : Syl) (s : State) (t : Ty), (Instr.vsel hi y).wf = true → Ty.ofCode y.ty = some t →
      let (a, u) := readV y.srca s
      let (b, v) := readV y.srcb u
      exec (.vsel hi y) s = .next (finishV 2 y t.width (s.me.enables y.guard t.count)
        (fun e => if (s.me.rdM y.md).getLsbD e then a.at t e else b.at t e) v)) ∧
  (
    ∀ e ∈ [(Instr.mand, true, fun a b => a && b), (Instr.mor, true, fun a b => a || b), (Instr.mxor, true, fun a b => a ^^ b),
        (Instr.mnot, false, fun a _ => !a)],
      ∀ (hi : Bool) (y : Syl) (s : State),
        ((e.1 hi y).wf = true → ∃ f : Flight, exec (e.1 hi y) s = .next (s.upd (fun g => { g with flight := g.flight ++ [f] })) ∧
          f.left = 1 ∧ f.slot = s.here.slot ∧ f.dst = .mreg y.md ∧ f.nwb = false ∧
          ∀ i < 256, f.en.getLsbD i = s.me.guardX y.guard i ∧
            f.val.getLsbD i = e.2.2 ((s.me.rdM y.srca.toNat).getLsbD i) ((s.me.rdM y.srcb.toNat).getLsbD i)) ∧
        ((0x0F < y.srca.toNat ∨ (e.2.1 = true ∧ 0x0F < y.srcb.toNat)) → exec (e.1 hi y) s = .next (raise ILLOP s)))

/-- VZIP interleaves halves of its sources and VUNZIP separates even or odd elements, by FN 0 or 1; FN 2 to 15 traps with
ILLOP. -/
def Obligations.ZipUnzip : Prop :=
  ∀ (hi : Bool) (y : Syl) (s : State),
    (∀ t, Ty.ofCode y.ty = some t → ∀ i < t.count / 2,
      let (a, u) := readV y.srca s
      let (b, v) := readV y.srcb u
      let on := s.me.enables y.guard t.count
      ((Instr.vzip hi y).wf = true → ∃ f : Nat → Nat, exec (.vzip hi y) s = .next (finishV 3 y t.width on f v) ∧
        f (2 * i) = a.at t (y.fn * (t.count / 2) + i) ∧ f (2 * i + 1) = b.at t (y.fn * (t.count / 2) + i)) ∧
      ((Instr.vunzip hi y).wf = true → ∃ f : Nat → Nat, exec (.vunzip hi y) s = .next (finishV 3 y t.width on f v) ∧
        f i = a.at t (2 * i + y.fn) ∧ f (t.count / 2 + i) = b.at t (2 * i + y.fn))) ∧
    (2 ≤ y.fn → exec (.vzip hi y) s = .next (raise ILLOP s) ∧ exec (.vunzip hi y) s = .next (raise ILLOP s))

/-- The compares, counts, reductions, scans and permutes: what each launches. Where it says more than the spec does, it
states the model's own choice: log entry 14. -/
def Obligations.VectorShuffles : Prop :=
  ∀ (hi : Bool) (y : Syl) (s : State) (t : Ty), Ty.ofCode y.ty = some t →
    let g := s.me
    let E := t.count
    let on := g.enables y.guard E
    let m := g.rdM y.md
    let (a, u) := readV y.srca s
    let (b, v) := readV y.srcb u
    let ones := fun (k : Nat) => ((List.range k).filter (fun j => m.getLsbD j)).length
    let part := (List.range E).filter (fun e => (g.rdM y.srca.toNat).getLsbD e && g.guardX y.guard e)
    ((Instr.vcmpCc hi y).wf = true → ∃ f : Flight,
      exec (.vcmpCc hi y) s = .next (v.upd (fun g => { g with flight := g.flight ++ [f] })) ∧
      f.left = 2 ∧ f.slot = v.here.slot ∧ f.dst = .mreg y.md ∧
      (∀ e < E, e < 256 → f.en.getLsbD e = on e ∧ (on e = true → f.val.getLsbD e = laneCond t y.fn (a.at t e) (b.at t e))) ∧
      (∀ e, E ≤ e → f.en.getLsbD e = false)) ∧
    ((Instr.mpopc hi y).wf = true → exec (.mpopc hi y) s = .next (finishW 1 y (BitVec.ofNat 2048 part.length) s)) ∧
    ((Instr.mfirst hi y).wf = true → exec (.mfirst hi y) s = .next (finishW 1 y (BitVec.ofNat 2048 (part.headD E)) s)) ∧
    ((Instr.vred hi y).wf = true →
      let (r, w) := rounding y u
      let x := reduce t y.fn (r.at E 0) (((List.range E).filter on).map (a.at t))
      let all := BitVec.allOnes 2048
      ((y.dst ≠ 0x42 ∨ ∀ n, t ≠ .int n) → exec (.vred hi y) s = .next (finishW 6 y (BitVec.ofNat 2048 x) w)) ∧
      (∀ n, y.dst = 0x42 → t = .int n → exec (.vred hi y) s = .next ((w.upd (fun g => { g with flight := g.flight ++
          [{ left := 6, slot := w.here.slot, dst := .latch, val := BitVec.ofNat 2048 x, en := all }] })).upd (fun g =>
        (g.reserve 6).2.launch { left := 6, slot := 3, dst := .queue 6 (g.reserve 6).1,
                                 val := (BitVec.ofInt 64 (signed n x)).setWidth 2048, en := all })))) ∧
    ((Instr.vscan hi y).wf = true →
      let (r, w) := rounding y u
      exec (.vscan hi y) s = .next (finishV 6 y t.width on
        (fun e => reduce t y.fn (r.at E e) (((List.range (e + 1)).filter on).map (a.at t))) w)) ∧
    -- an index is the number that an immediate or a special stands for, whatever the element type (R150)
    ((Instr.vperm hi y).wf = true →
      let ix := fun (e : Nat) => match b with
        | .reg x => (x.toNat / 2 ^ (t.width * e)) % 2 ^ t.width
        | .splat k => (k % 2 ^ t.width).toNat
        | .lane => e
      (y.fn = 0 → exec (.vperm hi y) s = .next (finishV 3 y t.width on (fun e => a.at t (ix e % E)) v)) ∧
      (y.fn = 1 → exec (.vperm hi y) s = .next (finishV 3 y t.width on (fun e =>
        let i := ix e % (2 * E)
        if i < E then a.at t i else (readV y.srcc v).1.at t (i - E)) (readV y.srcc v).2))) ∧
    ((Instr.vrot hi y).wf = true → exec (.vrot hi y) s = .next (finishV 3 y t.width on
      (fun e => a.at t (((e : Int) + (readX y.srcc u).1.toInt) % (E : Int)).toNat) (readX y.srcc u).2)) ∧
    ((Instr.vbcast hi y).wf = true → exec (.vbcast hi y) s = .next (finishV 3 y t.width on
      (fun _ => (readX y.srcc s).1.toNat % 2 ^ t.width) (readX y.srcc s).2)) ∧
    ((Instr.vins hi y).wf = true → exec (.vins hi y) s = .next (finishV 3 y t.width
      (fun e => e != (y.imm.extractLsb' 0 8).toNat || on e)
      (fun e => if e = (y.imm.extractLsb' 0 8).toNat then (readX y.srcc u).1.toNat % 2 ^ t.width else a.at t e)
      (readX y.srcc u).2)) ∧
    ((Instr.vext hi y).wf = true →
      let ix := (y.imm.extractLsb' 0 8).toNat
      let x : Word := match t with
        | .int w => BitVec.ofInt 64 (signed w (a.at t ix))
        | _ => BitVec.ofNat 64 (a.at t ix)
      exec (.vext hi y) s = .next (finish 3 y.dst (x.setWidth 2048) (if on ix then BitVec.allOnes 2048 else 0) u)) ∧
    ((Instr.vcomp hi y).wf = true → ∃ f : Nat → Nat, exec (.vcomp hi y) s = .next (finishV 3 y t.width on f u) ∧
      (∀ j < E, m.getLsbD j = true → f (ones j) = a.at t j) ∧ (∀ e, ones E ≤ e → f e = 0)) ∧
    ((Instr.vexpd hi y).wf = true → exec (.vexpd hi y) s = .next (finishV 3 y t.width on
      (fun e => if m.getLsbD e then a.at t (ones e) else 0) u)) ∧
    ((Instr.viota hi y).wf = true → exec (.viota hi y) s = .next (finishV 3 y t.width on ones s))

/-- The conversions: element e of the part that the form fills is the conversion of its source element, an element that a
narrowing leaves is SRCC's; the cb4 forms take their codebook from SRCB. Where it says more than the spec does, it states
the model's own choice: log entry 14. -/
def Obligations.Conversions : Prop :=
  ∀ (hi : Bool) (y : Syl) (s : State) (d st : Ty), Ty.ofCode y.ty = some d → Ty.ofCode y.fn = some st →
    let on := s.me.enables y.guard d.count
    let md := if y.rnd = 5 then s.me.rmode.toNat else y.rnd
    ((Instr.vnarrow hi y).wf = true → exec (.vnarrow hi y) s =
      .next (convertForm y d st false (fun _ _ _ x => wrap d.width (if y.sat then d.sat (st.val x) else st.val x)) on s)) ∧
    ((Instr.vwiden hi y).wf = true → exec (.vwiden hi y) s =
      .next (convertForm y d st false (fun _ _ _ x => wrap d.width (st.val x)) on s)) ∧
    ((Instr.vcvt hi y).wf = true →
      (d ≠ .cb4 → st ≠ .cb4 → exec (.vcvt hi y) s =
        .next (convertForm y d st false (fun _ r e x => convert d st (r.at d.count e) y.sat x) on s)) ∧
      (∀ f, d = .float f → st = .cb4 → exec (.vcvt hi y) s =
        .next (convertForm y d .cb4 true (fun b _ _ x => cbDecode (f.w == 32) (opndBook b) x) on s)) ∧
      (∀ f, d = .cb4 → st = .float f → (md = 0 ∨ md = 4) → exec (.vcvt hi y) s =
        .next (convertForm y .cb4 (.float f) true (fun b r e x => cbEncode f (opndBook b) (match r with
          | .sr w => some ((w.toNat / 2 ^ (4 * e)) % 16, 4)
          | .fixed _ => none) x) on s)) ∧
      (∀ f, d = .cb4 → st = .float f → md ≠ 0 → md ≠ 4 → exec (.vcvt hi y) s = .next (raise ILLOP s))) ∧
    -- which element comes from where (R154)
    (∀ (a c : VOpnd) (conv : Nat → Nat → Nat) (e : Nat),
      (st.width < d.width → converted y d st a c conv e = conv e (a.at st (y.md * d.count + e))) ∧
      (st.width = d.width → converted y d st a c conv e = conv e (a.at st e)) ∧
      (d.width < st.width → converted y d st a c conv e =
        if y.md * st.count ≤ e ∧ e < (y.md + 1) * st.count then conv e (a.at st (e - y.md * st.count)) else c.at d e))

/-- A pair syllable: both halves read their sources first; the scalar half launches its result from slot 0 where the
guard's bit 0 holds, the vector half its elements from slot 1 under the guard's bits. Where it says more than the spec
does, it states the model's own choice: log entry 14. -/
def Obligations.PairHalves : Prop :=
  ∀ (y : PairSyl) (s : State), (Instr.pair y).wf = true → s.here.slot = 0 →
    let g := s.me
    let (a, b, t) := readX2 (y.xa.setWidth 8) y.xb s
    let (p, u) := readV (y.va.setWidth 8) t
    let (q, v) := readV y.vb u
    let ty := (pairVector y.vop.toNat).1
    let op := (pairVector y.vop.toNat).2
    let sc := pairScalar y.xop.toNat a b
    let r := VRes.elems ty.width (g.enables y.guard ty.count) (fun e => op (p.at ty e) (q.at ty e))
    let f : Flight := { left := if y.vop = 0x13 ∨ y.vop = 0x14 then 2 else arithLat ty, slot := 1, dst := .vreg y.vdst.toNat,
                        val := r.val, en := r.en }
    exec (.pair y) s = .next ((if g.guardX y.guard 0 then finishS sc.2 (y.xdst.setWidth 8) sc.1 v else v).upd
      (fun g => { g with flight := g.flight ++ [f] }))

/-! ## The M slot (R166–R190) -/

/-- The forms that queue a command, with no engine fault pending: the command enters the matrix command queue of the core
behind the earlier ones, under the group's name, and nothing else of the device changes. A pending engine fault traps at
the group's next M syllable but MCHKR and MFLUSH.DROP, with its cause, and is cleared; an MUPLD that the privilege check
turns away has not come so far. Where it says more than the spec does, it states the model's own choice: log entries 43
and 47. -/
def Obligations.MatrixCommandsQueue : Prop :=
  (
    let none' := fun (_ : Syl) (s : State) => s
    let a := fun (y : Syl) (s : State) => (readX y.srca s).1
    let popA := fun (y : Syl) (s : State) => (readX y.srca s).2
    let two := fun (y : Syl) (s : State) => readX2 y.srca y.srcb s
    let f := fun (y : Syl) (lo n : Nat) => (y.imm.extractLsb' lo n).toNat
    ∀ e ∈ [(Instr.mcall, none', fun (y : Syl) (s : State) =>
          MKind.mcall (f y 0 6) (f y 6 5) (y.imm.getLsbD 11) (y.imm.getLsbD 12) s.me.mp),
        (Instr.mlds, popA, fun y s => .mlds (a y s) (y.imm.extractLsb' 20 4) (y.imm.extractLsb' 16 4)),
        (Instr.mswp, none', fun _ _ => .mswp),
        (Instr.mshape, none', fun y _ => .mshape (y.imm.extractLsb' 0 4)),
        (Instr.mflush, none', fun y _ => .mflush (y.imm.getLsbD 6) (f y 1 5)),
        (Instr.epcfg, fun y s => (two y s).2.2, fun y s => .epcfg
          { scaleAddr := (two y s).1.toNat % 2 ^ 23, pitch := (two y s).2.1.toNat % 2 ^ 16, out := y.imm.extractLsb' 20 4
            round := if f y 17 3 = 5 then (two y s).2.2.me.rmode else y.imm.extractLsb' 17 3, sat := y.imm.getLsbD 16
            act := y.imm.extractLsb' 14 2, sb := y.imm.getLsbD 13, shd := y.imm.getLsbD 12, oswz := y.imm.extractLsb' 8 4 }),
        (Instr.eprun, popA, fun y s => .eprun (a y s) (y.imm.getLsbD 5) (f y 0 5)),
        (Instr.mupld, fun y s => (two y s).2.2, fun y s => .mupld (f y 0 6) (two y s).1 (two y s).2.1.toNat (f y 6 11))],
      ∀ (y : Syl) (s : State), OpenX (e.1 y) y 3 s → s.seated → s.me.fault = none →
        ((∃ z, e.1 y = .eprun z) → (s.myMat.ringOf s.me.gid).all (fun r => !r.swc) = true) →
        ((∃ z, e.1 y = .mupld z) → s.me.gstat.mode = true ∧ (32 ≤ f y 0 6 ∨ (s.ctx s.me.ctx).devr = true) ∧
          (two y s).2.1.toNat ≠ 0 ∧ f y 6 11 + (two y s).2.1.toNat ≤ 2048 ∧ (two y s).1.toNat % 4 = 0) →
        let u := e.2.1 y s
        let c := s.here.core
        Answers (exec (e.1 y) s) (fun t =>
          (t.core c).mat = { (s.core c).mat with queue := (s.core c).mat.queue ++
            [{ bank := s.myBank, gid := s.me.gid, ctx := s.me.ctx, share := s.me.share, smode := s.me.gstat.mode,
               seq := s.fresh, kind := e.2.2 y s }] } ∧
          t.me = u.me ∧ t.fresh = s.fresh + 1 ∧ sameDevice s { t with fresh := s.fresh } ∧ sameOthers c s t)) ∧
  (
    ∀ i ∈ [Instr.mcall, .mlds, .mswp, .mpw, .mshape, .mring, .mradv, .epcfg, .eprun, .mupld, .mflush],
      ∀ (y : Syl) (s : State) (f : MFault), OpenX (i y) y 3 s → s.me.fault = some f →
        (i y = .mupld y → s.me.gstat.mode = true ∧ (32 ≤ (y.imm.extractLsb' 0 6).toNat ∨ (s.ctx s.me.ctx).devr = true)) →
        exec (i y) s = .next (raise f.cause (s.upd (fun g => { g with fault := none }))))

/-- MPW gives a parameter register its value for the next bundle on; MCHKR returns the checksum status, a count or the
pending fault with latency 3; MRADV consumes the ring's tail; MRING takes the lowest free tiles, zeroed, as the group's
ring; MFLUSH.DROP drops the group's commands, its filled tiles and its fault. Where it says more than the spec does, it
states the model's own choice: log entries 43, 48 and 50. -/
def Obligations.MatrixAtIssue : Prop :=
  (∀ (y : Syl) (s : State), OpenX (.mpw y) y 3 s → s.me.fault = none →
    exec (.mpw y) s = .next ((readX y.srca s).2.upd (fun g => { g with flight := g.flight ++
      [{ left := 1, slot := 3, dst := .mpreg (y.imm.extractLsb' 0 3).toNat, val := (readX y.srca s).1.setWidth 2048,
         en := BitVec.allOnes 2048 }] }))) ∧
  (∀ (y : Syl) (s : State), OpenX (.mchkr y) y 3 s →
    let w := (y.imm.extractLsb' 0 2).toNat
    let m := s.myMat
    let zero := fun (f : Matrix → Matrix) => if y.imm.getLsbD 7 then s.modMat s.here.core f else s
    (w = 0 → ∀ r n, m.ringOf s.me.gid = some r → r.tiles[(y.imm.extractLsb' 2 5).toNat]? = some n →
      exec (.mchkr y) s = .next (finishS 3 y.dst ((m.tile n).status.setWidth 64) s)) ∧
    (w = 1 → exec (.mchkr y) s = .next (finishS 3 y.dst (m.na.setWidth 64) (zero (fun m => { m with na := 0 })))) ∧
    (w = 2 → exec (.mchkr y) s = .next (finishS 3 y.dst (m.failed.setWidth 64) (zero (fun m => { m with failed := 0 })))) ∧
    (w = 3 → s.me.fault = none → exec (.mchkr y) s = .next (finishS 3 y.dst 0 s)) ∧
    (w = 3 → ∀ f, s.me.fault = some f → f.rout < 64 → f.word < 4096 → exec (.mchkr y) s = .next (finishS 3 y.dst
      (BitVec.ofNat 64 (f.cause.toNat + f.rout * 256 + f.word * 16384 + (if f.epi then 2 ^ 26 else 0))) s))) ∧
  (∀ (y : Syl) (s : State) (r : Ring), OpenX (.mradv y) y 3 s → s.me.fault = none →
    s.myMat.ringOf s.me.gid = some r → r.swc = true → r.filled ≠ 0 → s.ringLoads = false →
    let r' : Ring := { r with tail := (r.tail + 1) % max 1 r.tiles.length, filled := r.filled - 1 }
    exec (.mradv y) s = .next (s.modMat s.here.core (fun m => m.putRing r')) ∧
    (s.myMat.putRing r').ringOf s.me.gid = some r') ∧
  (∀ (y : Syl) (s : State), OpenX (.mring y) y 3 s → s.seated → s.me.fault = none →
    let m := s.myMat
    let len := (y.imm.extractLsb' 0 5).toNat
    m.queue.all (fun c => c.gid != s.me.gid) = true → (m.ringOf s.me.gid).all (fun r => r.filled == 0) = true →
    let others := m.rings.filter (fun r => r.gid != s.me.gid)
    let free := (List.range 16).filter (fun t => !(others.flatMap (·.tiles)).contains t)
    let u := s.modMat s.here.core (fun m => m.freeRing s.me.gid)
    len ≤ free.length → u.ringHeld s.me s.myCluster + len ≤ u.ringClaim s.me →
    Answers (exec (.mring y) s) (fun t =>
      (t.core s.here.core).mat.rings =
        others ++ [{ gid := s.me.gid, share := s.me.share, tiles := free.take len, swc := y.imm.getLsbD 5 }] ∧
      (∀ n ∈ free.take len, (t.core s.here.core).mat.tile n = {}) ∧
      (∀ n, n ∉ free.take len → (t.core s.here.core).mat.tile n = m.tile n) ∧
      t.me = s.me ∧ sameDevice s t ∧ sameOthers s.here.core s t)) ∧
  (∀ (y : Syl) (s : State), OpenX (.mflushDrop y) y 3 s → s.seated → y.imm.getLsbD 6 = false →
    Answers (exec (.mflushDrop y) s) (fun t =>
      let m := (t.core s.here.core).mat
      m.queue = s.myMat.queue.filter (fun c => c.gid != s.me.gid) ∧
      (∀ r, m.ringOf s.me.gid = some r → r.filled = 0 ∧ r.tail = r.head) ∧ t.me = { s.me with fault := none } ∧ sameDevice s t ∧
      sameOthers s.here.core s t))

/-! ## Micro-ops (R173–R189) -/

/-- The micro-ops that control a routine: what each leaves of the routine, the planes and the barriers; the routine goes
on at its next word, or where its loop sends it, or it is done. The micro-ops that act on the group's ring: ZERO clears
the head tile but for its check status, ADV judges it and makes it the last filled one where a tile is free for the next
head, and waits otherwise. Integer accumulation: one row of an int8 plane adds the exact dot product of the row and each
column, modulo 2^32. Where it says more than the spec does, it states the model's own choice: log entry 44. -/
def Obligations.RingMicroOps : Prop :=
  (
    ∀ (s : State) (r : Run), (s.core s.here.core).mat.run = some r →
      let c := s.here.core
      let m := (s.core c).mat
      let next : Run := { r with pc := r.pc + 1 }
      let keep := fun (t : State) => sameDevice s t ∧ sameOthers c s t
      Answers (exec .nopm s) (fun t => (t.core c).mat = { m with run := some next } ∧ keep t) ∧
      Answers (exec .swp s) (fun t => (t.core c).mat = { m with active := m.shadow, shadow := m.active, run := some next } ∧ keep t) ∧
      (∀ e, Answers (exec (.chk e) s) (fun t => (t.core c).mat = { m with chk := e == 1, run := some next } ∧ keep t)) ∧
      (∀ n : BitVec 16, n ≠ 0 → Answers (exec (.lp n) s) (fun t =>
        (t.core c).mat = { m with run := some { next with loops := (r.pc + 1, n.toNat) :: r.loops } } ∧ keep t)) ∧
      (∀ w, Answers (exec (.lpReg w) s) (fun t => (t.core c).mat =
        { m with run := some { next with loops := (r.pc + 1, (Tab.get 0 r.wp w.toNat).toNat % 65536) :: r.loops } } ∧ keep t)) ∧
      (∀ w n rest, r.loops = (w, n) :: rest → Answers (exec .el s) (fun t =>
        (1 < n → (t.core c).mat = { m with run := some { r with pc := w, loops := (w, n - 1) :: rest } }) ∧
        (n ≤ 1 → (t.core c).mat = { m with run := some { next with loops := rest } }) ∧ keep t)) ∧
      (∀ w h (i : BitVec 20), Answers (exec (.ainc w h i) s) (fun t => ∃ q : Run, (t.core c).mat = { m with run := some q } ∧
        q.pc = r.pc + 1 ∧ q.loops = r.loops ∧ q.cmd = r.cmd ∧
        Tab.get 0 q.wp w.toNat = Tab.get 0 r.wp w.toNat + BitVec.ofInt 64 (i.toInt * 2 ^ h.toNat) ∧
        (∀ n, n ≠ w.toNat → Tab.get 0 q.wp n = Tab.get 0 r.wp n) ∧ keep t)) ∧
      Answers (exec .retm s) (fun t => (t.core c).mat =
        { m with run := none, queue := m.queue.filter (fun x => x.seq != r.cmd.seq) } ∧ keep t) ∧
      (∀ b p, Answers (exec (.waitb b p) s) (fun t =>
        let x := s.bar (c / 4) r.cmd.ctx b.toNat
        (x.phase ≠ (p == 1) ∨ (∃ n, r.waitFrom = some n ∧ n ≠ x.phases) →
          (t.core c).mat = { m with run := some { next with waitFrom := none } }) ∧
        (x.phase = (p == 1) → (∀ n, r.waitFrom = some n → n = x.phases) →
          (t.core c).mat = { m with run := some { r with waitFrom := some x.phases } }) ∧ keep t)) ∧
      (∀ b (n : BitVec 23), n ≠ 0 → exec (.arrb b n) s =
        .next ((s.arrive (c / 4) r.cmd.ctx b.toNat n.toNat false).setRun (fun r => { r with pc := r.pc + 1 })))) ∧
  (
    ∀ (s : State) (r : Run) (x : Ring), (s.core s.here.core).mat.run = some r →
      (s.core s.here.core).mat.ringOf r.cmd.gid = some x →
      let c := s.here.core
      let m := (s.core c).mat
      let head := x.phys x.head
      Answers (exec .zero s) (fun t => (t.core c).mat.tile head = { status := (m.tile head).status } ∧ (∀ n, n ≠ head → (t.core c).mat.tile n = m.tile n) ∧
        (t.core c).mat.run = some { r with pc := r.pc + 1 } ∧ sameDevice s t ∧ sameOthers c s t) ∧
      (x.tiles.length ≤ x.filled + 1 → exec .adv s = .next s) ∧
      (x.filled + 1 < x.tiles.length → Answers (exec .adv s) (fun t =>
        (t.core c).mat.ringOf r.cmd.gid = some { x with head := (x.head + 1) % x.tiles.length, filled := x.filled + 1 } ∧
        ((t.core c).mat.tile head).status = (m.tile head).judge ∧ ((t.core c).mat.tile head).data = (m.tile head).data ∧
        (t.core c).mat.run = some { r with pc := r.pc + 1 } ∧ t.mem = s.mem ∧ t.host = s.host ∧ sameStores s t))) ∧
  (
    ∀ (p : Plane) (a : List Nat) (n acc : Nat), ((p.column 0 a n acc : Nat) : Int) =
      (signed 32 acc + ((List.range a.length).map (fun k => signed 8 (a.getD k 0) * signed 8 (p.at k n))).sum) % 2 ^ 32)

/-- LST, STRM and STRC once their bands are powered and their slots restored and tagged: the shadow plane is read from
operand store; the rows accumulate into the head tile; a misaligned base or row faults with ALIGN. Where it says more than
the spec does, it states the model's own choice: log entry 44. -/
def Obligations.StreamingMicroOps : Prop :=
  ∀ (s : State) (r : Run), (s.core s.here.core).mat.run = some r →
    let c := s.here.core
    let cl := c / 4
    let m := (s.core c).mat
    (∀ (b : BitVec 3) (f z : BitVec 4), (Instr.lst b f z).wf = true →
      let base := (Tab.get 0 r.wp b.toNat).toNat % 2 ^ 23
      let n := kEff m.ashape f.toNat * 128
      s.bandsOn cl m.ashape = true → s.osReady cl base n = true →
      (base % 4096 = 0 → s.tagCheck cl base n f.toNat z.toNat = none → Answers (exec (.lst b f z) s) (fun t =>
        (t.core c).mat.shadow = s.readPlane cl base f.toNat z.toNat m.ashape ∧ (t.core c).mat.active = m.active ∧
        (t.core c).mat.run = some { r with pc := r.pc + 1 } ∧ sameMemory s t ∧ sameStores s t)) ∧
      (base % 4096 ≠ 0 → exec (.lst b f z) s = .next (s.runFault r ALIGN))) ∧
    (∀ (a : BitVec 3) (rows row0 : BitVec 5) (f z : BitVec 4) (p : BitVec 7), (Instr.strm a rows row0 f z p).wf = true →
      let base := (Tab.get 0 r.wp a.toNat).toNat % 2 ^ 23
      let pitch := if p = 0 then kEff m.ashape f.toNat * mSize f.toNat else p.toNat * 16
      let l := (List.range (rows.toNat + 1)).map (fun i => Row.at (base + i * pitch))
      (base % 16 = 0 → pitch % 16 = 0 → exec (.strm a rows row0 f z p) s = .next (stream r f.toNat z.toNat row0.toNat l s)) ∧
      (base % 16 ≠ 0 ∨ pitch % 16 ≠ 0 → exec (.strm a rows row0 f z p) s = .next (s.runFault r ALIGN))) ∧
    (∀ (d : BitVec 3) (rows row0 : BitVec 5) (dy dx z : BitVec 4), (Instr.strc d rows row0 dy dx z).wf = true →
      let k := Conv.ofWords (Tab.get 0 r.wp d.toNat) (Tab.get 0 r.wp (d.toNat + 1)) (Tab.get 0 r.wp (d.toNat + 2))
      let l := (List.range (rows.toNat + 1)).map (k.row dy.toNat dx.toNat)
      k.ok = true → (∀ a, Row.at a ∈ l → a % 16 = 0) →
      exec (.strc d rows row0 dy dx z) s = .next (stream r k.fmt z.toNat row0.toNat l s)) ∧
    (∀ (x : Ring) (f z row0 : Nat) (rows : List Row) (u : State), m.ringOf r.cmd.gid = some x →
      row0 + rows.length ≤ 32 → m.active.valid = true → mAgree f m.active.fmt.toNat = true →
      (m.tile (x.phys x.head)).acc.all (fun a => a == BitVec.ofNat 4 (mAcc f)) = true → s.bandsOn cl m.ashape = true →
      (∀ a, Row.at a ∈ rows → s.osReady cl a (m.active.keff * mSize f) = true) →
      streamRows r f z (x.phys x.head) row0 rows (s.useBands cl m.ashape) = (none, u) →
      stream r f z row0 rows s = u.setRun (fun q => { q with pc := q.pc + 1 }))

/-- The engines' own events, when due: the command at the head of its engine's queue is taken, a routine begun, a plane
loaded, the mask changed, the configuration set, a row written; an upload makes its routine VALID when its words are
acceptable. Where it says more than the spec does, it states the model's own choice: log entries 2, 44, 45, 46, 47 and 49.
-/
def Obligations.MatrixEvents : Prop :=
  (∀ (s : State) (c : Nat) (cmd : MCmd), let m := (s.core c).mat
    m.run = none → m.nextArray = some cmd → m.resumeOf cmd.gid = none → s.osStored (c / 4) cmd = true →
    let done := m.queue.filter (fun x => x.seq != cmd.seq)
    (cmd.kind = .mswp → Answers (exec (.arrayCommandStart c) s) (fun t =>
      (t.core c).mat = { m with active := m.shadow, shadow := m.active, queue := done } ∧ sameMemory s t ∧ sameStores s t)) ∧
    (∀ k, cmd.kind = .mshape k → Answers (exec (.arrayCommandStart c) s) (fun t =>
      (t.core c).mat = { m with ashape := k, active := { m.active with valid := false },
                                shadow := { m.shadow with valid := false }, queue := done } ∧
      sameMemory s t ∧ sameStores s t)) ∧
    (∀ q b ph mp, cmd.kind = .mcall q b ph false mp → s.uploadOrder (c / 4) cmd = true →
      (Tab.get ({} : Routine) (s.cluster (c / 4)).routines q).state = 1 →
      let r0 : Run := { cmd := cmd, rout := q, pc := (Tab.get ({} : Routine) (s.cluster (c / 4)).routines q).start, wp := mp }
      Answers (exec (.arrayCommandStart c) s) (fun t => (t.core c).mat = { m with run := some r0 } ∧
        sameMemory s t ∧ sameStores s t)) ∧
    (∀ q src n off, cmd.kind = .mupld q src n off → s.uploadOrder (c / 4) cmd = true → s.osReady (c / 4) src.toNat (4 * n) = true →
      osFits src.toNat (4 * n) = true → routineOk (s.uploadWords (c / 4) src.toNat n) 0 = true →
      Answers (exec (.mupldExec c) s) (fun t =>
        Tab.get ({} : Routine) (t.cluster (c / 4)).routines q =
          { start := uploadAt q off, len := (s.uploadWords (c / 4) src.toNat n).length, state := 1 } ∧
        (t.core c).mat = { m with queue := done } ∧ sameMemory s t ∧ sameStores s t))) ∧
  (∀ (s : State) (c : Nat) (cmd : MCmd) (g : EpCfg), let m := (s.core c).mat
    m.epRun = none → m.nextEpi = some cmd → m.resumeOf cmd.gid = none → s.osStored (c / 4) cmd = true → cmd.kind = .epcfg g →
    Answers (exec (.epilogueCommandStart c) s) (fun t => (t.core c).mat =
      { m with ep := some g, epRows := 0, queue := m.queue.filter (fun x => x.seq != cmd.seq) } ∧ sameMemory s t ∧ sameStores s t)) ∧
  (∀ (s : State) (c row bytes b : Nat) (cmd : MCmd) (g : EpCfg) (x : Ring) (acc : BitVec 4) (dst : Word) (arr : Bool),
    let m := (s.core c).mat
    let tile := m.tile (x.phys x.tail)
    let a := dst.toNat + row * g.pitch
    let n := g.size * tile.cols
    m.epRun = some (cmd, row, bytes) → cmd.token = none → m.ep = some g → m.ringOf cmd.gid = some x → tile.acc = some acc →
    cmd.kind = .eprun dst arr b → tile.masked.getLsbD row = false → g.sb = false → g.shd = false → osFits a n = true →
    s.osReady (c / 4) a n = true → row + 1 < 32 →
    Answers (exec (.epilogueRow c) s) (fun t =>
      (t.cluster (c / 4)).os = ((s.epStore (c / 4) g a (s.epRow (c / 4) g (s.ctx cmd.ctx).rkey0 tile acc.toNat row m.epRows)).cluster
        (c / 4)).os ∧
      (t.core c).mat = { m with epRows := m.epRows + 1, epRun := some (cmd, row + 1, bytes + n) } ∧ sameMemory s t)) ∧
  (∀ (s : State) (cl b : Nat), cl < 72 → b < 4 →
    let x := (s.cluster cl).band b
    (x.gated = false → x.lastUse + 2000 ≤ s.time → Answers (exec (.bandGate cl b) s) (fun t =>
      (t.cluster cl).band b = { x with gated := true } ∧ (∀ d, d ≠ b → (t.cluster cl).band d = (s.cluster cl).band d) ∧
      sameMemory s t ∧ sameStores s t ∧ t.cores = s.cores)) ∧
    (x.gated = true → x.powering = true → Answers (exec (.bandPowerUp cl b) s) (fun t =>
      (t.cluster cl).band b = { x with gated := false, powering := false, lastUse := s.time } ∧
      (∀ d, d ≠ b → (t.cluster cl).band d = (s.cluster cl).band d) ∧ sameMemory s t ∧ sameStores s t ∧ t.cores = s.cores)))

/-! ## Memory (R195–R233) -/

/-- The canonical form: writing bytes keeps it, each byte reads back as written and every other as before, memories that
read alike are equal, and the memories at reset have it. Bytes written to device memory through its caches, where no
format window stands, lines that no cache may hold are in none, and clean lines hold what memory holds: what every reader
then sees is the bytes written, and every other byte as before, whatever lines have left to make room; and lines and
memory agree as they did. Where it says more than the spec does, it states the model's own choice: log entries 6, 28 and
29. -/
def Obligations.MemoryForm : Prop :=
  (
    (∀ (m : List Host.Cell) (a : Nat) (bs : List (Option Byte)), Memory.wf m = true → Memory.wf (memPut m a bs) = true) ∧
    (∀ (m : List Host.Cell) (a x : Nat) (bs : List (Option Byte)), Tab.get 0 (memPut m a bs) x =
      if a ≤ x then ((bs[x - a]?).bind id).getD (Tab.get 0 m x) else Tab.get 0 m x) ∧
    (∀ m n : List Host.Cell, Memory.wf m = true → Memory.wf n = true → (∀ x, Tab.get 0 m x = Tab.get 0 n x) → m = n) ∧
    State.reset.memWf) ∧
  (
    ∀ (s : State) (a : Nat) (bs : List (Option Byte)) (fill : Fill), (∀ n, s.fwinAt n = none) → s.coherent →
      (∀ x, (s.devWrite a bs fill).byteNow x = if a ≤ x then ((bs[x - a]?).bind id).getD (s.byteNow x) else s.byteNow x) ∧
      (s.devWrite a bs fill).coherent)

/-- Issuing a load whose checks pass: away from operand store it enters the cluster's queue of accesses behind the earlier
ones, with its register or its lq entry reserved; of the cluster's own operand store, with nothing of the group's before
it, it performs at once and returns the bytes of its enabled elements. No byte of memory and no register changes. A unit
that is not aligned traps with ALIGN; an aligned form with a unit outside every window traps with WINFAULT. VLDT reads
operand store through the swizzle that its SRCB names, once the slot's tag agrees; PFT brings lines into the caches and
changes nothing else, and no byte that a reader sees; CLRT sets or clears one slot's tag. Where it says more than the spec
does, it states the model's own choice: log entries 30 and 31. -/
def Obligations.LoadsIssue : Prop :=
  (
    let ask := fun (ring : Bool) (y : Syl) => ({ need := Need.read, load := true, os := y.os, ring := ring, reads := true } : Ask)
    let size := fun (y : Syl) => 2 ^ (y.imm.extractLsb' 19 2).toNat
    let addr := fun (y : Syl) (g : Machine.Group) => g.rdA y.srca.toNat + (y.imm.extractLsb' 0 18).signExtend 64
    let whole := fun (y : Syl) (g _ : Machine.Group) => wholeWants g y.guard (addr y g)
    let strided := fun (y : Syl) (g _ : Machine.Group) =>
      elementWants g y.guard (size y) (fun e => addr y g + BitVec.ofNat 64 e * g.rdA y.srcb.toNat)
    let index := fun (y : Syl) (g _ : Machine.Group) => elementWants g y.guard (size y) (fun e =>
      let i := ((g.peek 7).extractLsb' (32 * e) 32).signExtend 64
      addr y g + (if y.imm.getLsbD 18 then i * BitVec.ofNat 64 (size y) else i))
    let one := fun (y : Syl) (g _ : Machine.Group) => oneWant (addr y g) (size y)
    let broadcast := fun (y : Syl) (g _ : Machine.Group) =>
      if (List.range (256 / size y)).any (fun e => g.guardA y.guard (e * size y / 4)) then oneWant (addr y g) (size y) else []
    let popIq := fun (s : State) => s.upd (fun _ => (s.me.pop 7).2)
    ∀ e ∈ [(Instr.ld, true, false, true, one, fun (_ : Syl) => AccKind.load, (id : State → State)),
        (Instr.lda, true, true, false, one, fun _ => .load, id),
        (Instr.vld, false, false, true, whole, fun _ => .load, id),
        (Instr.ldn, false, false, true, whole, fun y => .loadRc y.aux, id),
        (Instr.vlds, false, false, true, strided, fun _ => .load, id),
        (Instr.vldx, false, false, false, index, fun _ => .load, popIq),
        (Instr.vldb, false, false, false, broadcast, fun _ => .load, id)],
      ∀ (y : Syl) (s : State) (ps : List Place),
        (e.1 y).wf = true → s.here.slot = 4 → s.seated → (e.2.1 = true → s.me.guardA y.guard 0 = true) →
        (e.2.2.1 = true → (s.ctx s.me.ctx).permits y.scope = true) →
        let u := e.2.2.2.2.2.2 s
        let q := ask e.2.2.2.1 y
        let ws := e.2.2.2.2.1 y s.me u.me
        let cl := s.myCluster
        let c := s.here.core
        (ws.any (fun w => !w.aligned) = true → exec (e.1 y) s = .next (raise ALIGN s)) ∧
        (ws ≠ [] → ws.all (·.aligned) = true → u.places q ws = none → exec (e.1 y) s = .next (raise WINFAULT s)) ∧
        (ws ≠ [] → u.checks q ws none = .go ps →
          let keeps := fun (t : State) => sameExecute t.me u.me ∧ sameAccess t.me u.me ∧ sameSpecial t.me u.me ∧
            t.me.flight = u.me.flight ∧ sameMemory s t ∧ sameStores s t ∧ sameOthers c s t ∧ t.fresh = s.fresh + 1
          let dst := fun (t : State) (a : Acc) =>
            (y.dst.toNat < 0x20 → a.dst = .areg y.dst.toNat ∧ (y.dst.toNat, s.fresh) ∈ t.me.busy) ∧
            (0x40 ≤ y.dst.toNat → y.dst.toNat ≤ 0x43 → a.dst = .lq (y.dst.toNat - 0x40) u.me.nextId ∧
              t.me.queue (y.dst.toNat - 0x40) = u.me.queue (y.dst.toNat - 0x40) ++ [{ id := u.me.nextId, data := none }])
          (ps.any (fun p => !p.isLocal) = true → Answers (exec (e.1 y) s) (fun t => ∃ a,
            (t.cluster cl).outbound = (s.cluster cl).outbound ++ [a] ∧ a.id = s.fresh ∧ a.core = c ∧ a.gid = s.me.gid ∧
            a.ctx = s.me.ctx ∧ a.kind = e.2.2.2.2.2.1 y ∧ a.pieces = piecesOf ws ps false ∧ a.done = false ∧ dst t a ∧ keeps t)) ∧
          (y.os = true → ws.all (fun w => w.addr.toNat + w.len ≤ 0x600000) = true → u.localPending = false →
            u.waitsFor (e.2.2.2.2.2.1 y) = [] → Answers (exec (e.1 y) s) (fun t => ∃ a,
            (t.cluster cl).outbound = (s.cluster cl).outbound ++ [a] ∧ a.id = s.fresh ∧ a.gid = s.me.gid ∧ a.done = true ∧
            (∀ w ∈ ws, ∀ i < w.len, w.en.testBit i = true →
              a.data.extractLsb' (8 * (w.off + i)) 8 = Tab.get 0 (s.cluster cl).os (w.addr.toNat + i)) ∧ dst t a ∧ keeps t)))) ∧
  (
    (∀ (y : Syl) (s : State) (ps : List Place), (Instr.vldt y).wf = true → s.here.slot = 4 → s.seated →
      let a := s.me.rdA y.srca.toNat + (y.imm.extractLsb' 0 18).signExtend 64
      let lane := fun j => a.toNat / 4096 * 4096 + swz (y.srcb.toNat % 16) ((a.toNat + 4 * j) % 4096)
      let ws : List Want := ((List.range 64).filter (fun j => s.me.guardA y.guard j)).map (fun j =>
        { addr := BitVec.ofNat 64 (lane j), len := 4, off := 4 * j, en := 15, aligned := true })
      let q : Ask := { need := Need.read, load := true, os := true, reads := true }
      let cl := s.myCluster
      let tag := s.tag cl (a.toNat / 4096)
      let agrees := tag.valid = true ∧ tag.fmt.toNat = y.srcb.toNat / 16 ∧ tag.swz.toNat = y.srcb.toNat % 16
      a.toNat % 256 = 0 → a.toNat + 256 ≤ 0x600000 → ws ≠ [] →
      (s.checks q ws none = .go ps → ¬ agrees → exec (.vldt y) s = .next (raise TAGFAULT s)) ∧
      (s.checks q ws none = .go ps → agrees → s.localPending = false → s.waitsFor .load = [] →
        Answers (exec (.vldt y) s) (fun t => ∃ x, (t.cluster cl).outbound = (s.cluster cl).outbound ++ [x] ∧ x.id = s.fresh ∧
          x.done = true ∧ (∀ j < 64, s.me.guardA y.guard j = true → ∀ i < 4,
            x.data.extractLsb' (8 * (4 * j + i)) 8 = Tab.get 0 (s.cluster cl).os (lane j + i)) ∧
          sameExecute t.me s.me ∧ sameAccess t.me s.me ∧ sameMemory s t ∧ sameStores s t ∧ sameOthers s.here.core s t))) ∧
    (∀ (y : Syl) (s : State), OpenA (.pft y) y 4 s → Answers (exec (.pft y) s) (fun t =>
      { t with hdies := s.hdies, mem := s.mem, fresh := s.fresh } = s ∧
      ((∀ n, s.fwinAt n = none) → s.coherent → ∀ x, t.byteNow x = s.byteNow x))) ∧
    (∀ (y : Syl) (s : State) (ps : List Place), OpenA (.clrt y) y 5 s →
      let a := s.me.rdA y.srca.toNat + (y.imm.extractLsb' 0 18).signExtend 64
      let cl := s.myCluster
      s.checks { need := Need.write, store := true, os := true }
        [{ addr := a, len := 1, en := 1, aligned := a.toNat % 4096 == 0 }] none = .go ps → s.localPending = false →
      s.me.befW.all (s.performed s.here.core) = true →
      Answers (exec (.clrt y) s) (fun t =>
        t.tag cl (a.toNat / 4096) = (if y.aux = 1 then
          { fmt := BitVec.ofNat 4 (y.srcb.toNat / 16), swz := BitVec.ofNat 4 (y.srcb.toNat % 16), valid := true }
          else { s.tag cl (a.toNat / 4096) with valid := false, poison := false }) ∧
        (∀ n, n ≠ a.toNat / 4096 → t.tag cl n = s.tag cl n) ∧ t.cores = s.cores ∧ sameMemory s t ∧ sameStores s t)))

/-- Issuing a store whose checks pass: away from operand store, or beside a later syllable of the bundle that reads
memory, it enters the cluster's queue with its data and no byte changes yet; else, of the cluster's own operand store,
with nothing of the group's before it, it writes the enabled bytes, the highest element standing where elements overlap,
and no other byte. Where it says more than the spec does, it states the model's own choice: log entries 30 and 31. -/
def Obligations.StoresIssue : Prop :=
  let size := fun (y : Syl) => 2 ^ (y.imm.extractLsb' 19 2).toNat
  let addr := fun (y : Syl) (g : Machine.Group) => g.rdA y.srca.toNat + (y.imm.extractLsb' 0 18).signExtend 64
  let word := fun (y : Syl) (s : State) => (zx (readA y.srcb s).1, (readA y.srcb s).2)
  let entry := fun (y : Syl) (s : State) => readEntry y.srcb s
  let two := fun (y : Syl) (s : State) =>
    ((readEntry y.srcb s).1, (readEntry y.srcb s).2.upd (fun _ => ((readEntry y.srcb s).2.me.pop 7).2))
  let one := fun (y : Syl) (s : State) => oneWant (addr y s.me) (size y)
  let whole := fun (y : Syl) (s : State) => wholeWants s.me y.guard (addr y s.me)
  let strided := fun (y : Syl) (s : State) =>
    elementWants s.me y.guard (size y) (fun e => addr y s.me + BitVec.ofNat 64 e * s.me.rdA y.dst.toNat)
  let index := fun (y : Syl) (s : State) => elementWants s.me y.guard (size y) (fun e =>
    let i := (((readEntry y.srcb s).2.me.peek 7).extractLsb' (32 * e) 32).signExtend 64
    addr y s.me + (if y.imm.getLsbD 18 then i * BitVec.ofNat 64 (size y) else i))
  ∀ e ∈ [(Instr.st, true, false, one, AccKind.store, word), (Instr.stl, true, true, one, .store, word),
      (Instr.vst, false, false, whole, .store, entry), (Instr.stnt, false, false, whole, .storeNt, entry),
      (Instr.vsts, false, false, strided, .store, entry), (Instr.vstx, false, false, index, .store, two)],
    ∀ (y : Syl) (s : State) (ps : List Place),
      (e.1 y).wf = true → s.here.slot = 5 → s.seated → (e.2.1 = true → s.me.guardA y.guard 0 = true) →
      (e.2.2.1 = true → (s.ctx s.me.ctx).permits y.scope = true) →
      let (v, u) := e.2.2.2.2.2 y s
      let q : Ask := { need := Need.write, store := true, os := y.os }
      let ws := e.2.2.2.1 y s
      let cl := s.myCluster
      let c := s.here.core
      (e.2.2.1 = false → ws.any (fun w => !w.aligned) = true → exec (e.1 y) s = .next (raise ALIGN s)) ∧
      (ws ≠ [] → ws.all (·.aligned) = true → u.places q ws = none → exec (e.1 y) s = .next (raise WINFAULT s)) ∧
      (ws ≠ [] → u.checks q ws none = .go ps → u.hostDrain e.2.2.1 ps = false →
        let keeps := fun (t : State) => t.me = u.me ∧ sameMemory s t ∧ sameOthers c s t ∧ t.fresh = s.fresh + 1 ∧
          ∀ d, d ≠ cl → t.cluster d = s.cluster d
        (ps.any (fun p => !p.isLocal) = true ∨ s.here.late.any u.me.takesPart = true → Answers (exec (e.1 y) s) (fun t => ∃ a,
          (t.cluster cl).outbound = (s.cluster cl).outbound ++ [a] ∧ a.id = s.fresh ∧ a.core = c ∧ a.gid = s.me.gid ∧
          a.ctx = s.me.ctx ∧ a.kind = e.2.2.2.2.1 ∧ a.pieces = piecesOf ws ps true ∧ a.data = v ∧ a.dst = .none ∧
          a.done = false ∧ (a.rel ↔ e.2.2.1) ∧ sameStores s t ∧ keeps t)) ∧
        (y.os = true → u.localPending = false → u.waitsFor e.2.2.2.2.1 = [] →
          s.here.late.any u.me.takesPart = false → Answers (exec (e.1 y) s) (fun t =>
          (t.cluster cl).outbound = (s.cluster cl).outbound ∧
          (∀ x, Tab.get 0 (t.cluster cl).os x =
            ((ws.reverse.find? (fun w => decide (w.addr.toNat ≤ x ∧ x < w.addr.toNat + w.len) &&
                w.en.testBit (x - w.addr.toNat))).map
              (fun w => v.extractLsb' (8 * (w.off + (x - w.addr.toNat))) 8)).getD (Tab.get 0 (s.cluster cl).os x)) ∧
          keeps t)))

/-- What a plain access away from operand store does at its serving point, once nothing stands before it: a load takes the
bytes that every reader sees now, changes none that a reader sees, and is then done; a store writes its enabled bytes and
no other, and leaves the queue. Where a line's deferred cell holds no value, a store's group traps with CELLWR. The data
of a finished access arrives at the register that is still reserved for it, or fills its lq entry; a scalar is extended
from its size as SX says. An arrival that reaches a barrier counts there, behind those that set out earlier; no core
changes unless it completes the phase, whose waiters then wake. Where it says more than the spec does, it states the
model's own choice: log entries 2, 28 and 31. -/
def Obligations.AccessesPerform : Prop :=
  (
    ∀ (s : State) (cl : Nat) (a : Acc) (p : Piece) (off phys : Nat), let id := a.id
      (s.cluster cl).outbound.find? (fun b => b.id == id) = some a → a.pieces = [p] → p.place = .dev off →
      s.mayPerform cl a p = true → s.phys a.ctx off a.kind.writes = .ok phys → phys < 2 ^ 52 → regionKind phys ≤ 1 →
      (s.lineMeta (phys / 64)).poison = false → (∀ n, s.fwinAt n = none) → s.coherent →
      (a.kind = .load → s.cellOf (phys / 64) = cVALUE → a.returns = true → a.data = 0 → a.acq = false → p.off + p.len ≤ 256 →
        Answers (exec (.remoteAccessPerform cl id 0) s) (fun t => ∃ b, b.id = id ∧ b.done = true ∧ b.dst = a.dst ∧
          (t.cluster cl).outbound = (s.cluster cl).outbound.map (fun x => if x.id = id then b else x) ∧
          (∀ i < p.len, p.en.testBit i = true → b.data.extractLsb' (8 * (p.off + i)) 8 = s.byteNow (phys + i)) ∧
          (∀ x, t.byteNow x = s.byteNow x) ∧ t.cores = s.cores ∧ t.tags = s.tags ∧ t.host = s.host ∧ t.far = s.far ∧
          sameStores s t)) ∧
      (a.kind = .store → s.cellOf (phys / 64) = cVALUE → a.returns = false →
        Answers (exec (.remoteAccessPerform cl id 0) s) (fun t =>
          (t.cluster cl).outbound = (s.cluster cl).outbound.filter (fun x => x.id != id) ∧
          (∀ x, t.byteNow x = if phys ≤ x ∧ x < phys + p.len ∧ p.en.testBit (x - phys) = true
            then a.data.extractLsb' (8 * (p.off + (x - phys))) 8 else s.byteNow x) ∧
          t.cores = s.cores ∧ t.host = s.host ∧ t.far = s.far ∧ sameStores s t)) ∧
      (a.kind = .store → s.cellOf (phys / 64) ≠ cVALUE → ∀ c b g, s.find a.gid = some (c, b) → s.bank c b = some g →
        Answers (exec (.remoteAccessPerform cl id 0) s) (fun t => (∃ h, t.bank c b = some h ∧ h = a.blame CELLWR g ∧
            (g.saved = none → g.lateFault = none → h.lateFault.map (·.1) = some CELLWR)) ∧
          (t.cluster cl).outbound = (s.cluster cl).outbound.filter (fun x => x.id != id) ∧ sameMemory s t ∧ sameStores s t))) ∧
  (
    (∀ (s : State) (cl c : Nat) (b : Bool) (a : Acc) (g : Machine.Group),
      (s.cluster cl).outbound.find? (fun x => x.id == a.id && x.done) = some a → s.find a.gid = some (c, b) →
      s.bank c b = some g →
      Answers (exec (.loadDataReturn cl a.id) s) (fun t => ∃ h, t.bank c b = some h ∧
        (t.cluster cl).outbound = (s.cluster cl).outbound.filter (fun x => x.id != a.id) ∧
        (∀ n, a.dst = .areg n → (n, a.id) ∈ g.busy → a.kind = .load → a.bcast = none → a.sz < 4 →
          (∀ m, h.rdA m = if m = n then
            (let w := 8 * 2 ^ a.sz
             if a.sx then BitVec.ofInt 64 (signed w (a.data.toNat % 2 ^ w)) else BitVec.ofNat 64 (a.data.toNat % 2 ^ w))
            else g.rdA m) ∧ h.busy = g.busy.filter (fun x => x.2 != a.id)) ∧
        (∀ q e, a.dst = .lq q e → h = g.fill q e a.value) ∧
        (a.bcast = none → a.sz = 4 → a.value = a.data) ∧
        sameExecute h g ∧ h.g = g.g ∧ h.k = g.k ∧ sameMemory s t ∧ sameStores s t)) ∧
    (∀ (s : State) (cl i ctx b n : Nat) (p : Bool), (s.cluster cl).arrivals[i]? = some (ctx, b, n, p) →
      (((s.cluster cl).arrivals.take i).all (fun x => x.1 != ctx || x.2.1 != b)) = true → s.enabled cl = true →
      Answers (exec (.barrierArrival cl i) s) (fun t => t.bar cl ctx b = (s.bar cl ctx b).arrive n p ∧
        (t.cluster cl).arrivals = (s.cluster cl).arrivals.eraseIdx i ∧ sameMemory s t ∧ sameStores s t ∧
        ((s.bar cl ctx b).target = 0 ∨ (s.bar cl ctx b).current + n < (s.bar cl ctx b).target → t.cores = s.cores))))

/-- The new value of an AMO, on 32 or 64 bits, and of a CAS; an element of a bank operation that is not enabled stays.
Issuing an atomic, a bank operation, a ring operation, DEFER, RESOLVE or a remote BARV whose checks pass, away from
operand store: one access of its kind enters the cluster's queue as the last, and the access stream holds its next bundle
until that one has performed; a remote BARV holds nothing. Where it says more than the spec does, it states the model's
own choice: log entries 30 and 31. -/
def Obligations.UpdatesIssue : Prop :=
  (
    (∀ w ∈ [32, 64], ∀ a b : Nat, a < 2 ^ w → b < 2 ^ w →
      let sa := (BitVec.ofNat w a).toInt
      let sb := (BitVec.ofNat w b).toInt
      let n := fun (x : Int) => (BitVec.ofInt w x).toNat
      amoNew 0 w a b = b ∧ amoNew 1 w a b = (a + b) % 2 ^ w ∧ amoNew 2 w a b = a &&& b ∧ amoNew 3 w a b = a ||| b ∧
      amoNew 4 w a b = a ^^^ b ∧ amoNew 5 w a b = n (min sa sb) ∧ amoNew 6 w a b = n (max sa sb) ∧
      amoNew 7 w a b = min a b ∧ amoNew 8 w a b = max a b) ∧
    (∀ (wide : Bool) (e : Word) (old data : Nat), (AccKind.cas wide e).update old data =
      if old = e.toNat % 2 ^ (if wide then 64 else 32) then some data else none) ∧
    (∀ (s : State) (a : Acc) (p : Piece) (cl addr op : Nat) (wide : Bool), let w := if wide then 64 else 32
      a.kind = .amo op wide → p.len = w / 8 → ∃ u : State, s.osPiece a p cl addr =
        ({ a with data := BitVec.ofNat 2048 (leNat (s.osBytes cl addr (w / 8))) }, u) ∧
        (u.cluster cl).os = memPut (s.cluster cl).os addr
          ((leBytes (w / 8) (amoNew op w (leNat (s.osBytes cl addr (w / 8))) (a.data.toNat % 2 ^ w))).map some)) ∧
    (∀ (op en old data e : Nat) (t : Ty), t.width ∈ [16, 32, 64] → e < 2048 / t.width → old < 2 ^ 2048 →
      en.testBit (t.width / 8 * e) = false → bankBytes op t en old data / 2 ^ (t.width * e) % 2 ^ t.width =
        old / 2 ^ (t.width * e) % 2 ^ t.width)) ∧
  (
    let both := fun (os : Bool) => ({ need := Need.both, store := true, os := os, reads := true } : Ask)
    let at' := fun (y : Syl) (s : State) => s.me.rdA y.srca.toNat
    let lineWant := fun (a : Word) (n : Nat) => ({ addr := a, len := n, en := 2 ^ n - 1, aligned := a.toNat % n == 0 } : Want)
    let enters := fun (o : Out) (s u : State) (k : AccKind) (pieces : List Piece) (data : VReg) (held : Bool) =>
      Answers o (fun t => ∃ a l, (t.cluster s.myCluster).outbound = l ++ [a] ∧
        l.map (·.id) = (s.cluster s.myCluster).outbound.map (·.id) ∧ a.id = s.fresh ∧ a.gid = s.me.gid ∧ a.ctx = s.me.ctx ∧
        a.core = s.here.core ∧ a.kind = k ∧ a.pieces = pieces ∧ a.data = data ∧ a.done = false ∧
        (t.me.holds = if held then u.me.holds ++ [.accs [s.fresh]] else u.me.holds) ∧
        sameExecute t.me u.me ∧ sameAccess t.me u.me ∧ sameSpecial t.me u.me ∧ sameMemory s t ∧ sameOthers s.here.core s t)
    (∀ (y : Syl) (s : State) (ps : List Place), OpenA (.amo y) y 7 s → s.seated → (s.ctx s.me.ctx).permits y.scope = true →
      let (b, u) := readA y.srcb s
      let wide := y.imm.getLsbD 18
      let ws := oneWant (at' y s) (if wide then 8 else 4)
      u.checks (both y.os) ws none = .go ps → ps.any (fun p => !p.isLocal) = true →
      u.hostDrain (y.imm.getLsbD 20) ps = false →
      enters (exec (.amo y) s) s u (.amo (y.imm.extractLsb' 14 4).toNat wide) (piecesOf ws ps true) (zx b) true) ∧
    (∀ (y : Syl) (s : State) (ps : List Place), OpenA (.cas y) y 7 s → s.seated → (s.ctx s.me.ctx).permits y.scope = true →
      let (e, v) := readA y.srcb s
      let (n, u) := readA (y.imm.extractLsb' 0 8) v
      let wide := y.imm.getLsbD 18
      let ws := oneWant (at' y s) (if wide then 8 else 4)
      u.checks (both y.os) ws none = .go ps → ps.any (fun p => !p.isLocal) = true →
      u.hostDrain (y.imm.getLsbD 20) ps = false →
      enters (exec (.cas y) s) s u (.cas wide e) (piecesOf ws ps true) (zx n) true) ∧
    (∀ (y : Syl) (s : State) (ps : List Place), (Instr.bank y).wf = true → s.here.slot = 7 → s.seated →
      (s.ctx s.me.ctx).permits y.scope = true →
      let (v, u) := readEntry y.srcb s
      let en := packNat 4 (fun j => if s.me.guardA y.guard j then 15 else 0) 64
      let ws := fourLines (at' y s) en ((at' y s).toNat % 256 == 0)
      en ≠ 0 → u.checks (both false) ws none = .go ps → ps.all inCommons = true → u.hostDrain (y.imm.getLsbD 20) ps = false →
      enters (exec (.bank y) s) s u (.bank (y.imm.extractLsb' 12 3).toNat (y.imm.extractLsb' 15 4))
        [{ place := (ps.headD (.os 0 0)).back ((ws.map (·.off)).headD 0), va := (at' y s).toNat, len := 256, off := 0, en := en }]
        v true) ∧
    (∀ (y : Syl) (s : State) (ps : List Place), OpenA (.rres y) y 7 s → s.seated →
      let w := lineWant (at' y s) 64
      s.checks (both false) [w] none = .go ps → ps.all inCommons = true →
      enters (exec (.rres y) s) s s .rres (piecesOf [w] ps false) 0 true) ∧
    (∀ e ∈ [(Instr.rpub, AccKind.rpub), (Instr.ringvoid, .ringvoid)], ∀ (y : Syl) (s : State) (ps : List Place),
      OpenA (e.1 y) y 7 s → s.seated →
      ((∃ z, e.1 y = .rpub z) → (s.ctx s.me.ctx).permits y.scope = true) →
      ((∃ z, e.1 y = .ringvoid z) → s.me.gstat.mode = true) →
      let (i, u) := readA y.srcb s
      let w := lineWant (at' y s) 64
      u.checks (both false) [w] none = .go ps → ps.all inCommons = true →
      enters (exec (e.1 y) s) s u (e.2 i) (piecesOf [w] ps false) 0 true) ∧
    (∀ e ∈ [(Instr.defer, AccKind.defer, false), (Instr.resolve, .resolve, true)],
      ∀ (y : Syl) (s : State) (off : Nat), OpenA (e.1 y) y 5 s → s.seated → (s.ctx s.me.ctx).permits y.scope = true →
      let a := s.me.rdA y.srca.toNat + (y.imm.extractLsb' 0 18).signExtend 64
      let (v, u) := readEntry y.srcb s
      let w := lineWant a 64
      u.deferChecks e.2.2 w = .go [.dev off] →
      enters (exec (e.1 y) s) s u e.2.1 (piecesOf [w] [.dev off] true) v true) ∧
    (∀ (y : Syl) (s : State) (ps : List Place), OpenA (.barvRemote y) y 7 s → s.seated →
      (s.ctx s.me.ctx).permits (y.imm.extractLsb' 11 2).toNat = true →
      let (a, v) := readA y.srca s
      let (n, u) := if y.imm.getLsbD 13 then (BitVec.ofNat 64 (y.imm.extractLsb' 14 10).toNat, v) else readA y.srcb v
      let w := lineWant a 8
      let q : Ask := { need := Need.write, store := true, arrival := true }
      n.toNat < 2 ^ 28 → u.checks q [w] none = .go ps → ps.all atAperture = true →
      enters (exec (.barvRemote y) s) s u (.barv 0 0 n.toNat (y.imm.getLsbD 9)) (piecesOf [w] ps false) 0 false))

/-! ## Ordering and barriers (R229–R234, R243–R246) -/

/-- FENCE and DRAIN remember the group's accesses that have yet to perform; the kinds and the sides are the bits of IMM24.
Arrivals: a barrier with no target discards them; a count below the target is added; each target reached completes a
phase, whose poison is kept for its waiters. BINIT, BARV, BWAIT and BTEST act on the barrier of the own cluster and
context that IMM24 names, the first two at once where nothing of the group's local accesses stands before them. Where it
says more than the spec does, it states the model's own choice: log entry 31. -/
def Obligations.FencesAndBarriers : Prop :=
  (
    (∀ (y : Syl) (s : State), OpenA (.fence y) y 7 s →
      let on := fun n => y.imm.getLsbD n
      let ids := ((s.mine s.here.core s.me.gid).filter (fun a => (on 0 && a.kind.reads) || (on 1 && a.kind.writes))).map (·.id)
      exec (.fence y) s = .next (s.upd (fun g => { g with
        befR := g.befR ++ (if on 2 then ids else []), befW := g.befW ++ (if on 3 then ids else [])
        befE := g.befE ++ (if on 4 then ids else []), holds := g.holds ++ (if on 5 then [.fenceI ids] else []) }))) ∧
    (∀ (y : Syl) (s : State), OpenA (.drain y) y 7 s →
      ((s.ctx s.me.ctx).permits y.scope = false → exec (.drain y) s = .next (raise PRIV s)) ∧
      ((s.ctx s.me.ctx).permits y.scope = true → exec (.drain y) s = .next (s.upd (fun g =>
        { g with holds := g.holds ++ [.drain y.scope ((s.mine s.here.core s.me.gid).map (·.id))] }))))) ∧
  (
    (∀ (b : Barrier) (n : Nat) (p : Bool),
      (b.target = 0 → b.arrive n p = b) ∧
      (b.target ≠ 0 → b.current < b.target → b.current + n < b.target →
        b.arrive n p = { b with current := b.current + n, poison := b.poison || p }) ∧
      (b.target ≠ 0 → b.current < b.target → b.target ≤ b.current + n → b.current + n < 2 * b.target →
        b.arrive n p = { b with current := b.current + n - b.target, ppois := b.poison || p, phase := !b.phase
                                phases := b.phases + 1
                                poison := p && decide (b.target < b.current + n) }) ∧
      (b.target ≠ 0 → (b.arrive n p).current = (b.current + n) % b.target ∧ (b.arrive n p).target = b.target ∧
        (b.arrive n p).mode = b.mode ∧
        (b.arrive n p).phase = if (b.current + n) / b.target % 2 = 1 then !b.phase else b.phase)) ∧
    (∀ (y : Syl) (s : State), s.seated →
      let clear := s.localPending = false ∧ s.waitsFor .store = [] ∧ s.here.late.any s.me.takesPart = false
      let bn := (y.imm.extractLsb' 4 5).toNat
      let cl := s.myCluster
      let ctx := s.me.ctx
      let now := s.bar cl ctx bn
      let others := fun (t : State) => (∀ c n, (c ≠ cl ∨ n ≠ 32 * ctx + bn) →
        Tab.get {} (t.cluster c).bars n = Tab.get {} (s.cluster c).bars n) ∧ sameMemory s t ∧ sameStores s t
      (OpenA (.binit y) y 7 s →
        let (v, u) := if y.imm.getLsbD 10 then (BitVec.ofNat 64 (y.imm.extractLsb' 11 13).toNat, s) else readA y.srca s
        (v = 0 ∨ 2 ^ 28 ≤ v.toNat → exec (.binit y) s = .next (raise ILLOP s)) ∧
        (v ≠ 0 → v.toNat < 2 ^ 28 → clear → Answers (exec (.binit y) s) (fun t =>
          t.bar cl ctx bn = { now with target := v.toNat, mode := y.imm.getLsbD 9, current := 0, poison := false } ∧
          t.cores = u.cores ∧ others t))) ∧
      (OpenA (.barv y) y 7 s → s.enabled cl = true →
        let (n, u) := if y.imm.getLsbD 13 then (BitVec.ofNat 64 (y.imm.extractLsb' 14 10).toNat, s) else readA y.srcb s
        (2 ^ 28 ≤ n.toNat → exec (.barv y) s = .next (raise ILLOP s)) ∧
        (n.toNat < 2 ^ 28 → clear → Answers (exec (.barv y) s) (fun t =>
          t.bar cl ctx bn = now.arrive n.toNat (y.imm.getLsbD 9) ∧ others t ∧
          (now.target = 0 ∨ now.current + n.toNat < now.target → t.cores = u.cores)))) ∧
      (OpenA (.bwait y) y 7 s →
        (y.imm.getLsbD 10 = true → exec (.bwait y) s = .next (s.upd (fun g => { g with awr := g.awr ++
          [(1, (y.imm.extractLsb' 0 3).toNat, if now.ppois then BitVec.allOnes 64 else 0)] }))) ∧
        (y.imm.getLsbD 10 = false → now.ppois = true → exec (.bwait y) s = .next (raise POISON s)) ∧
        (y.imm.getLsbD 10 = false → now.ppois = false → exec (.bwait y) s = .next s)) ∧
      (OpenA (.btest y) y 7 s → exec (.btest y) s = .next (s.upd (fun g => { g with awr := g.awr ++
        [(1, (y.imm.extractLsb' 0 3).toNat, if now.phase != y.imm.getLsbD 9 then BitVec.allOnes 64 else 0)] })))))

/-! ## The C slot (R217–R219, R249–R275) -/

/-- Shape writes take effect for the third bundle on; CHCFG configures a channel, CHWM returns its mark, BUFN sets the
buffer number, and EVPOP takes the oldest record of the group's copies and decodes. -/
def Obligations.ShapesAndChannels : Prop :=
  let put := fun (s : State) (n : Nat) (mask v : Word) (flip : Bool) => s.upd (fun g => { g with shPend := g.shPend ++
    [{ left := 3, write := some (n ^^^ (if g.ptr then 8 else 0), mask, v), flip := flip, fresh := true }] })
  (∀ (y : Syl) (s : State), OpenA (.shw y) y 6 s → exec (.shw y) s = .next
    (put (readA y.srca s).2 (y.imm.extractLsb' 0 4).toNat (BitVec.allOnes 64) (readA y.srca s).1 (y.imm.getLsbD 4))) ∧
  (∀ (y : Syl) (s : State), OpenA (.shwi y) y 6 s →
    let sh := 16 * (y.imm.extractLsb' 4 2).toNat
    exec (.shwi y) s = .next (put s (y.imm.extractLsb' 0 4).toNat (0xFFFF <<< sh) (((y.imm.extractLsb' 6 16).setWidth 64) <<< sh)
      false)) ∧
  (∀ (g : Machine.Group) (n k : Nat) (m w : Word) (flip fresh : Bool),
    g.shPend = [{ left := 3, write := some (n, m, w), flip := flip, fresh := fresh }] →
    let h := Machine.Group.countShapes^[k] g
    (k < 3 → h.sh = g.sh ∧ h.ptr = g.ptr) ∧
    (3 ≤ k → Tab.get 0 h.sh n = (Tab.get 0 g.sh n &&& ~~~ m) ||| (w &&& m) ∧ h.ptr = (g.ptr != flip) ∧
      (∀ j, j ≠ n → Tab.get 0 h.sh j = Tab.get 0 g.sh j)) ∧
    sameExecute h g ∧ h.a = g.a ∧ h.g = g.g ∧ h.k = g.k) ∧
  (∀ (y : Syl) (s : State), OpenA (.chwm y) y 6 s → exec (.chwm y) s =
    .next (finishA y.dst (BitVec.ofNat 64 (Tab.get {} s.me.ch (y.imm.extractLsb' 0 3).toNat).mark) s)) ∧
  (∀ (y : Syl) (s : State), OpenA (.chcfg y) y 6 s →
    let (a, b, t) := readA2 y.srca y.srcb s
    (a.toNat % 64 ≠ 0 ∨ b = 0 ∨ b.toNat % 64 ≠ 0 ∨ 2 ^ 32 < b.toNat → exec (.chcfg y) s = .next (raise ALIGN s)) ∧
    (a.toNat % 64 = 0 → b ≠ 0 → b.toNat % 64 = 0 → b.toNat ≤ 2 ^ 32 → 
      let ch : Chan := { base := a.toNat, len := b.toNat, os := y.imm.getLsbD 3 }
      exec (.chcfg y) s = .next (t.upd (fun g => { g with ch := Tab.set {} g.ch (y.imm.extractLsb' 0 3).toNat ch })))) ∧
  (∀ (y : Syl) (s : State), OpenA (.bufn y) y 6 s →
    exec (.bufn y) s = .next (s.upd (fun g => { g with bufNo := y.imm.extractLsb' 0 6 }))) ∧
  (∀ (y : Syl) (s : State), OpenA (.evpop y) y 6 s →
    let l := (s.cluster s.myCluster).events
    let mine := fun (e : EvRec) => e.gid == s.me.gid && decide (e.kind ≤ 1)
    (l.all (fun e => !mine e) = true → exec (.evpop y) s = .next (finishA y.dst (BitVec.allOnes 64) s)) ∧
    (∀ a e b, l = a ++ e :: b → a.all (fun e => !mine e) = true → mine e = true → exec (.evpop y) s = .next (finishA y.dst e.word
      (s.modCluster s.myCluster (fun k => { k with events := a ++ b })))))

/-- CPY and CPYG whose shape set passes the checks: one command enters the cluster's buffer, with the registers' addresses
and time and the fields of IMM24, behind every command of an earlier or equal time; nothing else changes. A shape that is
not legal traps with ILLOP, one that is not aligned with ALIGN. Shadow buffers: SOPEN opens one or says why not, PUB
publishes or marks it, SDROP discards it, each with its status in DST; a buffer or length that is not a multiple of 64 KiB
traps with ALIGN. Where it says more than the spec does, it states the model's own choice: log entries 51, 52, 53, 54 and
56. -/
def Obligations.CopiesAndShadows : Prop :=
  (
    ∀ e ∈ [(Instr.cpy, false), (Instr.cpyg, true)], ∀ (y : Syl) (s : State), OpenA (e.1 y) y 6 s → s.seated →
      let g := s.me
      let b := fun k => y.imm.getLsbD k
      let f := fun lo n => (y.imm.extractLsb' lo n).toNat
      let words := (List.range 8).map (fun k => Tab.get 0 g.sh ((if b 21 = g.ptr then 0 else 8) + k))
      let h := Shape.ofWords words
      let dst := g.rdA y.srca.toNat
      let src := g.rdA y.srcb.toNat
      let at' := (g.rdA y.dst.toNat).toNat
      let aligned := sideAligned src h.ext h.ss h.se = true ∧ sideAligned dst h.ext h.ds h.de = true ∧ (e.2 = true → h.ibase % 4 = 0)
      (h.legal e.2 = false → exec (e.1 y) s = .next (raise ILLOP s)) ∧
      (h.legal e.2 = true → h.total ≠ 0 → ¬ aligned → exec (e.1 y) s = .next (raise ALIGN s)) ∧
      (h.legal e.2 = true → (h.total ≠ 0 → aligned ∧
          (e.2 = false → s.sideInside (b 22) g.ctx g.gstat.mode Need.read (bounds src h.ext h.ss h.se) = true) ∧
          s.sideInside (b 23) g.ctx g.gstat.mode Need.write (bounds dst h.ext h.ds h.de) = true ∧
          (b 23 = true ∨ b 7 = true ∨ s.divisible g = false)) →
        Answers (exec (e.1 y) s) (fun t => ∃ (c : Copy) (l r : List Copy),
          (s.cluster s.myCluster).copies = l ++ r ∧ (t.cluster s.myCluster).copies = l ++ c :: r ∧
          (∀ x ∈ r.head?, c.before x = true) ∧ (∀ x ∈ l, c.before x = false) ∧
          c.id = s.fresh ∧ c.gid = g.gid ∧ c.ctx = g.ctx ∧ c.share = g.share ∧ c.started = false ∧ c.next = 0 ∧
          c.dst = dst ∧ c.src = src ∧ c.dos = b 23 ∧ c.sos = b 22 ∧ c.shape = words ∧ c.gather = e.2 ∧ c.shd = b 7 ∧
          c.time = (if at' = 0 then s.time else at') ∧ c.chan = (if f 17 4 = 0 then none else some (f 17 3)) ∧ c.bar = f 12 5 ∧
          c.arr = b 11 ∧ c.rc = f 8 3 ∧ c.ev = b 6 ∧ c.buf = y.imm.extractLsb' 0 6 ∧
          t.cores = s.cores ∧ t.fresh = s.fresh + 1 ∧ sameMemory s t ∧ sameStores s t))) ∧
  (
    (∀ (y : Syl) (s : State), OpenA (.sopen y) y 6 s → s.seated →
      let g := s.me
      let a := (g.rdA y.srca.toNat).toNat
      let (n, u) := readA y.srcb s
      let len := n.toNat
      let l := (s.ctx g.ctx).shadows
      (a % 65536 ≠ 0 ∨ len = 0 ∨ len % 65536 ≠ 0 ∨ 2 ^ 30 < len → exec (.sopen y) s = .next (raise ALIGN s)) ∧
      (a % 65536 = 0 → len ≠ 0 → len % 65536 = 0 → len ≤ 2 ^ 30 → s.bufferWindow g.ctx g.gstat.mode a len = true →
        s.bufferPages a len = none → s.bufferImage g.ctx a len = false →
        let same := l.any (fun h => h.base == a && h.len == len)
        let meets := l.any (fun h => decide (h.base < a + len) && decide (a < h.base + h.len))
        (same = true → exec (.sopen y) s = .next (finishA y.dst 1 u)) ∧
        (same = false → meets = true → exec (.sopen y) s = .next (finishA y.dst 3 u)) ∧
        (same = false → meets = false → (16 ≤ l.length ∨
            ((s.ctx g.ctx).shpool.extractLsb' 0 16).toNat * 65536 < (l.map (·.len)).foldl (· + ·) 0 + len) →
          exec (.sopen y) s = .next (finishA y.dst 2 u)) ∧
        (same = false → meets = false → l.length < 16 →
          (l.map (·.len)).foldl (· + ·) 0 + len ≤ ((s.ctx g.ctx).shpool.extractLsb' 0 16).toNat * 65536 →
          ∃ v, exec (.sopen y) s = .next (finishA y.dst 0 v) ∧ v.me = u.me ∧ sameMemory s v ∧ sameStores s v ∧
            (v.ctx g.ctx).shadows = l ++ [{ base := a, len := len, share := g.share, merging := y.imm.getLsbD 0 }]))) ∧
    (∀ (y : Syl) (s : State) (h : Shadow), OpenA (.pub y) y 6 s → s.seated →
      let g := s.me
      let base := (g.rdA y.srca.toNat).toNat
      let sc := (y.imm.extractLsb' 21 2).toNat
      ((s.ctx g.ctx).shadows.all (fun h => h.base != base) = true → exec (.pub y) s = .next (finishA y.dst 1 s)) ∧
      ((s.ctx g.ctx).shadows.find? (fun h => h.base == base) = some h →
        ((s.ctx g.ctx).permits sc = false → exec (.pub y) s = .next (raise PRIV s)) ∧
        ((s.ctx g.ctx).permits sc = true → s.drained s.here.core sc g.gid = true → s.shadowBusy g h = false →
          g.befE.all (s.performed s.here.core) = true →
          ((s.divisible g || s.gangGroup g) = true → ∃ v, exec (.pub y) s = .next (finishA y.dst 0 v) ∧ v.cores = s.cores ∧
            sameMemory s v ∧ (v.ctx g.ctx).marks = (s.ctx g.ctx).marks + 1 ∧
            ∀ x ∈ (v.ctx g.ctx).shadows, x.base = base → x.mark.isSome = true) ∧
          ((s.divisible g || s.gangGroup g) = false → s.logFull = false → s.bufferMoving g.ctx base h.len = false →
            s.bufferFault g.ctx base h.len = none → s.bufferFail g.ctx base h.len = none → ∃ v, exec (.pub y) s = .next (finishA y.dst 0 v) ∧ v.cores = s.cores ∧
            v = s.publish g.ctx (((s.taskOf g).map (·.id)).getD 0) h (s.stampOf s.myCluster sc) ∧
            (v.ctx g.ctx).shadows = (s.ctx g.ctx).shadows.filter (fun x => x.base != h.base) ∧ v.host = s.host ∧ sameStores s v)))) ∧
    (∀ (s : State) (p : Nat) (data : List Byte) (st : Stamp), p % 4096 = 0 → data.length = 4096 →
      let t := s.newPage p data st
      (∀ x, Tab.get 0 t.mem x = if p ≤ x ∧ x < p + 4096 then (data[x - p]?).getD 0 else Tab.get 0 s.mem x) ∧
      (∀ ln, t.lineMeta ln = if p / 64 ≤ ln ∧ ln < p / 64 + 64 then { stamp := some st } else s.lineMeta ln) ∧
      (∀ ln, p / 64 ≤ ln → ln < p / 64 + 64 → t.cached ln = none) ∧ t.cores = s.cores ∧ t.host = s.host ∧ sameStores s t) ∧
    (∀ (y : Syl) (s : State) (h : Shadow), OpenA (.sdrop y) y 6 s → s.seated →
      let g := s.me
      let base := (g.rdA y.srca.toNat).toNat
      ((s.ctx g.ctx).shadows.all (fun h => h.base != base) = true → exec (.sdrop y) s = .next (finishA y.dst 1 s)) ∧
      ((s.ctx g.ctx).shadows.find? (fun h => h.base == base) = some h → ∃ v, exec (.sdrop y) s = .next (finishA y.dst 0 v) ∧
        (v.ctx g.ctx).shadows = (s.ctx g.ctx).shadows.filter (fun x => x.base != base) ∧ v.cores = s.cores ∧
        sameMemory s v ∧ sameStores s v)))

/-- VDEC loads its descriptor as an access in order with the others; once it is read, the command enters the decode queue
while that holds fewer than 32, and its answer says so. RHNEW gives the lowest free handle to a range that no handle
meets; RHSET acts on a handle: its priority, its release, its state, or an action that runs beside the streams. Where it
says more than the spec does, it states the model's own choice: log entries 39 and 57. -/
def Obligations.DecodesAndHandles : Prop :=
  (∀ (y : Syl) (s : State) (ps : List Place), OpenA (.vdec y) y 6 s → s.seated →
    let g := s.me
    let q : Ask := { need := Need.read, load := true, store := true, reads := true }
    let ws := lineWants (g.rdA y.srca.toNat) 1 64
    s.checks q ws none = .go ps → ps.any (fun p => !p.isLocal) = true →
    Answers (exec (.vdec y) s) (fun t => ∃ a l, (t.cluster s.myCluster).outbound = l ++ [a] ∧
      l.map (·.id) = (s.cluster s.myCluster).outbound.map (·.id) ∧ a.id = s.fresh ∧ a.gid = g.gid ∧ a.ctx = g.ctx ∧
      a.core = s.here.core ∧ a.kind = .vdec (y.imm.extractLsb' 0 5).toNat (y.imm.getLsbD 5) (y.imm.getLsbD 6) ∧
      a.pieces = piecesOf ws ps false ∧ a.dst = .areg y.dst.toNat ∧ a.done = false ∧
      (∀ id ∈ g.befE, s.performed s.here.core id = false → id ∈ a.after) ∧
      t.me = { g with busy := g.busy ++ [(y.dst.toNat, s.fresh)] } ∧ t.fresh = s.fresh + 1 ∧ t.decodes = s.decodes ∧
      sameMemory s t ∧ sameStores s t ∧ sameOthers s.here.core s t)) ∧
  (∀ (s : State) (a : Acc) (bar : Nat) (arr ev : Bool), a.kind = .vdec bar arr ev →
    let d := VDesc.of (a.data.setWidth 512)
    let waiting := (s.decodes.filter (fun x => x.decoder.isNone)).length
    (d.valid = false → s.acceptVdec a = (a.result 2, s)) ∧
    (d.valid = true → 32 ≤ waiting → s.acceptVdec a = (a.result 1, s)) ∧
    (d.valid = true → waiting < 32 → ∃ v job, s.acceptVdec a = (a.result 0, v) ∧ v.decodes = s.decodes ++ [job] ∧
      job.id = s.fresh ∧ job.cluster = a.core / 4 ∧ job.gid = a.gid ∧ job.ctx = a.ctx ∧ job.smode = a.smode ∧
      job.desc = a.data.setWidth 512 ∧ job.bar = bar ∧ job.arr = arr ∧ job.ev = ev ∧ job.decoder = none ∧ job.next = 0 ∧
      v.cores = s.cores ∧ v.fresh = s.fresh + 1 ∧ sameMemory s v ∧ sameStores s v) ∧
    ∀ n < 2 ^ 64, (a.result n).data.toNat = n) ∧
  (∀ (y : Syl) (s : State), OpenA (.rhnew y) y 6 s → s.seated →
    let g := s.me
    let (base, len, u) := readA2 y.srca y.srcb s
    let x := s.ctx g.ctx
    let b := base.toNat
    let n := len.toNat
    let free := fun i => !(Tab.get ({} : Handle) x.handles i).used
    let clash := x.handles.any (fun h => h.2.used && decide (b < h.2.base + h.2.len) && decide (h.2.base < b + n))
    (b % 65536 ≠ 0 ∨ n % 65536 ≠ 0 ∨ n = 0 → exec (.rhnew y) s = .next (raise ALIGN s)) ∧
    (b % 65536 = 0 → n % 65536 = 0 → n ≠ 0 → b < 2 ^ 56 →
      (x.windowAt b).any (fun w => decide (b + n - 1 ≤ w.high) && w.admits g.gstat.mode {}) = true →
      ((clash = true ∨ 2 ^ 40 < n ∨ s.tensorHome g.ctx b n = false ∨ (∀ i < 64, free i = false)) →
        exec (.rhnew y) s = .next (finishA y.dst (BitVec.allOnes 64) u)) ∧
      (clash = false → n ≤ 2 ^ 40 → s.tensorHome g.ctx b n = true → ∀ i < 64, free i = true → (∀ j < i, free j = false) →
        ∃ v, exec (.rhnew y) s = .next (finishA y.dst (BitVec.ofNat 64 i) v) ∧ v.cores = u.cores ∧ sameMemory s v ∧
        v.handle g.ctx i = { used := true, base := b, len := n, prio := y.imm.extractLsb' 0 3 } ∧
        (∀ j, j ≠ i → v.handle g.ctx j = s.handle g.ctx j)))) ∧
  (∀ (y : Syl) (s : State), OpenA (.rhset y) y 6 s → s.seated →
    let c := s.me.ctx
    let (a, u) := readA y.srca s
    let n := a.toNat
    let h := s.handle c n
    let act := (y.imm.extractLsb' 0 4).toNat
    let busy : Handle := { h with act := act, core := s.here.core, after := (s.mine s.here.core s.me.gid).map (·.id) }
    let acts := fun (w : Word) (new : Handle) => ∃ v, exec (.rhset y) s = .next (finishA y.dst w v) ∧ v.cores = u.cores ∧
      v.handle c n = new ∧ (∀ j, j ≠ n → v.handle c j = s.handle c j) ∧ sameMemory s v ∧ sameStores s v
    (64 ≤ n ∨ h.used = false → exec (.rhset y) s = .next (finishA y.dst 1 u)) ∧
    (n < 64 → h.used = true →
      (act = 6 → exec (.rhset y) s = .next (finishA y.dst (BitVec.ofNat 64 ((if h.act = 0 then 0 else 2) +
        (if (s.tensorPages c h).any (fun e => isPark e.frame) then 256 else 0))) u)) ∧
      (act ≠ 6 → h.act ≠ 0 → exec (.rhset y) s = .next (finishA y.dst 2 u)) ∧
      (h.act = 0 → (act = 0 → acts 0 { h with prio := y.imm.extractLsb' 4 3 }) ∧ (act = 5 → acts 0 {}) ∧
        (1 ≤ act → act ≤ 4 → acts 0 busy))))

/-! ## Tasks (R288, R303–R312, R392, R404, R419, R437–R440) -/

/-- A launch that finds room makes one task of the context's next identifier, and the shares of its boxes behind those
that stand. The task instructions that answer in DST: TLAUNCH, TWAIT, TSTAT, SPALLOC, GLAUNCH and GCOMMIT; SPFREE gives
the allocation back. Reading a block changes no byte that a reader sees. Where it says more than the spec does, it states
the model's own choice: log entries 58, 59, 60 and 61. -/
def Obligations.TaskForms : Prop :=
  (
    ∀ (s t : State) (ctx va id : Nat) (b : Block) (why : Cause), s.launch ctx b va why = some (id, t) →
      let x := s.ctx ctx
      let op := s.chooseOp b
      id = ctx * 2 ^ 58 + nextCount x.launches ∧ (t.ctx ctx).launches = nextCount x.launches ∧
      (∃ task, t.tasks = s.tasks ++ [task] ∧ task.id = id ∧ task.ctx = ctx ∧ task.blockVa = va ∧
        task.block = { b with parent := why.parent } ∧
        task.prio = min b.prio x.pceil.toNat ∧ task.cls = max b.eclass x.cmin.toNat ∧ task.opidx = op) ∧
      (s.shares.all (fun h => !h.heldBack) = true →
        ∃ l, t.shares = s.shares ++ l ∧ l.length ≤ (b.boxes (b.tiles op)).length ∧ ∀ h ∈ l, h.task = id ∧ h.ctx = ctx ∧
        h.cluster ∈ s.clustersFrom b.home ∧ (h.lo, h.hi) ∈ b.boxes (b.tiles op) ∧
        (h.state = .ready ∨ h.state = .waiting ∨ h.state = .droppedS)) ∧
      t.cores = s.cores ∧ sameMemory s t ∧ sameStores s t) ∧
  (
    let reads := fun (s w : State) => w.cores = s.cores ∧ w.host = s.host ∧ w.far = s.far ∧ w.tags = s.tags ∧ sameStores s w ∧
      ((∀ n, s.fwinAt n = none) → s.coherent → ∀ x, w.byteNow x = s.byteNow x)
    (∀ (y : Syl) (s : State) (ps : List Place), OpenA (.tlaunch y) y 7 s → s.seated →
      let g := s.me
      let a := g.rdA y.srca.toNat
      s.checks blockAsk (lineWants a 4 256) none = .go ps → s.readsLater ps = false →
      let (bs, v) := s.loadBytes ps 64
      let u := v.countBytes g.ctx g.bufNo 256
      let b := Block.ofBytes bs
      (u.blockValid g.ctx b = false → exec (.tlaunch y) s = .next (finishA y.dst 0 u)) ∧
      (u.blockValid g.ctx b = true → u.launch g.ctx b a.toNat (u.launchCause g) = none →
        exec (.tlaunch y) s = .next (raise WAITFULL s)) ∧
      (∀ id x, u.blockValid g.ctx b = true → u.launch g.ctx b a.toNat (u.launchCause g) = some (id, x) →
        ∃ w, exec (.tlaunch y) s = .next (finishA y.dst (BitVec.ofNat 64 id) w) ∧ w.tasks.map (·.id) = x.tasks.map (·.id) ∧
          reads s w)) ∧
    (∀ (y : Syl) (s : State), OpenA (.twait y) y 7 s → s.seated →
      let id := s.me.rdA y.srca.toNat
      let live := s.tasks.find? (fun t => t.live && t.id == id.toNat && t.ctx == s.me.ctx)
      (live = none → exec (.twait y) s = .next (finishA y.dst 1 s)) ∧
      (∀ t, live = some t →
        let ready := s.shares.filter (fun h => h.task == t.id && (h.state == .ready || h.state == .waiting))
        (ready = [] → exec (.twait y) s = .next (s.upd (fun g => { g with holds := g.holds ++ [.twait t.id y.dst.toNat] }))) ∧
        (ready ≠ [] → s.adopt s.myCluster ready = none → exec (.twait y) s =
          .next (finishA y.dst 0 (s.upd (fun g => { g with holds := g.holds ++ [.twait t.id y.dst.toNat] })))) ∧
        (∀ u, ready ≠ [] → s.adopt s.myCluster ready = some u → exec (.twait y) s =
          .next (finishA y.dst 0 (u.upd (fun g => { g with holds := g.holds ++ [.adopted t.id y.dst.toNat] })))))) ∧
    (∀ (y : Syl) (s : State), OpenA (.tstat y) y 7 s →
      let id := s.me.rdA y.srca.toNat
      let word := match s.tasks.find? (fun t => t.live && t.id == id.toNat && t.ctx == s.me.ctx) with
        | none => 0
        | some t =>
          let l := s.shares.filter (fun h => h.task == t.id && h.state != .ended)
          let live := l.filter (fun h => !(h.state == .droppedS || h.state == .replaced))
          (if live.any (fun h => h.state == .ready || h.state == .waiting) then 1
           else if !live.isEmpty && live.all (fun h => h.state == .running || h.state == .switched || h.state == .parked) then 2 else 3)
          + (if t.dropped then 4 else 0) + l.length % 128 * 65536
      exec (.tstat y) s = .next (finishA y.dst (BitVec.ofNat 64 word) s)) ∧
    (∀ (y : Syl) (s : State) (h : Share) (task : Task), OpenA (.spalloc y) y 7 s → s.seated →
      s.share s.me.share = some h → s.task h.task = some task →
      let (size, u) := readA y.srca s
      let id := (y.imm.extractLsb' 0 4).toNat
      let n := (size.toNat + 4095) / 4096
      (size = 0 → exec (.spalloc y) s = .next (finishA y.dst (BitVec.allOnes 64) u)) ∧
      (∀ a, size ≠ 0 → h.allocs.find? (fun a => a.1 == id) = some a → a.2.2 = n →
        exec (.spalloc y) s = .next (finishA y.dst (BitVec.ofNat 64 (4096 * a.2.1)) u)) ∧
      (∀ first, size ≠ 0 → h.allocs.all (fun a => a.1 != id) = true → h.findRun task.block n = some first →
        ∃ v, exec (.spalloc y) s = .next (finishA y.dst (BitVec.ofNat 64 (4096 * first)) v) ∧ v.cores = u.cores ∧
          v.share h.id = some { h with allocs := h.allocs ++ [(id, first, n)] } ∧ sameMemory s v ∧ sameStores s v ∧
          (∀ k, v.tag s.myCluster k = if first ≤ k ∧ k < first + n
            then { s.tag s.myCluster k with valid := false, poison := false } else s.tag s.myCluster k))) ∧
    (∀ (y : Syl) (s : State) (h : Share), OpenA (.spfree y) y 7 s → s.share s.me.share = some h →
      Answers (exec (.spfree y) s) (fun t => t.cores = s.cores ∧ sameMemory s t ∧ sameStores s t ∧ t.share h.id =
        some { h with allocs := h.allocs.filter (fun a => a.1 != (y.imm.extractLsb' 0 4).toNat) })) ∧
    (∀ (y : Syl) (s : State) (r : GangRec), OpenA (.gcommit y) y 7 s → s.seated →
      let id := (s.me.rdA y.srca.toNat).toNat
      let l := (s.ctx s.me.ctx).gangs
      (l.all (fun r => r.id != id) = true → exec (.gcommit y) s = .next (finishA y.dst 1 s)) ∧
      (l.find? (fun r => r.id == id) = some r →
        (r.status = none → exec (.gcommit y) s = .next (finishA y.dst 2 s)) ∧
        (∀ k, r.status = some k → k ≠ 0 → ∃ v, exec (.gcommit y) s = .next (finishA y.dst 1 v) ∧ v.cores = s.cores ∧
          (v.ctx s.me.ctx).gangs = l.filter (fun q => q.id != id) ∧ sameMemory s v) ∧
        (r.status = some 0 → Answers (exec (.gcommit y) s) (fun t => t.me =
            { s.me with holds := s.me.holds ++ [.gcommit id y.dst.toNat] } ∧
          (t.ctx s.me.ctx).gangs = l.map (fun q => if q.id = id then
            { q with commitAck := [], commitDrop := y.imm.getLsbD 0, commitAt := some s.time } else q) ∧
          sameOthers s.here.core s t ∧ sameMemory s t ∧ sameStores s t)))) ∧
    (∀ (y : Syl) (s : State) (ps : List Place), OpenA (.glaunch y) y 7 s → s.seated →
      let g := s.me
      s.checks blockAsk (lineWants (g.rdA y.srca.toNat) 4 256 ++ lineWants (g.rdA y.srcb.toNat) 2 128) none = .go ps →
      s.readsLater ps = false →
      let (bs, u0) := s.loadBytes ps 64
      let u := u0.countBytes g.ctx g.bufNo 384
      let b := Block.ofBytes (bs.take 256)
      (gangMembers (bs.drop 256) = none → exec (.glaunch y) s = .next (finishA y.dst 0 u)) ∧
      (∀ lead ms, gangMembers (bs.drop 256) = some (lead, ms) →
        (u.blockValid g.ctx b = false ∨ b.divisible = true ∨ ms.all u.reachable = false ∨ 16 ≤ (u.ctx g.ctx).gangs.length →
          exec (.glaunch y) s = .next (finishA y.dst 0 u)) ∧
        (u.blockValid g.ctx b = true → b.divisible = false → ms.all u.reachable = true → (u.ctx g.ctx).gangs.length < 16 →
          let count := nextCount (u.ctx g.ctx).launches
          ∃ w r, exec (.glaunch y) s = .next (finishA y.dst (BitVec.ofNat 64 (g.ctx * 2 ^ 58 + count)) w) ∧ reads s w ∧
            (w.ctx g.ctx).launches = count ∧ (w.ctx g.ctx).gangs = (u.ctx g.ctx).gangs ++ [r] ∧ r.id = g.ctx * 2 ^ 58 + count ∧
            r.members = ms ∧ r.lead = lead ∧ r.block = bs.take 256))))

/-- SPAWN starts a group of the share at the entry, in the empty front bank of the core that SRCB names, with the
spawner's eight arguments in a1 to a8 and s1 to s8; an entry that is no multiple of 8 traps with ALIGN, and a bank, a
share or a shadow group in the way with SPAWNBUSY. Where it says more than the spec does, it states the model's own
choice: log entry 61. -/
def Obligations.SpawnStarts : Prop :=
  ∀ (y : Syl) (s : State), OpenA (.spawn y) y 7 s → s.seated →
    let g := s.me
    let entry := g.rdA y.srca.toNat
    let (k, u) := readA y.srcb s
    let c := 4 * s.myCluster + k.toNat % 4
    let d := s.core c
    (entry.toNat % 8 ≠ 0 → exec (.spawn y) s = .next (raise ALIGN s)) ∧
    (entry.toNat % 8 = 0 → ((d.bank d.front).isSome = true ∨ (d.bank (!d.front)).any (fun h => h.ctx != g.ctx) = true ∨
        s.roomForGroup g = false) → exec (.spawn y) s = .next (raise SPAWNBUSY s)) ∧
    (entry.toNat % 8 = 0 → d.bank d.front = none → (d.bank (!d.front)).all (fun h => h.ctx == g.ctx) = true →
      s.roomForGroup g = true →
      Answers (exec (.spawn y) s) (fun t => ∃ n, t.front c = some n ∧ n.apc = entry ∧ n.xpc = entry ∧ n.gid = s.fresh ∧
        n.ctx = g.ctx ∧ n.share = g.share ∧ n.step = g.step ∧ n.origin = 1 + k.toNat % 4 ∧ n.gstat.mode = false ∧
        n.tvec = (s.ctx g.ctx).dtvec ∧
        (∀ i < 8, let w := g.rdA ((y.imm.extractLsb' 0 5).toNat + i); n.rdA (1 + i) = w ∧ n.rdS (1 + i) = w) ∧
        t.me = u.me ∧ t.fresh = s.fresh + 1 ∧ (∀ e, e ≠ c → t.core e = u.core e) ∧ sameMemory s t ∧ sameStores s t))

/-- YIELD asks for the exchange of the banks and DECPL for the end of the fusion, each at the next quiet boundary, where
the one exchanges the banks if the shadow group is of the context and can issue, and the other parts every member. SEGE's
bundle opens a segment, before which the streams meet. RDV clears its group's rewind mark and waits while a partner that
its mask names has one. DECPL parts them once each member's execute stream has passed its bundle. Where it says more than
the spec does, it states the model's own choice: log entries 18 and 61. -/
def Obligations.GroupForms : Prop :=
  (∀ (y : Syl) (s : State), OpenA (.yield y) y 7 s → s.seated → Answers (exec (.yield y) s) (fun t =>
    t.me = { s.me with yieldReq := true } ∧ sameDevice s t ∧ sameOthers s.here.core s t)) ∧
  (∀ (s : State) (c : Nat) (g : Machine.Group), s.members c = [c] → s.fusedSet c = [c] → s.switchSet c = [c] →
    s.front c = some g → g.yieldReq = true → g.quiet = true → g.between = true →
    let d := s.core c
    let ready := (d.bank (!d.front)).any (fun h => h.ctx == g.ctx) && s.shadowReady c
    let t := s.doYield c
    ((t.core c).front = if ready then !d.front else d.front) ∧ (t.bank c d.front).map (·.yieldReq) = some false ∧
    sameMemory s t ∧ sameStores s t ∧ sameOthers c s t) ∧
  (∀ (y : Syl) (s : State), OpenA (.decpl y) y 7 s → s.seated → Answers (exec (.decpl y) s) (fun t =>
    t.me = (if s.me.gstat.fused then { s.me with decplReq := s.me.decplReq.or (some s.me.bundles) } else s.me) ∧ sameDevice s t ∧ sameOthers s.here.core s t)) ∧
  (∀ (s : State) (c : Nat), s.members c = s.fusedSet c → (s.members c).any (fun k => (s.front k).any (·.decplReq.isSome)) = true →
    s.quietAll (s.members c) = true →
    (∀ k ∈ s.members c, ∀ g, s.front k = some g → ∀ n, g.decplReq = some n → n + g.hist.length ≤ g.bundles) →
    let t := s.doDecpl c
    (∀ k ∈ s.members c, ∀ g, s.front k = some g →
      t.front k = some { g with decplReq := none, gstat := { g.gstat with fused := false } }) ∧
    (∀ k, k ∉ s.members c → t.core k = s.core k) ∧ sameMemory s t ∧ sameStores s t) ∧
  (∀ (y : Syl) (s : State), OpenA (.sege y) y 7 s → exec (.sege y) s = .next s) ∧
  (∀ (s : State) (c : Nat) (l : List (Nat × Option Instr)) (g : Machine.Group) (y : Syl), s.front c = some g →
    (7, some (.sege y)) ∈ l → g.guardA y.guard 0 = true → g.midA = false → g.atEntry = false →
    let t := s.startA l c
    (∃ h, t.front c = some h ∧ h.seg.addr = g.apc ∧ h.seg.k = g.k ∧ h.seg.rctr = g.rctr ∧ h.seg.seq = s.fresh ∧
      h.hist = g.hist ++ [g.apc] ∧ sameExecute h g ∧ h.a = g.a ∧ h.g = g.g ∧ h.k = g.k) ∧
    (t.core c).rewound = (s.core c).rewound.filter (fun x => x.1 != g.gid) ∧
    sameMemory s t ∧ sameStores s t ∧ sameOthers c s t) ∧
  (∀ (s : State) (c : Nat) (l : List (Nat × Option Instr)) (g : Machine.Group) (y : Syl), s.front c = some g →
    s.bundle c g.apc = .ok l → (7, some (.sege y)) ∈ l → g.midA = false → g.hist ≠ [] → g.hist.length < 64 →
    g.endA = false → g.awaitBqe = false → s.waits c g = 0 → s.freezeA1 c = 9) ∧
  (∀ (y : Syl) (s : State), OpenA (.rdv y) y 7 s → s.seated → Answers (exec (.rdv y) s) (fun t =>
    t.me = { s.me with holds := s.me.holds ++ [.rdv (y.imm.extractLsb' 0 4)] } ∧
    (t.core s.here.core).rewound = (s.core s.here.core).rewound.filter (fun x => x.1 != s.me.gid) ∧
    sameDevice s t ∧ sameOthers s.here.core s t)) ∧
  (∀ (s : State) (c : Nat) (g : Machine.Group) (mask : BitVec 4), g.pageWait = none → g.parked = none → s.lateWait c g = false →
    g.holds = [.rdv mask] →
    (s.waits c g = 3 ↔ ∃ k < 4, let d := 4 * (c / 4) + k
      d ≠ c ∧ mask.getLsbD k = true ∧ (s.core d).rewindPend = true ∧ ∃ p, s.front d = some p ∧ p.share = g.share) ∧
    (s.waits c g = 3 ∨ s.waits c g = 0))

/-- FUSE, and a REJOIN that acts, wait for the others of their set while those that have yet to arrive may still agree; a
partner of another share, or a last arrival that does not agree, traps them. A REJOIN in any other state does nothing.
Where it says more than the spec does, it states the model's own choice: log entry 61. -/
def Obligations.FusionForms : Prop :=
  ∀ (y : Syl) (s : State) (rejoin : Bool) (i : Syl → Instr), (if rejoin then i = .rejoin else i = .fuse) →
    OpenA (i y) y 7 s → s.seated →
    let c := s.here.core
    let g := s.me
    let fw := if rejoin then g.gstat.fwidth else y.imm.extractLsb' 0 2
    let ps := ((fusionSet c fw).filter (· != c)).filterMap s.front
    let whole := ps.length + 1 = (fusionSet c fw).length ∧ ps.all (fun p => p.fuseHold.isSome) = true
    let agree := g.gstat.fused = false ∧ ps.all (fun p => !p.gstat.fused && p.fuseHold == some (fw, s.here.addr, rejoin)) = true
    (rejoin = true → g.gstat.fused = true ∨ g.gstat.fwidth = 0 → exec (i y) s = .next s) ∧
    ((rejoin = true → g.gstat.fused = false ∧ g.gstat.fwidth ≠ 0) →
      (ps.any (fun p => p.share != g.share) = true → exec (i y) s = .next (s.fuseFails (fusionSet c fw))) ∧
      (whole → ¬ agree → exec (i y) s = .next (s.fuseFails (fusionSet c fw))) ∧
      (ps.all (fun p => p.share == g.share) = true → (whole → agree) →
        Answers (exec (i y) s) (fun t => t.me = { g with holds := g.holds ++ [.fuse fw s.here.addr rejoin] } ∧
          (t.cluster s.myCluster).fusion = (if rejoin then (s.cluster s.myCluster).fusion ||| BitVec.twoPow 4 (c % 4)
            else (s.cluster s.myCluster).fusion) ∧ sameMemory s t ∧ sameStores s t ∧ sameOthers c s t)))

/-- WINW writes a window of the context and GSWAP asks for a gang switch, each in S mode and with its answer in DST; in U
mode both trap with PRIV. Where it says more than the spec does, it states the model's own choice: log entry 32. -/
def Obligations.WindowAndSwap : Prop :=
  (∀ (y : Syl) (s : State) (ps : List Place), OpenA (.winw y) y 7 s → s.seated →
    let g := s.me
    let a := g.rdA y.srca.toNat
    let n := (y.imm.extractLsb' 0 4).toNat
    (g.gstat.mode = false → exec (.winw y) s = .next (raise PRIV s)) ∧
    (g.gstat.mode = true → s.checks { need := Need.read, load := true, reads := true }
        [{ addr := a, len := 32, en := 2 ^ 32 - 1, aligned := a.toNat % 32 == 0 }] none = .go ps → s.readsLater ps = false →
      let (bs, u0) := s.loadBytes ps 32
      let u := u0.countBytes g.ctx g.bufNo 32
      let r := fun i => bytesAt bs (8 * i) 8
      let w := Window.ofWords (r 0) (r 1) (r 2) (r 3)
      let ok := windowOk (r 0) (r 1) (r 2) (r 3)
      let clash := w.en && (List.range 16).any (fun i => i != n &&
        (let v := Tab.get {} (u.ctx g.ctx).win i; v.en && decide (v.low ≤ w.high) && decide (w.low ≤ v.high)))
      (ok = false → exec (.winw y) s = .next (finishA y.dst 2 u)) ∧
      (ok = true → clash = true → exec (.winw y) s = .next (finishA y.dst 1 u)) ∧
      (ok = true → clash = false → ∃ v, exec (.winw y) s = .next (finishA y.dst 0 v) ∧ v.cores = s.cores ∧ v.host = s.host ∧
        v.tags = s.tags ∧ sameStores s v ∧
        Tab.get {} (v.ctx g.ctx).win n = w ∧ (∀ i, i ≠ n → Tab.get {} (v.ctx g.ctx).win i = Tab.get {} (u.ctx g.ctx).win i) ∧
        ((∀ n, s.fwinAt n = none) → s.coherent → ∀ x, v.byteNow x = s.byteNow x)))) ∧
  (∀ (y : Syl) (s : State), OpenA (.gswap y) y 7 s → s.seated →
    let l := (s.candidates s.myCluster).filter (fun h => h.ctx != s.me.ctx)
    (s.me.gstat.mode = false → exec (.gswap y) s = .next (raise PRIV s)) ∧
    (s.me.gstat.mode = true → l = [] → exec (.gswap y) s = .next (finishA y.dst 1 s)) ∧
    (∀ h, s.me.gstat.mode = true → s.firstOf l = some h →
      exec (.gswap y) s = .next (finishA y.dst 0 (s.modCluster s.myCluster (fun k => { k with switchTo := some h.ctx })))))

/-! ## Events of the streams and the engines -/

/-- Events of a core's streams, when due: lines enter the fetch buffer, results land while END waits, a pending trap is
taken, a group that has been frozen gives way to the other bank, a bank is rewound to its segment entry, a fusion begins,
and the random-bit queue takes its next word. Where it says more than the spec does, it states the model's own choice: log
entries 2, 19, 20, 21, 22 and 24. -/
def Obligations.StreamEvents : Prop :=
  (∀ (s : State) (core va : Nat) (g : Machine.Group), let c := s.fetcher core
    s.front c = some g → (s.core c).fetch.all (fun l => l.va != va) = true → (s.core c).fetch.length < 8 →
    let lands := fun (i : Instr) (d : BitVec 512) => Answers (exec i s) (fun t =>
      (t.core c).fetch = (s.core c).fetch ++ [{ va := va, data := some d }] ∧ t.host = s.host ∧ t.far = s.far ∧ t.tags = s.tags ∧
      ((∀ n, s.fwinAt n = none) → s.coherent → ∀ x, t.byteNow x = s.byteNow x) ∧ sameStores s t ∧ sameOthers c s t)
    ∀ i ∈ [Instr.lineFetch core va, .fetchAhead core va],
      (i = .lineFetch core va → (s.members core).any (fun k => (s.demanded k).contains va) = true) →
      (i = .fetchAhead core va → va % 64 = 0) →
      (∀ p, s.reach g.ctx g.gstat.mode Need.fetch va = .dev p → regionKind p ≠ 2 → (tagged p = true → s.cellOf (p / 64) = cVALUE ∧
        (s.lineMeta (p / 64)).poison = false) → lands i (lineOf (s.bytesNow p 64))) ∧
      (∀ a, s.reach g.ctx g.gstat.mode Need.fetch va = .host a → lands i (lineOf (memBytes s.host a 64)))) ∧
  (∀ (s : State) (c : Nat) (g : Machine.Group), s.members c = [c] → s.front c = some g → g.dead = none →
    g.slotX = 0 → (g.endX = true ∨ g.holdLeft ≠ 0) → Answers (exec (.resultLanding c) s) (fun t =>
      t.front c = some g.thawX.tick ∧ sameDevice s t ∧ sameOthers c s t)) ∧
  (∀ (s : State) (c : Nat), s.members c = [c] → exec (.trapEntry c) s = .next (s.takeTrap c)) ∧
  (∀ (s : State) (c : Nat) (g : Machine.Group) (t0 : Nat), s.members c = [c] → s.fusedSet c = [c] → s.switchSet c = [c] →
    s.front c = some g → g.frozenAt = some t0 → (g.quiet = true ∨ g.entering = false) →
    t0 + 2000 < s.time → s.switchable c g = true → s.shadowReady c = true →
    Answers (exec (.groupSwitch c) s) (fun t => (t.core c).front = !(s.core c).front ∧
      (∃ h, t.front c = some h ∧ h.live = 0 ∧ h.frozenAt = none) ∧ (t.core c).fetch = [] ∧ sameMemory s t ∧ sameStores s t ∧
      sameOthers c s t)) ∧
  (∀ (s : State) (c : Nat) (b : Bool) (g : Machine.Group), s.bank c b = some g → g.gstat.fused = false →
    g.entering = false → g.segNext = false → (g.quiet = false ∨ g.between = false) → s.stopAsked c = true →
    s.bankStopped c b = true → Answers (exec (.rewind c b) s) (fun t => ∃ h, t.bank c b = some h ∧ h.apc = g.seg.addr ∧ h.xpc = g.seg.addr ∧ h.k = g.seg.k ∧
      h.rctr = g.seg.rctr ∧ h.ptr = g.seg.ptr ∧ h.nq = {} ∧ h.tq = {} ∧ h.flight = [] ∧ h.snap = [] ∧ h.live = 0 ∧ h.endX = false ∧
      h.endA = false ∧ h.trapPend = none ∧
      h.holds = g.holds.filter (fun x => match x with
        | .refetch _ => true
        | _ => false) ∧ h.s = g.s ∧ h.v = g.v ∧ h.m = g.m ∧ h.mp = g.mp ∧ h.a = g.a ∧
      h.g = g.g ∧ t.bank c (!b) = s.bank c (!b) ∧ (t.core c).rewindPend = true ∧ sameMemory s t ∧ sameStores s t ∧
      sameOthers c s t)) ∧
  (∀ (s : State) (c : Nat) (g : Machine.Group) (fw : BitVec 2) (a : Word) (r : Bool), s.front c = some g →
    g.fuseHold = some (fw, a, r) →
    (∀ k ∈ fusionSet c fw, ∃ h, s.front k = some h ∧ h.fuseHold = some (fw, a, r) ∧ h.hist = [] ∧ h.gstat.fused = false ∧
      h.trapPend = none ∧ h.midA = false) →
    Answers (exec (.fusionJoin c) s) (fun t => (∀ i k, (fusionSet c fw)[i]? = some k → ∃ h g, t.front k = some h ∧ s.front k = some g ∧
      h.gstat = { g.gstat with fused := true, fwidth := fw, fidx := BitVec.ofNat 2 i } ∧ h.fuseHold = none ∧
      h.apc = g.apc ∧ h.xpc = g.xpc ∧ sameExecute h g ∧ sameAccess h g) ∧ sameMemory s t ∧ sameStores s t)) ∧
  (∀ (s : State) (c : Nat) (g : Machine.Group), s.front c = some g → g.rbq.length < 8 →
    Answers (exec (.rbqRefill c) s) (fun t => t.front c = some { g with rbq := g.rbq ++
        [randomWord ((s.ctx g.ctx).rkey1.toNat * 2 ^ 64 + (s.ctx g.ctx).rkey0.toNat)
          ((g.rctr.extractLsb' 21 43) ++ (g.rctr.extractLsb' 0 21 + BitVec.ofNat 21 g.rbq.length))] } ∧
      sameDevice s t ∧ sameOthers c s t))

/-- Events of the copy engine and the video decoders, when due: a command starts, an element moves within operand store
through the destination's swizzle, a command ends with its arrival and its record, a merge ends, a decode starts, one of
its frames is written with its status word and counted, and it ends with its completion word. Where it says more than the
spec does, it states the model's own choice: log entries 2, 51 and 57. -/
def Obligations.EngineEvents : Prop :=
  (∀ (s : State) (cl id : Nat) (c : Copy), (s.cluster cl).copy id = some c →
    (s.mayStart cl c = true → Answers (exec (.copyStart cl id) s) (fun t =>
      (t.cluster cl).copies = (s.cluster cl).copies.map (fun x => if x.id = id then
        { x with started := true, moved := x.sh.total == 0 } else x) ∧ t.cores = s.cores ∧ sameMemory s t ∧ sameStores s t)) ∧
    (let h := c.sh
      let sa := sideAddr c.src (h.index c.next) h.ss
      let da := sideAddr c.dst (h.index c.next) h.ds
      let a := swzAddr h.swz da.toNat
      c.started = true → c.moved = false → c.after.all (s.performed (4 * cl)) = true → c.token = none → c.parked = none → c.merge = none → c.gather = false → c.sos = true →
      c.dos = true → sa.toNat + h.se ≤ 0x600000 → (s.cluster cl).unrestored.contains (sa.toNat / 4096) = false →
      (s.tag cl (sa.toNat / 4096)).poison = false → (s.cluster cl).unrestored.contains (a / 4096) = false →
      Answers (exec (.copyElement cl id) s) (fun t =>
        (t.cluster cl).os = memPut (s.cluster cl).os a
          ((leBytes h.de (h.value (leNat (memBytes (s.cluster cl).os sa.toNat h.se)))).map some) ∧
        (∃ d, (t.cluster cl).copy id = some d ∧ d.next = c.next + 1 ∧ (d.moved ↔ h.total ≤ c.next + 1)) ∧ sameMemory s t)) ∧
    (c.moved = true → c.merge = none → Answers (exec (.copyComplete cl id) s) (fun t =>
      (t.cluster cl).copies = (s.cluster cl).copies.filter (fun x => x.id != id) ∧ sameMemory s t ∧ sameStores s t ∧
      ((c.mute = true ∨ c.arr = false) → t.cores = s.cores) ∧
      (c.mute = false → c.arr = true → s.enabled cl = true → t.bar cl c.ctx c.bar = (s.bar cl c.ctx c.bar).arrive
        (if (s.bar cl c.ctx c.bar).mode then c.sh.total * c.sh.de else 1) false) ∧
      (c.mute = false → c.ev = true → (s.cluster cl).ctx = some c.ctx → (s.cluster cl).events.length + 16 ≤ 128 → ∃ e, (t.cluster cl).events =
        (s.cluster cl).events ++ [e] ∧ e.status = 0 ∧ e.kind = 0 ∧ e.gid = c.gid ∧ e.tag = c.buf.setWidth 16) ∧
      ((c.mute = true ∨ c.ev = false) → (t.cluster cl).events = (s.cluster cl).events))) ∧
    (∀ base, c.moved = true → c.merge = some base → Answers (exec (.shadowMergeDone cl id) s) (fun t =>
      (t.cluster cl).copies = (s.cluster cl).copies.filter (fun x => x.id != id) ∧
      (t.ctx c.ctx).shadows = (s.ctx c.ctx).shadows.map (fun h => if h.base = base then { h with merging := false } else h) ∧
      t.cores = s.cores ∧ sameMemory s t ∧ sameStores s t))) ∧
  (∀ (s : State) (n : Nat) (d : Decode), s.decodes.find? (fun d => d.decoder.isNone) = some d → n < s.board.decoders →
    s.decoding n = none → Answers (exec (.vdecStart d.id n) s) (fun t =>
      t.decodes = s.decodes.map (fun x => if x.id = d.id then { x with decoder := some n } else x) ∧ t.cores = s.cores ∧
      sameMemory s t ∧ sameStores s t)) ∧
  (∀ (s : State) (n : Nat) (d : Decode), s.decoding n = some d → d.token = none →
    let v := VDesc.of d.desc
    (∀ u, d.ended = none → d.next < v.nframes →
      ((Config.av1Reads (s.streamByte d v) v.bslen d.next).filter (· < v.bslen)).all (fun i => s.streamWait d v i == none) = true →
      let f := s.frameOf d v
      let tag : Tag := { fmt := BitVec.ofNat 4 v.fmt, swz := 3, valid := true }
      let good := f.state == 0 || f.state == 2
      let bytes := if good then v.frame f else match v.pad, d.last with
        | false, some m => repeatFrame m v.spf
        | _, _ => v.padFrame
      (s.putSlots d.cluster d.ctx d.share tag (v.slot0 + d.next * v.spf) bytes).hwWrite d.ctx (v.staddr + 8 * d.next) (statusWord f)
        none d.pageFails = (.done, u) →
      Answers (exec (.decodeFrame n) s) (fun t => t.decodes = u.decodes.map (fun x => if x.id = d.id then
          { x with next := x.next + 1, pageFails := [], states := x.states ++ [f.state], bad := if good then x.bad else x.bad + 1,
                   damaged := if f.state = 2 then x.damaged + 1 else x.damaged,
                   last := if good then some (keepFrame bytes) else x.last } else x) ∧
        t.mem = u.mem ∧ t.host = u.host ∧ sameStores u t ∧ (d.arr = false → t.clusters = u.clusters) ∧
        (d.arr = true → u.enabled d.cluster = true → t.bar d.cluster d.ctx d.bar =
          (u.bar d.cluster d.ctx d.bar).arrive (if (u.bar d.cluster d.ctx d.bar).mode then v.spf * 4096 else 1) (!good)))) ∧
    (∀ u, (d.ended.isSome = true ∨ v.nframes ≤ d.next) →
      s.hwWrite d.ctx v.cwaddr (completionWord v.cwseq (d.ended.getD (if d.bad = 0 then 0 else POISON))
        (min d.damaged 65535 * 65536 + min d.bad 65535)) (some (s.stampOf d.cluster v.cwsc)) d.pageFails = (.done, u) →
      Answers (exec (.vdecComplete n) s) (fun t => t.decodes = u.decodes.filter (fun x => x.id != d.id) ∧ t.mem = u.mem ∧
        t.host = u.host ∧ sameStores u t)))

/-- Events of the H-dies' caches and translation, when due: fills, handle actions, fault records and tokens, replies to
faults, invalidations, migrations, free frames, the commons split, hotness counters, and format windows. Where it says
more than the spec does, it states the model's own choice: log entries 2, 28, 29, 32, 40, 41 and 42. -/
def Obligations.DieEvents : Prop :=
  (∀ (s : State) (ln : Nat) (rc : Option Nat) (more : List (Option Nat)), s.wants ln = rc :: more → s.uncached ln = false → s.cached ln = none → s.fwinAt (64 * ln) = none →
    tagged (64 * ln) = true → s.populated (64 * ln) = true → (s.hdie (ownerOf (64 * ln))).room ln 1 = true →
    (s.hdie (ownerOf (64 * ln))).freeBanks ln ≠ [] → Answers (exec (.llcMissFill ln) s) (fun t =>
      (∃ l, t.cached ln = some l ∧ l.data = lineOf (s.memAt (64 * ln) 64) ∧ l.dirty = false ∧ l.rc = rc ∧ l.lru = s.fresh) ∧
      (∀ k, k ≠ ln → t.cached k = s.cached k) ∧ t.cores = s.cores ∧ sameMemory s t ∧ sameStores s t)) ∧
  (∀ (s : State) (x n : Nat), let h := s.handle x n
    h.act = 1 → Answers (exec (.rhsetActionDone x n) s) (fun t => t.handle x n = { h with act := 0, after := [] } ∧
      (∀ ln ∈ s.tensorLines x h, t.cached ln = none) ∧ t.cores = s.cores ∧ sameStores s t)) ∧
  (∀ (s : State) (h : Nat) (r : FRec) (rest : List FRec), let d := s.hdie h
    let log := (d.frbase.extractLsb' 0 5).toNat
    d.recs = r :: rest → 6 ≤ log → log ≤ 20 → (d.frhead - d.frtail).toNat < 2 ^ log → 6 ≤ r.kind →
    let a := (d.frbase.extractLsb' 6 46).toNat * 64 + 32 * (d.frhead.toNat % 2 ^ log)
    Answers (exec (.faultRecordWrite h) s) (fun t => (t.hdie h).recs = rest ∧ (t.hdie h).frhead = d.frhead + 1 ∧
      leNat (memBytes t.host a 8) =
        (((if r.kind = 6 ∨ r.kind = 7 ∨ r.kind = 9 then 0 else s.board.devid.toNat * 2 ^ 42) + r.page) / 4096 % 2 ^ 40 * 4096 + r.kind * 256 + r.ctx) % 2 ^ 64 ∧
      leNat (memBytes t.host (a + 8) 8) = r.gen.toNat * 2 ^ 32 + min r.count 65535 * 2 ^ 16 + r.token % 8192 ∧
      leNat (memBytes t.host (a + 16) 8) = r.time % 2 ^ 64 ∧ leNat (memBytes t.host (a + 24) 8) = d.frhead.toNat ∧
      (∀ x, (x < a ∨ a + 32 ≤ x) → Tab.get 0 t.host x = Tab.get 0 s.host x) ∧ t.mem = s.mem ∧ t.cores = s.cores ∧ sameStores s t)) ∧
  (∀ (s : State) (h n : Nat) (r : FRec) (rest : List FRec), (s.hdie h).noToken = r :: rest → (s.hdie h).freeToken = some n →
    Answers (exec (.tokenFreeTake h) s) (fun t => (t.hdie h).noToken = rest ∧
      (t.hdie h).recs = (s.hdie h).recs ++ [{ r with token := n }] ∧
      (∃ k : Token, (t.hdie h).tokens = (s.hdie h).tokens ++ [k] ∧ k.num = n ∧ k.ctx = r.ctx ∧ k.page = r.page ∧ k.kind = r.kind) ∧
      (∀ c b g, s.bank c b = some g → g.pageWait = some (h, r.token) →
        (t.bank c b).map (·.pageWait) = some (some (h, n))) ∧ t.mem = s.mem ∧ sameStores s t)) ∧
  (∀ (s : State) (h : Nat) (w : Word) (k : Token), (s.hdie h).tokens.find? (fun t => t.num == (w.extractLsb' 0 13).toNat) = some k →
    (s.ctx k.ctx).gen = w.extractLsb' 32 32 → w.extractLsb' 30 2 = 0 → (s.hdie h).held = [] →
    Answers (exec (.replay h w) s) (fun t => (t.hdie h).tokens = (s.hdie h).tokens.filter (fun u => u.num != k.num) ∧
      (∀ c b g, s.bank c b = some g → g.pageWait = some (h, k.num) → (t.bank c b).map (·.pageWait) = some none) ∧
      t.mem = s.mem ∧ t.host = s.host ∧ sameStores s t)) ∧
  (∀ (s : State) (h : Nat) (w : Word), h < 2 → (s.hdie h).tlbinv = none → Answers (exec (.tlbinv h w) s) (fun t =>
    t = s.modHdie h (fun d => { d with tlbinv := some w }))) ∧
  (∀ (s : State) (h : Nat) (w : Word), (s.hdie h).tlbinv = some w →
    let size := [4096, 65536, 2 ^ 21, 2 ^ 30].getD (w.extractLsb' 60 2).toNat 0
    let page := (w.extractLsb' 12 30).toNat * 4096
    let here := w.extractLsb' 42 10 = s.board.devid
    Answers (exec (.tlbinvDone h) s) (fun t => (t.hdie h).tlbinv = none ∧
      (∀ e, e ∈ (t.hdie h).tlb ↔ e ∈ (s.hdie h).tlb ∧ ¬ (e.ctx = (w.extractLsb' 0 6).toNat ∧
        (w.getLsbD 62 = true ∨ (here ∧ 0 < e.size ∧ e.page < page + size ∧ page < e.page + e.size)))) ∧ t.cores = s.cores ∧
      sameMemory s t ∧ sameStores s t)) ∧
  (∀ (s : State) (h : Nat) (w : Word) (e : TlbEnt), h < 2 → w.getLsbD 63 = true → (s.hdie h).migBusy = false →
    let x := (w.extractLsb' 0 6).toNat
    let page := (w.extractLsb' 12 30).toNat * 4096
    let dst := (s.hdie h).migdst.toNat * 4096
    w.extractLsb' 42 10 = s.board.devid → regionKind page ≠ 3 → ownerOf page = h → s.walkFrom x page [39, 30, 21, 12] (ptroot (s.ctx x) h) = .leaf e → e.page = page →
    e.ctx = x → e.size = [4096, 65536, 2 ^ 21, 2 ^ 30].getD (w.extractLsb' 60 2).toNat 0 → s.migrOf x page = none →
    (s.frameOk page dst e.size = false ∨ dst = e.frame → Answers (exec (.migcmdGo h w) s) (fun t =>
      t = s.modHdie h (fun d => { d with migResult := 2 }))) ∧
    (s.frameOk page dst e.size = true → dst ≠ e.frame → s.windowRange h e.frame e.size = false →
      Answers (exec (.migcmdGo h w) s) (fun t => (t.hdie h).migBusy = true ∧ (∃ m, (t.hdie h).migr = (s.hdie h).migr ++ [m] ∧
        m.ctx = x ∧ m.page = page ∧ m.size = e.size ∧ m.src = e.frame ∧ m.dst = dst ∧ m.next = 0 ∧ m.freed = 0) ∧
        t.cores = s.cores ∧ sameMemory s t ∧ sameStores s t))) ∧
  (∀ (s : State) (h page : Nat) (m : Migr), (s.hdie h).migr.find? (fun m => m.page == page) = some m →
    4096 * (m.next + 1) < m.size → (s.hdie h).stall = [] → (∀ n, s.fwinAt n = none) → s.coherent → m.src % 4096 = 0 → m.dst % 4096 = 0 →
    let a := (m.src + 4096 * m.next) / 64
    let b := (m.dst + 4096 * m.next) / 64
    a ≠ b → Answers (exec (.migrationPieceDone h page) s) (fun t =>
      (∀ i < 64, t.lineNow (b + i) = s.lineNow (a + i) ∧ t.lineMeta (b + i) = s.lineMeta (a + i) ∧ t.lineMeta (a + i) = {}) ∧
      (t.hdie h).migr = (s.hdie h).migr.map (fun x => if x = m then { m with next := m.next + 1 } else x) ∧ sameStores s t)) ∧
  (∀ (s : State) (h : Nat) (w : Word), h < 2 →
    let code := (w.extractLsb' 60 2).toNat
    let size := [4096, 65536, 2 ^ 21, 2 ^ 30].getD code 0
    let kind := (w.extractLsb' 56 2).toNat
    let frame := (w.extractLsb' 12 40).toNat * 4096
    let last := frame + size - 1
    kind ≤ 1 → frame % size = 0 → s.populated frame = true → s.populated last = true → ownerOf frame = h →
    (kind = 0 → isHbm frame = true ∧ isHbm last = true) → (kind = 1 → isPark frame = true ∧ isPark last = true) →
    s.board.withdrawn = [] → s.board.leaving = [] → (s.hdie h).pool.length < 4096 →
    Answers (exec (.framepush h w) s) (fun t =>
      t = s.modHdie h (fun d => { d with pool := d.pool ++ [(kind, code, frame)] }))) ∧
  (∀ (s : State) (h : Nat) (w : Word), h < 2 → Answers (exec (.frtailWrite h w) s) (fun t =>
    t = s.modHdie h (fun d => { d with frtail := w.extractLsb' 0 32 }))) ∧
  (∀ (s : State) (h : Nat) (w : Word), h < 2 → let n := (w.extractLsb' 0 4).toNat
    n ≤ 8 → (s.hdie h).splitBusy = false → n ≠ (s.hdie h).nstep → Answers (exec (.cmsplitWrite h w) s) (fun t =>
      t = s.modHdie h (fun d => { d with splitBusy := true, nstepNew := n }))) ∧
  (∀ (s : State) (h : Nat), let d := s.hdie h
    let lo := 2 ^ 41 + h * 2 ^ 28 + 8 * min d.nstep d.nstepNew * 2 ^ 22
    let hi := 2 ^ 41 + h * 2 ^ 28 + 8 * max d.nstep d.nstepNew * 2 ^ 22
    d.splitBusy = true → d.stall = [] → Answers (exec (.cmsplitDone h) s) (fun t => (t.hdie h).nstep = d.nstepNew ∧ (t.hdie h).splitBusy = false ∧
      (∀ x, lo ≤ x → x < hi → Tab.get 0 t.mem x = 0 ∧ (x % 64 = 0 → t.lineMeta (x / 64) = {})) ∧
      ((∀ ln l, s.cached ln = some l → l.dirty = false) → ∀ x, (x < lo ∨ hi ≤ x) → Tab.get 0 t.mem x = Tab.get 0 s.mem x) ∧ t.cores = s.cores ∧
      sameStores s t)) ∧
  (∀ (s : State) (x n : Nat) (stall : Bool), Answers (exec (.hotnessClear x n stall) s) (fun t =>
    (if stall then Tab.get 0 (t.ctx x).stalls n = 0 ∧ (t.ctx x).bytes = (s.ctx x).bytes
      else Tab.get 0 (t.ctx x).bytes n = 0 ∧ (t.ctx x).stalls = (s.ctx x).stalls) ∧
    (∀ k, k ≠ n → Tab.get 0 (t.ctx x).stalls k = Tab.get 0 (s.ctx x).stalls k ∧
      Tab.get 0 (t.ctx x).bytes k = Tab.get 0 (s.ctx x).bytes k) ∧ t.cores = s.cores ∧ sameMemory s t ∧ sameStores s t)) ∧
  (∀ (s : State) (h n : Nat) (w : Word), h < 2 → n < 32 → let f := s.fwin h n
    let new := { f with fmt := w.extractLsb' 57 3, tgt := w.getLsbD 56, rnd := w.extractLsb' 53 3 }
    (f.en = false → s.fwinOk h n new = false → Answers (exec (.fwinEnable h n w) s) (fun t =>
      t.fwin h n = { new with err := true } ∧ sameMemory s t ∧ t.cores = s.cores)) ∧
    (f.en = false → s.fwinOk h n new = true → Answers (exec (.fwinEnable h n w) s) (fun t => ∃ book,
      t.fwin h n = { new with en := true, err := false, book := book } ∧ (new.fmt ≠ 0 → book = 0) ∧
      (∀ k, k ≠ n → t.fwin h k = s.fwin h k) ∧ t.cores = s.cores ∧ sameStores s t)) ∧
    (f.en = true → f.closing = false → Answers (exec (.fwinDisable h n) s) (fun t =>
      t.fwin h n = { f with busy := true, closing := true } ∧ (∀ k, k ≠ n → t.fwin h k = s.fwin h k) ∧ t.cores = s.cores ∧
      sameStores s t)) ∧
    (f.en = true → f.closing = false → Answers (exec (.fwinFlush h n) s) (fun t =>
      t.fwin h n = { f with busy := true } ∧ (∀ k, k ≠ n → t.fwin h k = s.fwin h k) ∧ t.cores = s.cores ∧ sameStores s t)) ∧
    (f.busy = true → (s.hdie h).stall = [] → Answers (exec (.fwinBusyDone h n) s) (fun t =>
      t.fwin h n = { f with busy := false, closing := false, en := f.en && !f.closing } ∧
      (∀ k, k ≠ n → t.fwin h k = s.fwin h k) ∧ t.cores = s.cores ∧ (f.closing = false → sameMemory s t) ∧ sameStores s t)))

/-! ## Events of tasks, cells and contexts -/

/-- Events of launch rings and shares, when due: records are consumed, overflowed shares return, shares become ready, are
chosen, begin their steps and end, attempts expire and settle, groups leave their banks, and saved groups come back. Where
it says more than the spec does, it states the model's own choice: log entries 2, 35, 61, 62, 63 and 65. -/
def Obligations.ShareEvents : Prop :=
  (∀ (s : State) (x : Nat) (w : Word), x < 64 → Answers (exec (.lrtailWrite x w) s) (fun t =>
    let c := s.ctx x
    t.ctx x = { c with lrtail := w.extractLsb' 0 32,
                       lrOpen := c.lrOpen || decide (2 ^ c.lrlog.toNat < (w.extractLsb' 0 32 - c.lrhead).toNat) } ∧
    (∀ y, y ≠ x → t.ctx y = s.ctx y) ∧ t.cores = s.cores ∧ sameMemory s t ∧ sameStores s t)) ∧
  (∀ (s : State) (x : Nat) (r bs : List Byte), let c := s.ctx x
    c.state = 1 → c.lren = true → c.lrhead ≠ c.lrtail → c.lrToken = none → c.lrOpen = false →
    s.hwBytes x ((c.lrbase.toNat * 64 + 64 * (c.lrhead.toNat % 2 ^ c.lrlog.toNat)) % 2 ^ 64) 1 = .ok r →
    let block := bytesAt r 0 8
    let argp := bytesAt r 8 8
    let due := bytesAt r 0x10 8
    (bytesAt r 0x18 40 ≠ 0 ∨ block % 256 ≠ 0 → Answers (exec (.launchRecordConsume x) s) (fun t =>
      (t.ctx x).lrhead = c.lrhead + 1 ∧ (t.ctx x).lrcause = ILLOP ∧ (t.ctx x).lrindex = c.lrhead ∧ t.tasks = s.tasks)) ∧
    (bytesAt r 0x18 40 = 0 → block % 256 = 0 → s.hwBytes x block 4 = .ok bs →
      let b0 := Block.ofBytes bs
      let b := { b0 with argp := if argp = 0 then b0.argp else BitVec.ofNat 64 argp, deadline := if due = 0 then b0.deadline else due }
      ∀ id u, s.blockValid x b = true → s.launch x b block { root := none, path := [], depth := 0 } = some (id, u) →
        Answers (exec (.launchRecordConsume x) s) (fun t => (t.ctx x).lrhead = c.lrhead + 1 ∧ t.tasks = u.tasks ∧
          t.shares = u.shares ∧ t.cores = s.cores ∧ sameMemory s t ∧ sameStores s t))) ∧
  (∀ (s : State) (cl x : Nat) (o : Ovf), s.queueRoom cl = true →
    s.shares.all (fun h => !h.heldBack) = true → s.oldestOvf (s.overflowed cl) = some (x, o) →
    Answers (exec (.overflowShareMove cl) s) (fun t => (t.cluster cl).launchQ = (s.cluster cl).launchQ ++ [o.share] ∧
      (t.ctx x).ovf = (s.ctx x).ovf.filter (fun p => p.share != o.share) ∧ t.cores = s.cores ∧ sameMemory s t ∧ sameStores s t)) ∧
  (∀ (s : State) (id : Nat) (h : Share) (k : Task), s.share id = some h → s.task h.task = some k → h.state = .waiting →
    h.token = none → s.predsReached h.ctx k.block = true → ∀ i ∈ [Instr.readinessRecheck id, .readinessPoll id],
    Answers (exec i s) (fun t => t.share id = some { h with state := .ready, readyAt := s.time } ∧ t.cores = s.cores ∧
      sameMemory s t ∧ sameStores s t)) ∧
  (∀ (s : State) (cl c : Nat) (h : Share), cl < 72 → s.enabled cl = true → s.dieGated cl = false → (s.cluster cl).switchTo = none →
    (s.cluster cl).ctx = some h.ctx → s.shares.all (fun x => x.cluster != cl || !(x.state == .running || x.state == .aborting)) = true →
    s.candidates cl = [h] → s.share h.id = some h → h.state = .ready → h.cluster = cl → c / 4 = cl → s.coreOpen c = true →
    Answers (exec (.schedulerTick cl) s) (fun t => t.share h.id = some { h with state := .running, chosen := true } ∧
      (t.cluster cl).launchQ = (s.cluster cl).launchQ.filter (· != h.id) ∧ t.cores = s.cores ∧ sameMemory s t ∧ sameStores s t)) ∧
  (∀ (s : State) (c : Nat) (h : Share) (k : Task) (b : Bool), s.firstOf ((s.runningIn (c / 4)).filter (s.mayBegin c)) = some h →
    s.share h.id = some h → s.task h.task = some k → (s.core c).emptyBank = some b →
    Answers (exec (.stepStart c) s) (fun t => (∃ g, t.bank c b = some g ∧ g.gid = s.fresh ∧ g.share = h.id ∧ g.ctx = h.ctx ∧
        g.step = h.next ∧ g.xpc = g.apc ∧ g.gstat = {} ∧ g.tvec = (s.ctx h.ctx).dtvec ∧
        (∀ d < 4, g.rdA (1 + d) = BitVec.ofInt 64 (h.origin k.block h.next d) ∧
          g.rdS (1 + d) = BitVec.ofInt 64 (h.origin k.block h.next d) ∧
          g.rdA (8 + d) = BitVec.ofInt 64 (h.stepEnd k.block h.next d)) ∧
        g.rdA 5 = k.block.argp ∧ g.rdA 6 = BitVec.ofNat 64 k.blockVa ∧ g.rdA 7 = BitVec.ofNat 64 k.id) ∧
      (∃ x, t.share h.id = some x ∧ x.next = h.next + 1 ∧ x.groups = h.groups ++ [s.fresh] ∧ x.state = .running) ∧
      sameMemory s t ∧ sameStores s t ∧ sameOthers c s t)) ∧
  (∀ (s : State) (c : Nat) (b : Bool) (g : Machine.Group), s.bank c b = some g →
    (s.bank c (!b)).all (fun h => !h.gstat.fused) = true →
    (g.ended = true → g.lateFault = none → g.dead = none → g.gstat.valid = false → g.fault = none →
      Answers (exec (.groupEnd c b) s) (fun t => t.bank c b = none ∧
        (t.share g.share).map (fun h => (h.groups, h.state)) =
          (s.share g.share).map (fun h => (h.groups.filter (· != g.gid), h.state)) ∧
        sameMemory s t ∧ sameStores s t ∧ sameOthers c s t)) ∧
    (∀ second first h, g.dead = some (second, first) → s.share g.share = some h → h.state = .running →
      Answers (exec (.groupEnd c b) s) (fun t => t.bank c b = none ∧
        (t.share g.share).map (fun x => (x.groups, x.state, x.mark, x.status, x.cause2)) =
          some (h.groups.filter (· != g.gid), .aborting, 3, some second, first) ∧
        sameMemory s t ∧ sameStores s t ∧ sameOthers c s t))) ∧
  (∀ (s : State) (id : Nat) (h : Share) (k : Task), s.share id = some h → s.task h.task = some k →
    (h.token = none → s.shareDone h k = true → h.gang = false → (s.ctx h.ctx).marked h.id = [] → s.board.log.length ≤ 4096 →
      Answers (exec (.shareComplete id) s) (fun t => t.share id = some
        { h with state := .ended, status := none, cause2 := 0, groups := [], allocs := [], token := none })) ∧
    (∀ b, h.began = some b → h.state = .running → k.block.allow ≠ 0 → b + k.block.allow < s.time →
      Answers (exec (.allowExpiry id) s) (fun t => t.share id = some
          { h with state := .aborting, mark := 0, status := none, cause2 := 0, abortAt := s.time, was := .running } ∧
        t.cores = s.cores ∧ sameMemory s t ∧ sameStores s t)) ∧
    (h.state = .aborting → h.mark = 3 → s.shareStopped id = true → Answers (exec (.abortSettle id) s) (fun t =>
      t.share id = some { h with state := .ended, groups := [], allocs := [], token := none } ∧
      (∀ c b g, t.bank c b = some g → g.share ≠ id)))) ∧
  (∀ (s : State) (c : Nat) (b : Bool) (g : Machine.Group), (s.core c).emptyBank = some b →
    (s.core c).parents.find? (fun g => s.mayReturn c g && g.adoptedTask.all (fun t => !((s.task t).map (·.live)).getD false)) = some g →
    Answers (exec (.parentRestore c) s) (fun t => t.bank c b = some (if b = (s.core c).front then
        { g with holds := [], frozenAt := none, lt := [], live := 0 } else { g with holds := [], frozenAt := none }) ∧
      (t.core c).parents = (s.core c).parents.filter (fun h => h.gid != g.gid) ∧ sameMemory s t ∧ sameStores s t ∧ sameOthers c s t))

/-- Events of deferred cells, when due: a first touch makes a SUSPENDED cell EVALUATING with its record kept, or FAILED;
the hub launches its evaluator; a waiter of a line that is EVALUATING no longer, or that has left that state since, is
woken; a waiter in a cycle is to trap. Events of contexts, when due: an enable whose areas pass makes the context LIVE, a
kill begins and ends, a halt holds the context back, a cluster changes its context, and a slot is restored. Where it says
more than the spec does, it states the model's own choice: log entries 2, 66, 67 and 69. -/
def Obligations.CellAndContextEvents : Prop :=
  (
    (∀ (s : State) (ln : Nat) (who : Toucher), s.comingTo ln = some who → s.cellOf ln = cSUSPENDED → tagged (64 * ln) = true → ln < 2 ^ 46 →
      Answers (exec (.firstTouch ln) s) (fun t => ((t.lineMeta ln).cell = cEVALUATING ∨ (t.lineMeta ln).cell = cFAILED) ∧
        ((t.lineMeta ln).cell = cEVALUATING → ∃ e, (t.lineMeta ln).eval = some e ∧ e.record = s.lineNow ln ∧
          e.va = (s.lineMeta ln).cellVa ∧ (e.root, e.path, e.depth) = who.child) ∧ t.mem = s.mem ∧ t.cores = s.cores ∧ sameStores s t)) ∧
    (∀ (s : State) (ln : Nat) (e : Eval), (s.lineMeta ln).cell = cEVALUATING → (s.lineMeta ln).eval = some e → e.task = none →
      e.token = none → let x := recCtx e.record
      ((s.ctx x).state ≠ 1 → Answers (exec (.evaluatorRetry ln) s) (fun t =>
        t.lineMeta ln = { s.lineMeta ln with cell := cFAILED, eval := none } ∧ t.cores = s.cores ∧ t.tasks = s.tasks)) ∧
      (∀ bs id u, (s.ctx x).state = 1 → (s.ctx x).gen.toNat % 2 ^ 26 = recGen e.record → recBlock e.record % 256 = 0 →
        s.hwBytes x (recBlock e.record) 4 = .ok bs → let b := Block.ofBytes bs
        s.blockValid x b = true → (e.loader = none ∨ recLocal e.record = true) →
        let args := (List.range 6).map (fun i => e.record.extractLsb' (64 * i + 64) 64)
        let w := { root := some e.root, path := e.path, depth := e.depth, cell := some ln, cellVa := e.va, args := args, lend := e.cls }
        s.launchAt x b (recBlock e.record) w (s.chooseOp b) [b.home] true State.enqueue = some (id, u) →
        Answers (exec (.evaluatorRetry ln) s) (fun t => (t.lineMeta ln).eval = some { e with task := some id } ∧ t.tasks = u.tasks ∧
          t.cores = s.cores ∧ t.mem = s.mem))) ∧
    (∀ (s : State) (cl i c : Nat) (b : Bool) (w : WaitEnt) (g : Machine.Group), cl < 72 → (s.cluster cl).wait[i]? = some w →
      w.proxy = false → s.find w.gid = some (c, b) → s.bank c b = some g →
      (w.due = true ∨ s.cellOf w.line ≠ cEVALUATING → w.acc = none → Answers (exec (.cellWake cl i) s) (fun t =>
        (t.cluster cl).wait = (s.cluster cl).wait.eraseIdx i ∧ t.bank c b = some { g with parked := none, woken := true } ∧
        sameMemory s t ∧ sameStores s t ∧ sameOthers c s t)) ∧
      (∀ id, w.due = true ∨ s.cellOf w.line ≠ cEVALUATING → w.acc = some id → w.core / 4 = cl → Answers (exec (.cellWake cl i) s) (fun t =>
        (t.cluster cl).wait = (s.cluster cl).wait.eraseIdx i ∧
        (t.cluster cl).outbound = (s.cluster cl).outbound.map (fun a =>
          if a.gid = w.gid ∧ a.parked = some w.line then { a with parked := none, calm := true } else a) ∧
        t.cores = s.cores ∧ sameMemory s t ∧ sameStores s t)) ∧
      (∀ l, w.due = false → w.acc = none → s.cellOf w.line = cEVALUATING → w.since + 10000000 ≤ s.time → s.wayBack w.line 1024 [w.line] [(w.line, [])] = some l →
        Answers (exec (.waitWatchdog cl i) s) (fun t => (t.cluster cl).wait = (s.cluster cl).wait.eraseIdx i ∧
          t.bank c b = some { g with parked := none, depCycle := some w.line, woken := true } ∧
          (t.ctx w.ctx).nlink = min (l.length + 1) 65535 ∧ (t.ctx w.ctx).dcCount = min ((s.ctx w.ctx).dcCount + 1) 65535 ∧
          sameMemory s t ∧ sameStores s t ∧ sameOthers c s t))) ∧
    (∀ (s : State) (ln : Nat), (s.board.domEn = false → exec (.wakeMessage ln) s = .next s) ∧
      (s.board.domEn = true → Answers (exec (.wakeMessage ln) s) (fun t =>
      (∀ cl, (t.cluster cl).wait = (s.cluster cl).wait.filter (fun w => !(w.proxy && w.line == 2 ^ 46 + ln))) ∧
      sameMemory s t ∧ sameStores s t)))) ∧
  (
    (∀ (s : State) (x : Nat) (w : Word), x < 64 → (s.ctx x).state = 0 → s.areasOk (s.ctx x) = true →
      Answers (exec (.ctxEnable x w) s) (fun t => let c := t.ctx x
        c.state = 1 ∧ c.err = false ∧ c.scopes = w.extractLsb' 20 4 ∧ c.pceil = w.extractLsb' 17 3 ∧ c.cmin = w.extractLsb' 14 3 ∧
        c.devr = w.getLsbD 13 ∧ c.halt = w.getLsbD 28 ∧ c.lren = false ∧ c.lrhead = 0 ∧ c.lrtail = 0 ∧ c.bytes = [] ∧ c.stalls = [] ∧
        (∀ y, y ≠ x → t.ctx y = s.ctx y) ∧ t.cores = s.cores ∧ sameMemory s t ∧ sameStores s t)) ∧
    (∀ (s : State) (x : Nat) (w : Word), x < 64 → (s.ctx x).state = 0 → s.areasOk (s.ctx x) = false →
      Answers (exec (.ctxEnable x w) s) (fun t => (t.ctx x).state = 0 ∧ (t.ctx x).err = true ∧ t.cores = s.cores)) ∧
    (∀ (s : State) (x : Nat), x < 64 → (s.ctx x).state = 1 → Answers (exec (.ctxKill x) s) (fun t =>
      t = s.modCtx x (fun c => { c with state := 2, lren := false, lrBusy := false }))) ∧
    (∀ (s : State) (x : Nat), (s.ctx x).state = 2 → s.ctxStopped x = true → Answers (exec (.ctxKillDone x) s) (fun t => let c := t.ctx x
      c.state = 0 ∧ c.gen = (s.ctx x).gen + 1 ∧ c.handles = [] ∧ c.shadows = [] ∧ c.ovf = [] ∧ c.gangs = [] ∧
      (∀ n, (Tab.get {} c.win n).en = false) ∧ (∀ c b g, t.bank c b = some g → g.ctx ≠ x) ∧
      (∀ h ∈ t.shares, h.ctx = x → h.state = .ended ∨ h.state = .droppedS ∨ h.state = .replaced))) ∧
    (∀ (s : State) (x : Nat) (on : Bool), x < 64 → Answers (exec (.ctxHalt x on) s) (fun t =>
      t.ctx x = { s.ctx x with halt := on, halted := on && s.clusters.all (fun e => e.2.ctx != some x) } ∧
      (∀ y, y ≠ x → t.ctx y = s.ctx y) ∧ t.cores = s.cores ∧ sameMemory s t ∧ sameStores s t)) ∧
    (∀ (s : State) (cl x y : Nat), (s.cluster cl).ctx = some x → (s.cluster cl).switchTo = some y → s.choosable y = true → x ≠ y →
      s.gangStopped cl x = true → Tab.get none (s.cluster cl).saved y = none →
      Answers (exec (.gangSwitch cl) s) (fun t => (t.cluster cl).ctx = some y ∧ (t.cluster cl).switchTo = none ∧
        (t.cluster cl).os = [] ∧ (Tab.get none (t.cluster cl).saved x).isSome = true ∧
        (∀ c b, c / 4 = cl → t.bank c b = none) ∧ sameMemory s t)) ∧
    (∀ (s : State) (cl n : Nat), Answers (exec (.slotRestore cl n) s) (fun t =>
      (t.cluster cl).unrestored = (s.cluster cl).unrestored.filter (fun k => k != n || (s.cluster cl).refetch.contains k) ∧
      t.cores = s.cores ∧ sameMemory s t ∧ sameStores s t)))

/-! ## Events of energy and recovery -/

/-- Events of the energy curve, when due: submissions, verdicts, the time offset, segments, parking, gating and their
lifting, ballast, rail samples, allowances, reports and windows. Where it says more than the spec does, it states the
model's own choice: log entries 2, 70, 71, 72, 73, 74, 75, 76, 78, 79 and 80. -/
def Obligations.CurveEvents : Prop :=
  (∀ s : State, s.board.stage = 0xFF → exec .ephSubmit s = .next s) ∧
  (∀ s : State, s.board.stage ≠ 0xFF → s.gov.ephgo = true → Answers (exec .ephSubmit s) (fun t => t = { s with gov := { s.gov with cause := 7 } })) ∧
  (∀ s : State, s.board.stage ≠ 0xFF → s.gov.ephgo = false → Answers (exec .ephSubmit s) (fun t => t.gov.ephgo = true ∧
    t.gov.readable = s.readImage.isSome ∧ (∀ l, s.readImage = some l → t.gov.image = l) ∧ t.gov.cause = s.gov.cause ∧
    t.gov.curve = s.gov.curve ∧ t.board = s.board ∧ t.cores = s.cores ∧ sameMemory s t ∧ sameStores s t)) ∧
  (∀ s : State, s.gov.ephgo = true → s.gov.leadDead = false → Answers (exec .ephVerdict s) (fun t =>
    t.gov.ephgo = false ∧ t.cores = s.cores ∧ sameMemory s t ∧ sameStores s t ∧
    let l := s.gov.image
    let c := Curve.ofBytes l
    let body := 64 + 32 * imageSegs l
    let slot := bytesAt l 6 1
    let fails := fun (n : Nat) => t.gov.cause = BitVec.ofNat 8 n ∧ t.gov.curve = s.gov.curve ∧ t.gov.lastIssue = s.gov.lastIssue ∧
      t.tasks = s.tasks ∧ t.shares = s.shares
    (s.gov.readable = false ∨ imageWellFormed l = false → fails 1) ∧
    (s.gov.readable = true → imageWellFormed l = true →
      (4 ≤ slot ∨ Tab.get none s.board.keys slot = none → fails 2) ∧
      (∀ key, slot < 4 → Tab.get none s.board.keys slot = some key →
        (ecdsaOk key (l.take body) ((l.drop body).take 96) = false → fails 3) ∧
        (ecdsaOk key (l.take body) ((l.drop body).take 96) = true → s.imageNames l = false → fails 4) ∧
        (ecdsaOk key (l.take body) ((l.drop body).take 96) = true → s.imageNames l = true →
          ((c.vto : Int) ≤ s.time + s.gov.utcoff.toInt → fails 5) ∧
          (s.time + s.gov.utcoff.toInt < (c.vto : Int) →
            (∀ i, s.gov.lastIssue = some i → c.issue ≤ i → fails 6) ∧
            ((∀ i, s.gov.lastIssue = some i → i < c.issue) →
              t.gov.cause = 0 ∧ t.gov.curve = some c ∧ t.gov.lastIssue = some c.issue))))))) ∧
  (∀ (s : State) (w : Word), Answers (exec (.utcoffWrite w) s) (fun t =>
    let near := ∀ t0, s.gov.utcLast = some t0 → (w.toInt - s.gov.utcoff.toInt).natAbs * 1000000000 ≤ 50000 * (s.time - t0)
    (near → t = { s with gov := { s.gov with utcoff := w, utcLast := some s.time, offref := false } }) ∧
    (¬ near → t = { s with gov := { s.gov with offref := true } }))) ∧
  (∀ s : State, s.segmentNow ≠ s.gov.segNow → Answers (exec .segmentChange s) (fun t => t.gov.segNow = s.segmentNow ∧
    t.gov.curve = s.gov.curve ∧ (t.gov.dflt = true ↔ s.segmentNow = none) ∧ t.cores = s.cores ∧ sameMemory s t ∧ sameStores s t)) ∧
  (∀ (s : State) (id : Nat) (h : Share) (k : Task), s.share id = some h → s.task h.task = some k → s.parkHeld h = true →
    h.id = id → (h.state = .switched ∨ (h.state = .running ∧ s.shareSettled id = true ∧ s.stopRoom h = true ∧
      ∀ c ∈ (s.cluster h.cluster).copies, c.share = id → c.started = false)) →
    Answers (exec (.curtailmentPark id) s) (fun t => (∃ x, t.share id = some x ∧ x.state = .parked ∧ x.parkedAt = s.fresh ∧
      x.next = h.next ∧ x.groups = h.groups) ∧ (∀ c b g, t.bank c b = some g → c / 4 = h.cluster → h.state = .running → g.share ≠ id) ∧
      t.tasks = s.tasks ∧ sameMemory s t)) ∧
  (∀ (s : State) (die : Nat), s.gov.pthr ≠ 0 → s.gov.lifting = false → (s.gov.gated = [] ∨ s.gov.gateAt + 2000000 ≤ s.time) →
    s.firstGate = some die → Answers (exec (.dieGate die) s) (fun t => t.gov.gated = s.gov.gated ++ [die] ∧ t.gov.gateAt = s.time ∧
      t.gov.bounds = s.gov.bounds.map (fun x => if x.park = true then { x with ends := x.ends + 2000000 } else x) ∧ (∀ c b, c / 36 = die → (s.cluster (c / 4)).ctx ≠ none → t.bank c b = none) ∧ sameMemory s t)) ∧
  (∀ s : State, Answers (exec .gradeLift s) (fun t =>
      let low := s.gov.threshold
      let up := fun x => if x = low then if 7 ≤ low then 0 else low + 1 else x
      let kept := t.gov.limit = s.gov.limit ∧ t.gov.pthr = s.gov.pthr ∧ t.gov.sthr = s.gov.sthr
      (s.gov.graded = false ∨ s.time < s.gov.boundTo → kept) ∧ (s.noteLift.liftDue = false → kept) ∧
      (s.noteLift.liftDue = true →
        (low = 0 → t.gov.limit = min 15 (s.gov.limit + 1) ∧ t.gov.pthr = s.gov.pthr ∧ t.gov.sthr = s.gov.sthr) ∧
        (low ≠ 0 → t.gov.limit = s.gov.limit ∧ t.gov.pthr = up s.gov.pthr ∧ t.gov.sthr = up s.gov.sthr ∧ t.gov.lifting = true)) ∧
      t.gov.gated = s.gov.gated ∧ t.cores = s.cores ∧ sameMemory s t ∧ sameStores s t)) ∧
  (∀ (s : State) (die : Nat), s.gov.lifting = true → s.gov.gateAt + 2000000 ≤ s.time → s.gov.gated.getLast? = some die →
    Answers (exec (.dieUngate die) s) (fun t => t.gov.gated ++ [die] = s.gov.gated ∧ t.gov.gateAt = s.time ∧ t.cores = s.cores ∧
      sameMemory s t ∧ sameStores s t)) ∧
  (∀ s : State, Answers (exec .ballastTaper s) (fun t =>
    let shown := max s.drawPower (s.gov.shown - 320 * (s.time - s.gov.shownAt) / 1000)
    t = { s with gov := { s.gov with shown := shown, shownAt := s.time, ballast := shown - s.drawPower } })) ∧
  (∀ s : State, s.gov.sampledAt / 10000 < s.time / 10000 → Answers (exec .railSample s) (fun t =>
    let rail := fun c => if c < 36 then Config.railPower s.free c else Tab.get 0 s.gov.reported c
    let read := fun c => if s.dieGated c then 0 else rail c
    let rest := Config.railPower s.free 72 + s.gov.reportPower
    (∀ c < 72, (t.cluster c).dvfs.power = read c) ∧ t.gov.prest = rest ∧
    t.gov.samples = ((rest + ((List.range 72).map read).sum) :: s.gov.samples).take 100 ∧
    t.gov.meas = t.gov.samples.sum / t.gov.samples.length ∧ t.gov.sampledAt = s.time ∧ t.gov.winN = s.gov.winN + 1 ∧
    t.gov.winTarget = s.gov.winTarget + s.gov.counted s.time s.targetNow ∧
    t.free = s.free + 1 ∧ t.cores = s.cores ∧ sameMemory s t ∧ sameStores s t)) ∧
  (∀ s : State, s.gov.allowAt / 100000 < s.time / 100000 → Answers (exec .allowanceRecompute s) (fun t =>
    let l := (List.range 72).filter (fun c => s.working c && !s.dieGated c)
    let drawn := fun c => (s.cluster c).dvfs.window / max 1 (s.cluster c).dvfs.samples
    let equal := s.shareable / max 1 l.length
    let spare := (l.map (fun c => equal - drawn c)).sum
    let full := l.filter (fun c => equal ≤ drawn c)
    t.gov.allowAt = s.time ∧ t.gov.given = (if l = [] then none else some (s.shareable, s.targetNow)) ∧
    (∀ c ∈ l, (t.cluster c).dvfs.drawn = drawn c ∧ (t.cluster c).dvfs.allow = equal + (if c ∈ full then spare / full.length else 0)) ∧
    (∀ c < 72, (t.cluster c).dvfs.window = 0 ∧ (t.cluster c).dvfs.samples = 0) ∧ t.cores = s.cores ∧ sameMemory s t ∧
    sameStores s t)) ∧
  (∀ s : State, s.gov.reportAt / 10000 < s.time / 10000 → Answers (exec .perigeeReport s) (fun t =>
    t.gov.reportAt = s.time ∧ t.gov.reportPower = Config.railPower s.free 73 ∧
    (∀ c, 36 ≤ c → c < 72 → Tab.get 0 t.gov.reported c = Config.railPower s.free c) ∧ t.free = s.free + 1 ∧ t.cores = s.cores ∧ sameMemory s t ∧ sameStores s t)) ∧
  (∀ s : State, s.gov.leadDead = false → Answers (exec .leadTimeout s) (fun t => t.gov.leadDead = true ∧ t.gov.segNow = none ∧
    t.gov.dflt = true ∧ t.cores = s.cores ∧ sameMemory s t ∧ sameStores s t)) ∧
  (∀ s : State, s.gov.windowAt / 50000000 < s.time / 50000000 → Answers (exec .trackingWindowEnd s) (fun t =>
    let n := max 1 s.gov.winN
    let want := s.gov.winTarget / n
    let drew := s.gov.winPower / n
    let past := min (drew - (want + max (want / 100) 192)) (s.gov.ballastSum / n)
    (∀ x, s.gov.seg = some x → (t.gov.floormiss = true ↔ x.floor ≠ 0 ∧ drew + x.band < x.floor)) ∧
    (s.gov.seg = none → t.gov.floormiss = false) ∧ t.gov.reduce = past ∧ t.gov.excused = min 65535 (past * 50 / 16) ∧
    t.gov.windowAt = s.time ∧ t.gov.ballastSum = 0 ∧ t.gov.winTarget = 0 ∧ t.gov.winPower = 0 ∧ t.gov.winN = 0 ∧ t.cores = s.cores ∧ sameMemory s t ∧
    sameStores s t))

/-- Events of voltage and frequency, when due: stall samples move a cluster's target, a step switches the frequency after
a rising voltage and before a falling one, droop alarms stretch the clock; and LLC banks are gated and re-enabled. Where
it says more than the spec does, it states the model's own choice: log entries 2, 76 and 77. -/
def Obligations.LevelEvents : Prop :=
  (∀ (s : State) (cl : Nat), cl < 72 → let d := (s.cluster cl).dvfs
    d.sampledAt / 10000 < s.time / 10000 → d.cycles ≠ 0 → Answers (exec (.stallSample cl) s) (fun t =>
      let e := (t.cluster cl).dvfs
      let r := 255 * d.stalled / d.cycles
      e.sratio = r ∧ e.stalled = 0 ∧ e.cycles = 0 ∧ e.sampledAt = s.time ∧ e.level = d.level ∧
      (128 ≤ r → d.target = 0 → e.target = 0 ∧ e.deny = min 65535 (d.deny + 1)) ∧
      (128 ≤ r → d.target ≠ 0 → e.target = min (d.target - 1) s.gov.limit ∧ e.deny = d.deny) ∧
      (r < 32 → (∃ q, d.requested = some q ∧ d.target < q) → e.target = min (d.target + 1) s.gov.limit) ∧
      (32 ≤ r → r < 128 → e.target = min d.target s.gov.limit) ∧
      (∀ k, k ≠ cl → t.cluster k = s.cluster k) ∧ t.cores = s.cores ∧ sameMemory s t ∧ sameStores s t)) ∧
  (∀ (s : State) (cl : Nat), cl < 72 → let d := (s.cluster cl).dvfs
    d.stepSt = 2 → Answers (exec (.frequencySwitchDone cl) s) (fun t => let e := (t.cluster cl).dvfs
      let came := (s.cluster cl).fifo
      (d.rising = true → e.level = d.level ∧ e.steps = min 65535 (d.steps + 1) ∧ e.fifoMax = d.fifoPeak ∧ e.fifoPeak = 0) ∧
      (d.rising = false → e.level = d.level - 1 ∧ e.stepSt = 3 ∧ e.steps = d.steps) ∧ e.target = d.target ∧
      (t.cluster cl).fifo = [] ∧ t.agenda.length = came.length + s.agenda.length ∧ t.agenda.drop came.length = s.agenda ∧
      (∀ i n, InItem.event i n ∈ came → Turn.event i ∈ t.agenda) ∧
      (∀ k, k ≠ cl → t.cluster k = s.cluster k) ∧ t.cores = s.cores ∧ sameMemory s t ∧ sameStores s t)) ∧
  (∀ (s : State) (cl : Nat), cl < 72 → let d := (s.cluster cl).dvfs
    (d.stepSt = 1 ∨ d.stepSt = 3) → Answers (exec (.voltageRampDone cl) s) (fun t => let e := (t.cluster cl).dvfs
      (d.stepSt = 1 → e.stepSt = 2 ∧ e.level = d.level + 1 ∧ e.steps = d.steps) ∧
      (d.stepSt = 3 → e.level = d.level ∧ e.steps = min 65535 (d.steps + 1) ∧ e.fifoMax = d.fifoPeak ∧ (d.level = d.target → e.stepSt = 0)) ∧
      e.target = d.target ∧ (∀ k, k ≠ cl → t.cluster k = s.cluster k) ∧ t.cores = s.cores ∧
      sameMemory s t ∧ sameStores s t)) ∧
  (∀ (s : State) (cl : Nat), cl < 72 → Answers (exec (.droopAlarm cl) s) (fun t =>
    t.cluster cl = { s.cluster cl with stretch := 6, gaps := 64, alarms := min 65535 ((s.cluster cl).alarms + 1) } ∧
    Tab.get 0 t.board.life (lifeKey lifeCluster cl cDroop) = Tab.get 0 s.board.life (lifeKey lifeCluster cl cDroop) + 1 ∧
    (∀ k, k ≠ cl → t.cluster k = s.cluster k) ∧ t.cores = s.cores ∧ sameMemory s t ∧ sameStores s t)) ∧
  (∀ (s : State) (h bank : Nat), h < 2 → (s.hdie h).bankAt / 1000000 < s.time / 1000000 → Answers (exec (.llcBankGate h bank) s) (fun t =>
    let d := s.hdie h
    let ms := d.llcStat.filter (fun x => s.time / 1000000 * 10 ≤ x.tenth + 10 ∧ x.tenth < s.time / 1000000 * 10)
    let hits := (ms.map (fun x => (x.hits.map (·.2)).sum)).sum
    let own := (ms.map (fun x => Tab.get 0 x.hits bank)).sum
    let cold := bank ∈ d.poweredBanks ∧ 256 * own < hits ∧ s.board.minb < d.poweredBanks.length
    (cold → (t.hdie h).gatedBanks = d.gatedBanks ++ [bank]) ∧ (¬ cold → (t.hdie h).gatedBanks = d.gatedBanks) ∧
    (t.hdie h).llcStat = d.llcStat ∧ (t.hdie h).bankAt = s.time ∧ t.cores = s.cores ∧ sameStores s t)) ∧
  (∀ (s : State) (h bank : Nat), h < 2 → bank ∈ (s.hdie h).gatedBanks → (s.hdie h).enableAt / 100000 < s.time / 100000 →
    let ms := (s.hdie h).llcStat.filter (fun x => s.time / 100000 ≤ x.tenth + 10 ∧ x.tenth < s.time / 100000)
    s.board.rate * (ms.map (·.accesses)).sum < 65536 * (ms.map (·.misses)).sum → Answers (exec (.llcBankReenable h bank) s) (fun t =>
      t = s.modHdie h (fun d => { d with gatedBanks := d.gatedBanks.filter (· != bank), enableAt := s.time })))

/-- Events of recovery, when due: corrected errors are counted and change no value, uncorrectable ones poison, refetch,
rewind or rerun, cores empty for their eclipse and take their state back, a failed scan fences its cluster, and the
records are read. Where it says more than the spec does, it states the model's own choice: log entries 2, 68, 81, 82, 83,
84, 86 and 87. -/
def Obligations.RecoveryEvents : Prop :=
  (∀ (s : State) (cl n core : Nat) (b : Bool), let bump := fun (i : Instr) (k : Nat) => Answers (exec i s) (fun t =>
      Tab.get 0 t.board.life k = Tab.get 0 s.board.life k + 1 ∧ t.cores = s.cores ∧ t.clusters = s.clusters ∧ sameMemory s t)
    bump (.eccCorrected (.slot cl n core b)) (lifeKey lifeOs cl cCorrected) ∧
    bump (.eccCorrected (.core core b)) (lifeKey lifeCore core cCorrected) ∧
    bump (.eccCorrected (.entry core b)) (lifeKey lifeCore core cCorrected) ∧
    exec (.eccCorrected (.llc n)) s = .next s ∧ exec (.eccCorrected (.image n)) s = .next s ∧ exec (.eccCorrected (.word cl n)) s = .next s) ∧
  (∀ (s : State) (ln : Nat), let b := Config.eccBank ln
    let e := Tab.get {} s.board.ecc b
    let w := 2 ^ s.board.wsh * 1000000
    let n := if s.time / w = e.since / w then e.count + 1 else 1
    e.strong = false → Answers (exec (.eccCorrected (.line ln)) s) (fun t => let f := Tab.get {} t.board.ecc b
      f.count = n ∧ (f.strong = true ↔ s.board.eccCount ≤ n) ∧ (f.strong = true → f.strongAt = some s.time) ∧
      (n < s.board.eccCount → t.cores = s.cores ∧ sameMemory s t ∧ sameStores s t))) ∧
  (∀ (s : State) (b : Nat), let e := Tab.get {} s.board.ecc b
    let now := fun (x : EccBank) => { s with board := { s.board with ecc := Tab.modify {} s.board.ecc b (fun _ => x) } }
    (e.strong = false → exec (.strongReencodeLine b) s = .next s) ∧
    (e.strong = true → e.coding = none →
      exec (.strongReencodeLine b) s = .next (now { e with coding := some (Config.bankLine b e.recoded) })) ∧
    (∀ ln, e.strong = true → e.coding = some ln → s.board.leaving = [] → (s.hdie (ownerOf (64 * ln))).stall = [] →
      Answers (exec (.strongReencodeLine b) s) (fun t => Tab.get {} t.board.ecc b = { e with coding := none, recoded := e.recoded + 1 } ∧
        t.cores = s.cores ∧ sameMemory s t ∧ sameStores s t))) ∧
  (∀ s : State, s.board.leaving = [] → Answers (exec .scrubLine s) (fun t =>
    t = { s with board := { s.board with scrubLine := (s.board.scrubLine + 1) % 2 ^ 36, scrubAt := s.time } })) ∧
  (∀ (s : State) (cl n core : Nat) (b : Bool), Answers (exec (.eccUncorrectable (.slot cl n core b)) s) (fun t =>
    let clean := (Tab.get none (s.cluster cl).clean n).isSome && !(s.cluster cl).refetch.contains n
    (clean = true → n ∈ (t.cluster cl).refetch ∧ t.tag cl n = s.tag cl n) ∧
    (clean = false → t.tag cl n = { s.tag cl n with poison := true } ∧ t.cores = s.cores) ∧ sameMemory s t ∧ sameStores s t)) ∧
  (∀ (s : State) (core : Nat) (b : Bool) (g : Machine.Group), s.bank core b = some g → g.gstat.fused = false →
    g.entering = false → g.segNext = false → Answers (exec (.eccUncorrectable (.core core b)) s) (fun t => ∃ h, t.bank core b = some h ∧ h.apc = g.seg.addr ∧
      h.xpc = g.seg.addr ∧ h.k = g.seg.k ∧ h.rctr = g.seg.rctr ∧ h.flight = [] ∧ h.s = g.s ∧ h.v = g.v ∧ h.a = g.a ∧ h.g = g.g ∧
      sameMemory s t ∧ sameStores s t ∧ sameOthers core s t)) ∧
  (∀ (s : State) (i : Instr) (id : Nat) (h : Share), s.share id = some h → h.state = .running →
    (i = .eccUncorrectable (.image id) ∨
      ∃ core b g, s.bank core b = some g ∧ g.share = id ∧ i = .eccUncorrectable (.entry core b)) → Answers (exec i s) (fun t =>
      (h.escaped = false → h.reruns < 2 →
        t.share id = some { h with state := .aborting, mark := 1, status := none, cause2 := 0, abortAt := s.time }) ∧
      (h.escaped = true ∨ 2 ≤ h.reruns →
        t.share id = some { h with state := .aborting, mark := 3, status := some POISON, cause2 := 0, abortAt := s.time }) ∧
      t.cores = s.cores ∧ sameMemory s t ∧ sameStores s t)) ∧
  (∀ (s : State) (ln : Nat), Answers (exec (.eccUncorrectable (.line ln)) s) (fun t =>
    t.lineMeta ln = { s.lineMeta ln with poison := true } ∧ (∀ k, k ≠ ln → t.lineMeta k = s.lineMeta k) ∧ t.mem = s.mem ∧
    t.cores = s.cores ∧ sameStores s t)) ∧
  (∀ (s : State) (ln : Nat) (l : LLine), s.cached ln = some l → Answers (exec (.eccUncorrectable (.llc ln)) s) (fun t =>
    (l.dirty = true → (t.lineMeta ln).poison = true ∧ t.cached ln = some l) ∧
    (l.dirty = false → t.cached ln = none ∧ t.lineMeta ln = s.lineMeta ln) ∧
    (l.dirty = true ∨ (∀ k ∈ s.block ln, ∀ x, s.cached k = some x → x.dirty = false) → t.mem = s.mem) ∧ t.cores = s.cores ∧ sameStores s t)) ∧
  (∀ (s : State) (cl w n : Nat), Answers (exec (.eccUncorrectable (.word cl w)) s) (fun t =>
    let r := Tab.get {} (s.cluster cl).routines n
    (r.state = 1 ∧ r.start ≤ w ∧ w < r.start + r.len → Tab.get {} (t.cluster cl).routines n = { r with state := 2 }) ∧
    (¬ (r.state = 1 ∧ r.start ≤ w ∧ w < r.start + r.len) → Tab.get {} (t.cluster cl).routines n = r) ∧ sameMemory s t ∧ sameStores s t)) ∧
  (∀ (s : State) (cl n ia sw : Nat) (bs : List Byte), n ∈ (s.cluster cl).refetch →
    Tab.get none (s.cluster cl).clean n = some (ia, sw) → s.cleanSource cl ia = some bs → bs.length = 4096 →
    Answers (exec (.cleanRefetchDone cl n) s) (fun t => n ∉ (t.cluster cl).refetch ∧ n ∉ (t.cluster cl).unrestored ∧
      (∀ i < 4096, some (Tab.get 0 (t.cluster cl).os (4096 * n + swz sw i)) = bs[i]?) ∧
      (t.cluster cl).events = (s.cluster cl).events ∧ t.cores = s.cores ∧ sameMemory s t)) ∧
  (∀ (s : State) (c : Nat), s.rotates c = true → s.nearSlot c = true → (s.core c).eclipse = .idle →
    Answers (exec (.eclipseDealStop c) s) (fun t => t = s.modCore c (fun k => { k with eclipse := .dealStop }))) ∧
  (∀ (s : State) (c : Nat), s.rotates c = true → (s.core c).eclipse.scans = false → s.scanDue c = true →
    (s.fusedHere c = true → Answers (exec (.eclipseSlotStart c) s) (fun t =>
      t = s.modCore c (fun k => { k with eclWait := k.eclWait.or (some s.time) }))) ∧
    (s.fusedHere c = false → (s.core c).eclSaved = none →
      (s.modCore c (fun k => { k with eclipse := .scanning s.time })).mayEmpty (s.emptySet c) = true →
      Answers (exec (.eclipseSlotStart c) s) (fun t => (t.core c).eclipse = .scanning s.time ∧ (t.core c).bank0 = none ∧
        (t.core c).bank1 = none ∧ (∃ x y, (t.core c).eclSaved = some (x, y) ∧ x.isSome = (s.core c).bank0.isSome) ∧
        sameMemory s t ∧ sameStores s t))) ∧
  (∀ (s : State) (c t0 : Nat), (s.core c).eclWait = some t0 → t0 + 50000000 ≤ s.time → s.rotates c = true →
    Answers (exec (.fusedEclipseTimeout c) s) (fun t => (t.core c).eclipse = .scanning s.time ∧ sameMemory s t ∧ sameStores s t ∧
      let u := s.modCore c (fun k => { k with eclipse := .scanning s.time })
      ((s.core c).eclSaved = none → u.mayEmpty (u.emptySet c) = true → ∀ k ∈ u.emptySet c, (s.core k).eclSaved = none →
        (t.core k).bank0 = none ∧ (t.core k).bank1 = none ∧ (t.core k).eclSaved.isSome = true))) ∧
  (∀ (s : State) (c began : Nat) (x y : Option Machine.Group) (m : Matrix), (s.core c).eclipse = .scanning began →
    (s.core c).eclSaved = some (x, y, m) → Answers (exec (.scanPass c) s) (fun t => let k := t.core c
      k.epoch = began ∧ k.eclipse = .idle ∧ k.eclDue = false ∧ k.eclWait = none ∧
      ((∀ g, x = some g → g.gstat.fused = false) → (∀ g, y = some g → g.gstat.fused = false) →
        let put := fun (b : Bool) (g : Machine.Group) =>
          if (s.core c).front = b then { g with lt := [], live := 0, frozenAt := none } else { g with frozenAt := none }
        k.bank0 = x.map (put false) ∧ k.bank1 = y.map (put true) ∧
        k.mat = m ∧ k.eclSaved = none) ∧
      (∀ p, p ∈ t.board.log ↔ p ∈ s.board.log ∧ (p.suspect = true ∨ ∃ j ∈ p.cores, (t.core j).epoch ≤ p.time)) ∧
      sameMemory s t ∧ sameStores s t)) ∧
  (∀ (s : State) (c : Nat), (s.core c).eclipse.scans = true → (s.core c).eclSaved.isSome = true →
    Answers (exec (.scanFail c) s) (fun t => (t.cluster (c / 4)).fenced = true ∧
      (∀ i < 72, t.board.present.getLsbD i = (s.board.present.getLsbD i && decide (i ≠ c / 4))) ∧
      t.board.log = s.board.log.map (fun p => if c ∈ p.cores then { p with suspect := true } else p) ∧
      (∀ k b, k / 4 = c / 4 → t.bank k b = none) ∧ sameMemory s t)) ∧
  (∀ (s : State) (w : Word), let set := { s with board := { s.board with confBase := w.extractLsb' 16 40, confCtx := w.extractLsb' 0 6 } }
    Answers (exec (.confqQuery w) s) (fun t => t = set) ∧
    Answers (exec (.confqClear w) s) (fun t => { t with board := { t.board with log := s.board.log } } = set ∧
      ∀ p, p ∈ t.board.log ↔ p ∈ s.board.log ∧ ¬ (p.suspect = true ∧ p.ctx = (w.extractLsb' 0 6).toNat ∧
        p.base / 65536 = (w.extractLsb' 16 40).toNat))) ∧
  (∀ (s : State) (w : Word), w.getLsbD 63 = true → s.board.lifeAddr = none → Answers (exec (.lifecmdGo w) s) (fun t =>
    t = { s with board := { s.board with lifeAddr := some ((w.extractLsb' 12 40).toNat * 4096) } })) ∧
  (∀ s : State, s.gov.leadDead = true → exec .lifeSnapshotDone s = .next s) ∧
  (∀ (s : State) (a : Nat), s.board.lifeAddr = some a → s.gov.leadDead = false → Answers (exec .lifeSnapshotDone s) (fun t =>
    t.board.lifeAddr = none ∧ leNat (memBytes t.host a 8) = 0x4546494C ∧ leNat (memBytes t.host (a + 8) 8) = s.board.serial.toNat ∧
    leNat (memBytes t.host (a + 16) 8) = s.time % 2 ^ 64 ∧ leNat (memBytes t.host (a + 24) 8) = min 32758 t.board.life.length ∧
    (∀ x < a, Tab.get 0 t.host x = Tab.get 0 s.host x) ∧ t.mem = s.mem ∧ t.cores = s.cores ∧ sameStores s t))

/-- Events of ports, host and management path: flits in turn move a port on and others are asked for again, ports lose and
regain lanes, registers read and take what is written, resets and boot stages, measurements, keys and updates. Where it
says more than the spec does, it states the model's own choice: log entries 2, 8, 9, 10, 11, 36, 37, 88, 89, 90 and 93. -/
def Obligations.WorldEvents : Prop :=
  (∀ (s : State) (a n : Nat), s.hostMay a n = true → Answers (exec (.hostMemAccess a (.read n)) s) (fun t =>
    (s.plainLine a = true → t.board.outbox = .hostData (s.bytesNow a n) :: s.board.outbox) ∧
    (s.plainLine a = false → ∃ k, t.board.outbox = .hostData ((List.range n).map (Config.freeByte k)) :: s.board.outbox) ∧
    t.cores = s.cores ∧ sameStores s t)) ∧
  (∀ (s : State) (a : Nat) (bs : List Byte), s.hostMay a bs.length = true → s.cell (a / 64) ≠ cVALUE →
    (s.lineMeta (a / 64)).poison = false → exec (.hostMemAccess a (.write bs)) s = .next s) ∧
  (∀ (s : State) (a : Nat) (bs : List Byte), s.hostMay a bs.length = true → (∀ n, s.fwinAt n = none) →
    s.coherent → (s.cell (a / 64) = cVALUE ∨ (s.lineMeta (a / 64)).poison = true) → Answers (exec (.hostMemAccess a (.write bs)) s) (fun t =>
      (∀ x, t.byteNow x = if a ≤ x then (bs[x - a]?).getD (s.byteNow x) else s.byteNow x) ∧ (t.lineMeta (a / 64)).stamp = none ∧
      (bs.length = 64 → (t.lineMeta (a / 64)).poison = false) ∧ t.cores = s.cores ∧ sameStores s t)) ∧
  (∀ (s : State) (a n : Nat) (bs : List Byte), s.hostMay a n = false → s.hostMay a bs.length = false →
    exec (.hostMemAccess a (.read n)) s = .next s ∧ exec (.hostMemAccess a (.write bs)) s = .next s) ∧
  (∀ (s : State) (a n : Nat) (bs : List Byte), let out := fun (m : Msg) => { s with board := { s.board with outbox := m :: s.board.outbox } }
    (s.board.stage = 0xFF → a ≠ 0x74000 → exec (.bar0Access a (.read n)) s = .next s ∧ exec (.bar0Access a (.write bs)) s = .next s) ∧
    (s.board.stage ≠ 0xFF → (n ≠ 8 ∨ a % 8 ≠ 0 → exec (.bar0Access a (.read n)) s = .next (out .bar0Ur)) ∧
      (bs.length ≠ 8 ∨ a % 8 ≠ 0 → exec (.bar0Access a (.write bs)) s = .next (out .bar0Ur)) ∧
      (bs.length = 8 → a % 8 = 0 → exec (.bar0Access a (.write bs)) s = exec (.registerWrite a (BitVec.ofNat 64 (leNat bs))) s) ∧
      (a % 8 = 0 → a < 0x200000 → exec (.bar0Access a (.read 8)) s =
        .next (out (.bar0Data (s.regRead true none (a / 0x100000) (a % 0x100000))))) ∧
      (a % 8 = 0 → 0x200000 ≤ a → a < 0x1000000 → exec (.bar0Access a (.read 8)) s = .next (out (.bar0Data 0))))) ∧
  (∀ (s : State) (c m : Nat) (b : Bool), s.board.stage ≠ 0xFF → c < 288 → m < 256 →
    let a := 0x1000000 + 0x10000 * c + (if b then 0x8000 else 0) + 8 * m
    Answers (exec (.bar0Access a (.read 8)) s) (fun t =>
      t.board.outbox = .bar0Data (match s.bank c b with
        | some g => s.csrValue c g m
        | none => if m = 0x40 then s.eccThresh else if m = 0x41 then s.missHi else 0) :: s.board.outbox) ∧
    (∀ w : Word, m = 0x40 → exec (.registerWrite a w) s = .next { s with board := { s.board with
      retire := (w.extractLsb' 32 8).toNat, wsh := (w.extractLsb' 16 5).toNat, eccCount := (w.extractLsb' 0 16).toNat } }) ∧
    (∀ w : Word, m = 0x41 → exec (.registerWrite a w) s = .next { s with board := { s.board with
      minb := (w.extractLsb' 16 8).toNat, rate := (w.extractLsb' 0 16).toNat } }) ∧
    (∀ w : Word, m ≠ 0x40 → m ≠ 0x41 → s.bank c b = none → exec (.registerWrite a w) s = .next s) ∧
    (∀ (w : Word) (g : Machine.Group), m = 4 → s.bank c b = some g → Answers (exec (.registerWrite a w) s) (fun t =>
      t.bank c b = some { g with tvec := w &&& 0xFFFFFFFFFFFFFFC0 } ∧ t.bank c (!b) = s.bank c (!b) ∧ sameMemory s t ∧ sameStores s t ∧
      sameOthers c s t))) ∧
  (∀ (s : State) (a : Nat) (w : Word), s.board.stage ≠ 0xFF → a % 8 ≠ 0 →
    exec (.registerWrite a w) s = .next { s with board := { s.board with outbox := .bar0Ur :: s.board.outbox } }) ∧
  (∀ (s : State) (w : Word), s.board.stage ≠ 0xFF →
    Answers (exec (.registerWrite 0x50000 w) s) (fun t => t = { s with gov := { s.gov with ephaddr := w.extractLsb' 6 46 } }) ∧
    exec (.registerWrite 0x50010 w) s = exec (.utcoffWrite w) s ∧ exec (.registerWrite 0x72000 w) s = exec (.lifecmdGo w) s ∧
    exec (.registerWrite 0x75000 w) s = exec (.regselWrite w) s ∧
    (∀ x < 64, exec (.registerWrite (0x30008 + 0x40 * x) w) s = exec (.lrtailWrite x w) s) ∧
    (∀ d < 1024, (w.extractLsb' 0 5).toNat ≤ 17 → (w.extractLsb' 8 5).toNat ≤ 17 → Answers (exec (.registerWrite (0x81000 + 8 * d) w) s) (fun t =>
      Tab.get {} t.board.routes d = { v := w.getLsbD 63, av := w.getLsbD 62, alt := w.extractLsb' 8 5, pri := w.extractLsb' 0 5 } ∧
      ∀ e, e ≠ d → Tab.get {} t.board.routes e = Tab.get {} s.board.routes e))) ∧
  (∀ (s : State) (w : Word), s.board.stage = 0xFF → exec (.regselWrite w) s = .next s) ∧
  (∀ (s : State) (w : Word), s.board.stage ≠ 0xFF → Answers (exec (.regselWrite w) s) (fun t =>
    t = { s with board := { s.board with regsel := w &&& 0xFFFF00#64 |>.setWidth 24 } })) ∧
  (∀ (s : State) (p : Nat) (f : Flit), s.board.stage = 0xFF → exec (.flitReceive p f) s = .next s) ∧
  (∀ (s : State) (p : Nat) (f : Flit), s.board.stage ≠ 0xFF → p < 18 → (s.port p).state = 2 → Answers (exec (.flitReceive p f) s) (fun t =>
    (f.good = false → t.board.outbox = .flitNak p (s.port p).rxSeq :: s.board.outbox ∧ t.port p = { s.port p with errAt := s.time } ∧
      t.cores = s.cores ∧ sameMemory s t ∧ sameStores s t) ∧
    (f.good = true → f.seq ≠ (s.port p).rxSeq → t = s) ∧
    (f.good = true → f.seq = (s.port p).rxSeq → (f.req = none ∨ s.board.domEn = false) →
      t.port p = { s.port p with rxSeq := f.seq + 1 } ∧ t.board.outbox = s.board.outbox ∧
      (f.nak = none → t.board.wire = s.board.wire) ∧ (∀ n, f.nak = some n → t.board.wire =
        (((s.port p).replay.filter (fun q => n ≤ q.1)).map (fun q => (p, q))).reverse ++ s.board.wire) ∧
      t.cores = s.cores ∧ sameMemory s t ∧ sameStores s t))) ∧
  (∀ (s : State) (p : Nat), p < 18 → let q := s.port p
    let lost := fun (i : Instr) => Answers (exec i s) (fun t => (t.port p).state = 0 ∧ (t.port p).lanes = 0 ∧ (t.port p).errAt = s.time)
    (q.state ≠ 0 → lost (.portDown p)) ∧
    (q.state = 2 → q.lanes.toNat ≤ 1 → lost (.laneShed p)) ∧
    (q.state = 2 → 2 ≤ q.lanes.toNat → Answers (exec (.laneShed p) s) (fun t =>
      t.port p = { q with lanes := q.lanes - 1, shed := min 65535 (q.shed + 1), errAt := s.time } ∧ t.cores = s.cores ∧
      sameMemory s t ∧ sameStores s t)) ∧
    (q.state = 2 → q.lanes.toNat < 3 → q.errAt + 1000000000 ≤ s.time → Answers (exec (.laneRegain p) s) (fun t =>
      t.port p = { q with lanes := q.lanes + 1, errAt := s.time } ∧ t.cores = s.cores ∧ sameMemory s t ∧ sameStores s t)) ∧
    (q.state = 0 → p < s.board.links → Answers (exec (.portUp p) s) (fun t => t.port p = { q with state := 1 } ∧ t.cores = s.cores ∧
      sameMemory s t ∧ sameStores s t)) ∧
    (q.state = 1 → p < s.board.links → Answers (exec (.portUp p) s) (fun t => t.port p =
        { q with state := 2, lanes := 3, peer := Config.peer p, trained := true,
                 retrain := if q.trained then min 65535 (q.retrain + 1) else q.retrain } ∧
      t.cores = s.cores ∧ sameMemory s t ∧ sameStores s t))) ∧
  (∀ s : State, Answers (exec .reset s) (fun t => t.cores = State.reset.cores ∧ t.clusters = State.reset.clusters ∧
    t.ctxs = State.reset.ctxs ∧ t.hdies = State.reset.hdies ∧ t.gov = State.reset.gov ∧ t.shares = [] ∧ t.tasks = [] ∧ t.mem = [] ∧
    t.time = 0 ∧ t.host = s.host ∧ t.board.stage = 0 ∧ t.board.log = [] ∧ t.board.present = s.board.present ∧ t.board.keys = s.board.keys ∧
    t.board.serial = s.board.serial)) ∧
  (∀ s : State, s.board.stage.toNat < 5 → Answers (exec .bootStageDone s) (fun t =>
    let out := Config.bootOutcome s.free
    let stage := s.board.stage.toNat
    let fw := Config.firmware s.free
    let signed := beBytes 48 (sha384 (keyBytes fw.key)) = Config.vendorDigest ∧ ecdsaOk fw.key fw.body fw.sig = true
    let failed := fun (c : Nat) => t.board.stage = 0xFF ∧ t.board.bootCause = BitVec.ofNat 8 c
    let done := t.board.stage.toNat = stage + 1 ∧ t.board.bootCause = s.board.bootCause
    (stage = 0 → (¬ signed → failed 1) ∧ (signed → fw.version.toNat < Config.rollback → failed 2) ∧
      (signed → Config.rollback ≤ fw.version.toNat → done ∧ t.board.fwver = fw.version ∧ t.gov.live = true)) ∧
    (stage = 1 → (out = 0 → done) ∧ (out ≠ 0 → failed 3)) ∧ (stage = 3 → done) ∧
    (stage = 2 → done ∧ t.mem = [] ∧ (∀ x, (t.ctx x).state = 0) ∧ ∀ p < s.board.links, (t.port p).state = 1) ∧
    (stage = 4 → (out ≠ 0 → failed 4) ∧
      (out = 0 → done ∧ t.gov.gated = [] ∧ ∀ c < 288, s.enabled (c / 4) = true → (t.core c).epoch = s.time)))) ∧
  (∀ (s : State) (data : List Byte), s.gov.leadDead = true → exec (.keyExchange data) s = .next s ∧
    exec .getMeasurements s = .next s ∧ exec (.vendorKeyUpdate data) s = .next s) ∧
  (∀ (s : State) (data : List Byte), s.gov.leadDead = false → Answers (exec (.keyExchange data) s) (fun t =>
    t.board.ide = some (Config.sessionKeys data) ∧ t.board.outbox = .spdm 0x64 (Config.exchange data) :: s.board.outbox ∧
    t.cores = s.cores ∧ sameMemory s t ∧ sameStores s t)) ∧
  (∀ s : State, s.gov.leadDead = false → Answers (exec .getMeasurements s) (fun t => ∃ data, t = { s with board := { s.board with outbox := .spdm 0x60 data :: s.board.outbox } } ∧
    data = ((List.range 5).map (fun i => s.measurement (i + 1))).flatten)) ∧
  (∀ (s : State) (data : List Byte), s.gov.leadDead = false → Answers (exec (.vendorKeyUpdate data) s) (fun t =>
    ((∀ u, Config.vendorRequest data = some u → u.serial ≠ s.board.serial ∨ ecdsaOk Config.skezeit u.signed u.sig = false) → t = s) ∧
    (∀ u, Config.vendorRequest data = some u → u.serial = s.board.serial → ecdsaOk Config.skezeit u.signed u.sig = true → (u.slots.map (·.1)).Nodup →
      (∀ k v, k < 4 → (k, v) ∈ u.slots → Tab.get none t.board.keys k = v) ∧
      (∀ k, (4 ≤ k ∨ ∀ v, (k, v) ∉ u.slots) → Tab.get none t.board.keys k = Tab.get none s.board.keys k) ∧
      (u.fleets = none → t.board.fleets = s.board.fleets) ∧ (∀ l, u.fleets = some l → t.board.fleets = l.take 4)) ∧
    t.cores = s.cores ∧ sameMemory s t ∧ sameStores s t))

/-- Events of gangs, when due: a member answers ARM, GO, GANGBREAK and a commit, and lets go after a timeout; the
initiator counts the answers, sends GO, and ends the gang; a GCOMMIT is answered 0 when all have acknowledged and 3 after
200 µs. Where it says more than the spec does, it states the model's own choice: log entries 2, 91 and 92. -/
def Obligations.GangEvents : Prop :=
  let quiet := fun (s t : State) => t.cores = s.cores ∧ sameMemory s t ∧ sameStores s t
  let mine := fun (dev gang : Nat) (a : Armed) => a.gang = gang ∧ a.dev = dev
  let released := fun (dev gang : Nat) (s t : State) => ∀ x a, a ∈ (t.ctx x).armed ↔ a ∈ (s.ctx x).armed ∧ ¬ mine dev gang a
  let reply := fun (u t : State) (dev : Nat) (m : Msg) => (dev = u.board.devid.toNat ∨ u.routed dev = true) →
    t.board.outbox = m :: u.board.outbox
  (∀ (s u : State) (dev gang x : Nat) (bs : List Byte), s.takeMsg dev (.arm dev gang x bs) = some u → Answers (exec (.arm dev gang x bs) s) (fun t =>
    (u.mayArm dev gang x bs = true → (t.ctx x).armed = (s.ctx x).armed ++
        [{ gang := gang, dev := dev, block := bs, start := none, since := s.time, cls := u.gangClusters (Block.ofBytes bs) }] ∧
      reply u t dev (.armOk dev gang)) ∧
    (u.mayArm dev gang x bs = false → t.ctxs = s.ctxs ∧ reply u t dev (.armRefuse dev gang)) ∧ quiet s t)) ∧
  (∀ (s u : State) (dev gang : Nat), s.takeMsg dev (.disarm dev gang) = some u → Answers (exec (.disarm dev gang) s) (fun t =>
    released dev gang s t ∧ quiet s t)) ∧
  (∀ (s : State) (dev gang x : Nat) (a : Armed), s.findArmed dev gang = some (x, a) →
    (a.start = none → a.since + 1000000 ≤ s.time → Answers (exec (.goWaitTimeout dev gang) s) (fun t => released dev gang s t ∧ quiet s t)) ∧
    (∀ u start, s.takeMsg dev (.go dev gang start) = some u → a.start = none → a.since + 1000000 < s.time →
      Answers (exec (.go dev gang start) s) (fun t => released dev gang s t ∧ quiet s t ∧ t.board = u.board)) ∧
    (∀ u start, s.takeMsg dev (.go dev gang start) = some u → (a.start ≠ none ∨ s.time ≤ a.since + 1000000) →
      Answers (exec (.go dev gang start) s) (fun t =>
      (∀ y, (t.ctx y).armed = (s.ctx y).armed.map (fun a =>
        if a.gang = gang ∧ a.dev = dev then { a with start := some (a.start.getD start) } else a)) ∧
      reply u t dev (.goAck dev gang) ∧ quiet s t)) ∧
    (∀ start id u, a.start = some start → start ≤ s.time → (s.disarm dev gang).gangLaunch dev gang x a.block = some (id, u) →
      Answers (exec (.gangStart dev gang) s) (fun t => t = u ∧ released dev gang s t ∧ quiet s t))) ∧
  (∀ (s u : State) (dev gang id : Nat) (h : Share), s.takeMsg dev (.gangbreak dev gang) = some u → (s.shares.map (·.id)).Nodup →
    s.share id = some h → (∃ k ∈ s.tasks, k.gang = some (dev, gang) ∧ k.id = h.task) → Answers (exec (.gangbreak dev gang) s) (fun t =>
      (h.state = .running → t.share id = some
        { h with state := .aborting, mark := 2, status := some GANGBREAK, cause2 := 0, abortAt := s.time }) ∧
      (h.state = .waiting ∨ h.state = .ready → ∃ x, t.share id = some x ∧ x.state = .ended ∧ x.status = some GANGBREAK) ∧
      (∀ y ∈ (t.ctx h.ctx).shadows, y.share ≠ id) ∧ released dev gang s t ∧ sameMemory s t ∧ sameStores s t)) ∧
  (∀ (s u : State) (dev gang : Nat) (drop : Bool), (dev, gang, drop) ∉ s.board.commits → s.takeMsg dev (.commit dev gang drop) = some u →
    u.gangMarked dev gang = [] → Answers (exec (.gangCommitMessage dev gang drop) s) (fun t =>
      t.board.commits = s.board.commits ∧ reply u t dev (.commitAck dev gang) ∧ t.ctxs = s.ctxs ∧ quiet s t)) ∧
  (∀ (s : State) (dev gang : Nat) (drop : Bool) (k : Task) (y : Shadow) (l : List (Task × Shadow)),
    (dev, gang, drop) ∈ s.board.commits → s.gangMarked dev gang = (k, y) :: l →
    (drop = true → Answers (exec (.gangCommitMessage dev gang drop) s) (fun t =>
      let v := ((k, y) :: l).foldl (fun s e => s.dropShadow e.1.ctx e.2) s
      t.ctxs = v.ctxs ∧ t.mem = v.mem ∧ t.cores = v.cores ∧ reply v t dev (.commitAck dev gang))) ∧
    (drop = false → s.logFull = false → s.bufferMoving k.ctx y.base y.len = false → s.bufferFault k.ctx y.base y.len = none →
      Answers (exec (.gangCommitMessage dev gang drop) s) (fun t =>
        let v := s.publish k.ctx k.id y { cl := none, dev := some s.board.devid.toNat, sc := 3 }
        (l ≠ [] → t = v) ∧
        (l = [] → t.ctxs = v.ctxs ∧ t.mem = v.mem ∧ t.cores = v.cores ∧ reply v t dev (.commitAck dev gang))))) ∧
  (∀ (s : State) (dev gang : Nat) (r : GangRec), s.findGang gang = some r → r.status = none → r.verdict = none → dev ∈ r.members →
    let ends := fun (t : State) (v : Nat) => ∃ x, t.findGang gang = some x ∧ (x.status = some v ∨ x.verdict = some v) ∧ x.pending = false
    let now := fun (t : State) (x : GangRec) => t.findGang gang = some x ∧ quiet s t
    (∀ u, s.takeMsg dev (.armOk dev gang) = some u → r.goSent = false → dev ∉ r.armOk → r.sentAt + 200000 < s.time →
      Answers (exec (.armOk dev gang) s) (fun t => ends t GANG_INCOMPLETE.toNat)) ∧
    (∀ u, s.takeMsg dev (.armOk dev gang) = some u → r.goSent = false → dev ∉ r.armOk → s.time ≤ r.sentAt + 200000 → Answers (exec (.armOk dev gang) s) (fun t =>
      ((∀ m ∈ r.members, m ∈ dev :: r.armOk) → let start := s.time + r.lead
        now t { r with armOk := r.armOk ++ [dev], phase := 1, goSent := true, sentAt := s.time, start := start }) ∧
      (¬ (∀ m ∈ r.members, m ∈ dev :: r.armOk) → now t { r with armOk := r.armOk ++ [dev] }))) ∧
    (∀ u, s.takeMsg dev (.armRefuse dev gang) = some u → r.goSent = false → Answers (exec (.armRefuse dev gang) s) (fun t =>
      ends t GANG_INCOMPLETE.toNat)) ∧
    (r.goSent = false → r.sentAt + 200000 ≤ s.time → Answers (exec (.armTimeout gang) s) (fun t => ends t GANG_INCOMPLETE.toNat)) ∧
    (∀ u, s.takeMsg dev (.goAck dev gang) = some u → r.goSent = true → dev ∉ r.goAck → Answers (exec (.goAck dev gang) s) (fun t =>
      (r.sentAt + 200000 < s.time → ends t GANG_INCOMPLETE.toNat) ∧
      (s.time ≤ r.sentAt + 200000 → now t { r with goAck := r.goAck ++ [dev] }))) ∧
    (r.goSent = true → dev ∉ r.goAck → r.sentAt + 200000 ≤ s.time → Answers (exec (.goTimeout gang) s) (fun t =>
      ends t GANG_INCOMPLETE.toNat)) ∧
    (∀ u st at', s.takeMsg dev (.done dev gang st at') = some u → r.goSent = true → (∀ d ∈ r.done, d.1 ≠ dev) →
      ((∀ m ∈ r.members, m ∈ r.goAck) ∨ s.time ≤ r.sentAt + 200000) →
      Answers (exec (.gangDone dev gang { status := st, time := at' }) s) (fun t => let done := r.done ++ [(dev, st.toNat, at')]
        ((∃ m ∈ r.members, ∀ d ∈ done, d.1 ≠ m) → now t { r with done := done }) ∧
        ((∀ m ∈ r.members, ∃ d ∈ done, d.1 = m) → (∀ d ∈ done, d.2.1 = 0) → ends t 0) ∧
        ((∀ m ∈ r.members, ∃ d ∈ done, d.1 = m) → ∀ d ∈ done, d.2.1 ≠ 0 →
          (∀ e ∈ done, e.2.1 ≠ 0 → e = d ∨ d.2.2 < e.2.2) → ends t d.2.1)))) ∧
  (∀ (s : State) (dev gang t0 : Nat) (r : GangRec), s.findGang gang = some r → r.commitAt = some t0 →
    let answered := fun (t : State) (v : Word) => ∀ c b g rd, s.bank c b = some g → g.holds = [.gcommit gang rd] →
      t.bank c b = some { g.wrA rd v with holds := [] }
    (∀ u, s.takeMsg dev (.commitAck dev gang) = some u → dev ∈ r.members → Answers (exec (.gcommitAck dev gang) s) (fun t =>
      ((∀ m ∈ r.members, m ∈ dev :: r.commitAck) → answered t 0 ∧ (∀ q ∈ (t.ctx r.ctx).gangs, q.id ≠ gang)) ∧
      (dev ∉ r.commitAck → ¬ (∀ m ∈ r.members, m ∈ dev :: r.commitAck) →
        t.findGang gang = some { r with commitAck := r.commitAck ++ [dev] } ∧ quiet s t) ∧ sameMemory s t ∧ sameStores s t)) ∧
    (t0 + 200000 ≤ s.time → Answers (exec (.gcommitAckTimeout gang) s) (fun t =>
      answered t 3 ∧ t.findGang gang = some { r with commitAt := none } ∧ sameMemory s t ∧ sameStores s t)))

/-! ## An invariant -/

/-- From any state whose memories are in their canonical form, a step leads to another such state. Where it says more than
the spec does, it states the model's own choice: log entry 6. -/
def Obligations.StepKeepsMemory : Prop := ∀ s t : State, s.memWf → step s = .next t → t.memWf
end

