-- ==== Sys2Proof/Laws/Memory.lean ====
section
/-!
SUPPORT. Memory: what a byte reads after a write, and that the operations on memory, on the lines in front of it and on
operand store keep the canonical form.
-/
namespace Sys2Proof.Machine

/-! ## One memory -/

theorem memPut_nil (m : List Host.Cell) (a : Nat) : memPut m a [] = m := rfl

/-- Writing bytes keeps the canonical form. -/
theorem memPut_wf (bs : List (Option Byte)) : ∀ (m : List Host.Cell) (a : Nat), Memory.wf m = true →
    Memory.wf (memPut m a bs) = true := by
  induction bs with
  | nil => exact fun _ _ h => h
  | cons b bs ih =>
    intro m a h
    cases b with
    | none => exact ih m (a + 1) h
    | some b => exact ih _ (a + 1) (Tab.wf_set 0 a b h)

/-- Every address below the written bytes reads as before. -/
theorem memPut_below (bs : List (Option Byte)) : ∀ (m : List Host.Cell) (a x : Nat), x < a →
    Tab.get 0 (memPut m a bs) x = Tab.get 0 m x := by
  induction bs with
  | nil => exact fun _ _ _ _ => rfl
  | cons b bs ih =>
    intro m a x h
    cases b with
    | none => exact ih m (a + 1) x (by omega)
    | some b => exact (ih _ (a + 1) x (by omega)).trans (Tab.get_set_other 0 m b (by omega))

/-- What the byte `i` past the start of a write reads: the byte written, or what stood there. -/
theorem memPut_at (bs : List (Option Byte)) : ∀ (m : List Host.Cell) (a i : Nat),
    Tab.get 0 (memPut m a bs) (a + i) = ((bs[i]?).bind id).getD (Tab.get 0 m (a + i)) := by
  induction bs with
  | nil => exact fun _ _ _ => rfl
  | cons b bs ih =>
    intro m a i
    cases i with
    | zero =>
      cases b with
      | none => simpa [memPut] using memPut_below bs m (a + 1) a (by omega)
      | some b => simpa [memPut] using (memPut_below bs (Tab.set 0 m a b) (a + 1) a (by omega)).trans (Tab.get_set_same 0 m a b)
    | succ i =>
      have e : a + (i + 1) = a + 1 + i := by omega
      cases b with
      | none => simpa [e, memPut] using ih m (a + 1) i
      | some b =>
        have o := ih (Tab.set 0 m a b) (a + 1) i
        rw [Tab.get_set_other 0 m b (by omega)] at o
        simpa [e, memPut] using o

/-! ## The memories of the device -/

/-- The memories at reset have their canonical form. -/
theorem reset_memWf : State.reset.memWf := ⟨rfl, rfl, rfl⟩

/-- An operation that leaves the three memories alone keeps their form. -/
theorem memWf_of_eq {s t : State} (h : s.memWf) (m : t.mem = s.mem) (o : t.host = s.host) (f : t.far = s.far) : t.memWf := by
  unfold State.memWf
  rw [m, o, f]
  exact h

/-- So does one that puts a canonical memory in the place of device memory. -/
theorem memWf_setMem {s : State} (h : s.memWf) {m : List Host.Cell} (w : Memory.wf m = true) : State.memWf { s with mem := m } :=
  ⟨w, h.2.1, h.2.2⟩

theorem memWf_memPut {s : State} (h : s.memWf) (a : Nat) (bs : List (Option Byte)) :
    State.memWf { s with mem := memPut s.mem a bs } := memWf_setMem h (memPut_wf bs _ _ h.1)

theorem memWf_hostPut {s : State} (h : s.memWf) (a : Nat) (bs : List (Option Byte)) :
    State.memWf { s with host := memPut s.host a bs } := ⟨h.1, memPut_wf bs _ _ h.2.1, h.2.2⟩

theorem memWf_farPut {s : State} (h : s.memWf) (a : Nat) (bs : List (Option Byte)) :
    State.memWf { s with far := memPut s.far a bs } := ⟨h.1, h.2.1, memPut_wf bs _ _ h.2.2⟩

/-- A property that every operation of a list keeps, the whole list keeps. -/
theorem foldl_keeps {α β : Type} {p : β → Prop} (f : β → α → β) (step : ∀ b a, p b → p (f b a)) (l : List α) :
    ∀ b, p b → p (l.foldl f b) := by
  induction l with
  | nil => exact fun _ h => h
  | cons a l ih => exact fun b h => ih _ (step b a h)

/-! ## Lines -/

theorem memWf_modMeta {s : State} (h : s.memWf) (ln : Nat) (f : LineMeta → LineMeta) : (s.modMeta ln f).memWf := h

theorem memWf_setCached {s : State} (h : s.memWf) (ln : Nat) (x : Option LLine) : (s.setCached ln x).memWf := h

theorem memWf_rawPut (bs : List Byte) : ∀ (s : State) (a : Nat), s.memWf → (s.rawPut a bs).memWf := by
  induction bs with
  | nil => exact fun _ _ h => h
  | cons b bs ih =>
    intro s a h
    have w : State.memWf { s with mem := Tab.set 0 s.mem a b } := memWf_setMem h (Tab.wf_set 0 a b h.1)
    unfold State.rawPut
    dsimp only
    split
    · exact ih _ _ (memWf_setCached w _ _)
    · exact ih _ _ w

theorem memWf_fwinWriteBack {s : State} (h : s.memWf) (w : Fwin) (ln : Nat) : (s.fwinWriteBack w ln).memWf := by
  unfold State.fwinWriteBack
  dsimp only
  split <;> split <;> (apply memWf_rawPut; first | exact h | exact memWf_rawPut _ _ _ h)

theorem memWf_writeBack {s : State} (h : s.memWf) (ln : Nat) : (s.writeBack ln).memWf := by
  unfold State.writeBack
  split
  · exact h
  · split
    · exact h
    · split
      · exact memWf_setCached (memWf_memPut h _ _) _ _
      · refine foldl_keeps (p := State.memWf) _ (fun t k w => ?_) _ _ (memWf_fwinWriteBack h _ _)
        split
        · exact memWf_setCached w _ _
        · exact w

theorem memWf_evictLine {s : State} (h : s.memWf) (ln : Nat) : (s.evictLine ln).memWf :=
  foldl_keeps (p := State.memWf) _ (fun _ _ w => memWf_setCached w _ _) _ _
    (foldl_keeps (p := State.memWf) _ (fun _ _ w => memWf_writeBack w _) _ _ h)

theorem memWf_dropLine {s : State} (h : s.memWf) (ln : Nat) : (s.dropLine ln).memWf :=
  foldl_keeps (p := State.memWf) _ (fun _ _ w => memWf_setCached w _ _) _ _ h

theorem memWf_memWrite {s : State} (h : s.memWf) (a : Nat) (bs : List (Option Byte)) : (s.memWrite a bs).memWf := by
  unfold State.memWrite
  split
  · exact memWf_farPut h _ _
  · exact memWf_memPut h _ _

theorem memWf_evictVictim {s : State} (h : s.memWf) (k : Nat) : (s.evictVictim k).memWf := by
  unfold State.evictVictim
  split
  · exact foldl_keeps (p := State.memWf) _ (fun _ _ w => memWf_evictLine w _) _ _ h
  · exact memWf_evictLine h k

theorem memWf_fitSet (ls : List Nat) (ln fuel : Nat) : ∀ s : State, s.memWf → (s.fitSet ls ln fuel).memWf := by
  induction fuel with
  | zero => exact fun _ h => h
  | succ n ih =>
    intro s h
    unfold State.fitSet
    dsimp only
    split
    · exact h
    · split
      · exact ih _ (memWf_evictVictim h _)
      · exact h

theorem memWf_fillLine {s : State} (h : s.memWf) (ln : Nat) (rc : Option Nat) : (s.fillLine ln rc).memWf := by
  unfold State.fillLine
  split
  · exact h
  · exact foldl_keeps (p := State.memWf) _ (fun _ _ w => memWf_setCached w _ _) _ _
      (foldl_keeps (p := State.memWf) _ (fun _ _ w => memWf_fitSet _ _ _ _ w) _ _ h)

theorem memWf_spillLine {s : State} (h : s.memWf) (ln : Nat) : (s.spillLine ln).memWf := by
  unfold State.spillLine
  split
  · exact memWf_evictLine h ln
  · exact h

theorem memWf_noteLine {s : State} (h : s.memWf) (ln : Nat) : (s.noteLine ln).memWf := by
  unfold State.noteLine
  split <;> exact h

theorem memWf_usedLine {s : State} (h : s.memWf) (ln : Nat) : (s.usedLine ln).memWf := by
  unfold State.usedLine
  split <;> exact h

theorem memWf_touchLine {s : State} (h : s.memWf) (ln : Nat) (rc : Option Nat) : (s.touchLine ln rc).memWf :=
  memWf_usedLine (memWf_fillLine (memWf_noteLine h ln) ln rc) ln

theorem memWf_readLine {s : State} (h : s.memWf) (ln : Nat) (rc : Option Nat) (last : Bool) :
    (s.readLine ln rc last).memWf := by
  have w := memWf_touchLine h ln rc
  unfold State.readLine
  split
  · exact h
  · apply memWf_spillLine
    split
    · split
      · split
        · exact w
        · split
          · exact memWf_evictLine w ln
          · exact w
      · exact w
    · exact w

/-! ## Reading and writing -/

theorem memWf_devRead {s : State} (h : s.memWf) (a n : Nat) (rc : Option Nat) (last : Bool) :
    (s.devRead a n rc last).2.memWf :=
  foldl_keeps (p := State.memWf) _ (fun _ _ w => memWf_readLine w _ _ _) _ _ h

theorem memWf_putLine {s : State} (h : s.memWf) (a : Nat) (bs : List (Option Byte)) (fill : Fill) :
    (s.putLine a bs fill).memWf := by
  have w := memWf_touchLine h (a / 64) none
  unfold State.putLine
  dsimp only
  split
  · exact memWf_memWrite h _ _
  · split
    · exact memWf_memWrite (memWf_noteLine h _) _ _
    · apply memWf_spillLine
      split
      · exact memWf_setCached w _ _
      · exact w

theorem memWf_devPut (fuel : Nat) : ∀ (s : State) (a : Nat) (bs : List (Option Byte)) (fill : Fill), s.memWf →
    (State.devPut fuel s a bs fill).memWf := by
  induction fuel with
  | zero => exact fun _ _ _ _ h => h
  | succ n ih =>
    intro s a bs fill h
    unfold State.devPut
    split
    · exact h
    · exact ih _ _ _ _ (memWf_putLine h _ _ _)

theorem memWf_devWrite {s : State} (h : s.memWf) (a : Nat) (bs : List (Option Byte)) (fill : Fill) :
    (s.devWrite a bs fill).memWf := memWf_devPut _ _ _ _ _ h

theorem memWf_uncount {s : State} (h : s.memWf) (ln : Nat) : (s.uncount ln).memWf := by
  unfold State.uncount
  split <;> exact h

theorem memWf_clearStamps {s : State} (h : s.memWf) (a n : Nat) : (s.clearStamps a n).memWf :=
  foldl_keeps (p := State.memWf) _ (fun _ _ w => memWf_modMeta w _ _) _ _ h

theorem memWf_newPage {s : State} (h : s.memWf) (p : Nat) (data : List Byte) (st : Stamp) : (s.newPage p data st).memWf :=
  foldl_keeps (p := State.memWf) _ (fun t i w => by
      have v : State.memWf (if t.cellOf (p / 64 + i) != cVALUE then t.wakeLine (p / 64 + i) else t) := by
        split <;> exact w
      exact memWf_modMeta (memWf_dropLine v _) _ _) _ _
    (memWf_setMem h (memPut_wf _ _ _ (Tab.wf_dropIf 0 _ h.1)))

/-! ## Operand store -/

/-- Operand store keeps its canonical form under a write. -/
theorem osPut_wf (s : State) (cl a : Nat) (bs : List (Option Byte)) (h : Memory.wf (s.cluster cl).os = true) :
    Memory.wf ((s.osPut cl a bs).cluster cl).os = true := by
  simpa [State.osPut, State.cluster, State.modCluster] using memPut_wf bs _ a h

end Sys2Proof.Machine
end

