-- ==== Sys2Proof/Laws/Ops.lean ====
section
/-!
SUPPORT. One lemma per shared operation: what a syllable's meaning is where it acts, is guarded off or is ill-formed; what
reading a source, making a result, the traffic of a guarded-off syllable and a trap can change.
-/
namespace Sys2Proof.Machine

/-! ## What only the acting core can see -/

/-- From `s` to `t` nothing but the acting core has changed. -/
def ActsHere (s t : State) : Prop := sameDevice s t ∧ sameOthers s.here.core s t ∧ t.here = s.here

theorem sameDevice_refl (s : State) : sameDevice s s := rfl

theorem sameDevice_trans {s t u : State} (h : sameDevice s t) (k : sameDevice t u) : sameDevice s u :=
  Eq.trans (congrArg (fun x : State => { x with cores := s.cores, here := s.here }) (show _ = t from k)) (show _ = s from h)

theorem ActsHere.refl (s : State) : ActsHere s s := ⟨rfl, fun _ _ => rfl, rfl⟩

theorem ActsHere.trans {s t u : State} (h : ActsHere s t) (k : ActsHere t u) : ActsHere s u := by
  refine ⟨sameDevice_trans h.1 k.1, fun d n => ?_, k.2.2.trans h.2.2⟩
  rw [k.2.1 d (by rw [h.2.2]; exact n), h.2.1 d n]

theorem ActsHere.upd (f : Group → Group) (s : State) : ActsHere s (s.upd f) :=
  ⟨rfl, fun _ n => State.core_upd_other f s n, rfl⟩

/-- A device that has not changed has its memories as they were. -/
theorem sameDevice.memory {s t : State} (h : sameDevice s t) : sameMemory s t := by
  unfold sameDevice at h
  rw [← h]
  exact ⟨rfl, rfl, rfl, rfl, rfl⟩

/-- ... and its operand stores. -/
theorem sameDevice.stores {s t : State} (h : sameDevice s t) : sameStores s t := by
  unfold sameDevice at h
  rw [← h]
  exact fun _ => rfl

/-! ## The shape of a meaning (R61, R62, R78) -/

theorem syllable_bad {i : Instr} (h : i.wf = false) (y : Syl) (act : State → State) (s : State) :
    syllable i y act s = .next (raise ILLOP s) := by
  simp [syllable, h]

theorem syllable_openX {i : Instr} {y : Syl} {n : Nat} {s : State} (h : OpenX i y n s) (act : State → State) :
    syllable i y act s = .next (act s) := by
  simp [syllable, h.1, h.2.1, h.2.2.1, h.2.2.2]

theorem syllable_openA {i : Instr} {y : Syl} {n : Nat} {s : State} (h : OpenA i y n s) (act : State → State) :
    syllable i y act s = .next (act s) := by
  have n4 : ¬ n < 4 := Nat.not_lt.2 h.2.2.1
  simp [syllable, h.1, h.2.1, n4, h.2.2.2]

theorem syllable_off {i : Instr} {y : Syl} {s : State} (h : i.wf = true) (act : State → State)
    (g : (if s.here.slot < 4 then s.me.guardX y.guard 0 else s.me.guardA y.guard 0) = false) :
    syllable i y act s = .next (traffic i s) := by
  simp [syllable, h, g]

theorem perElement_bad {i : Instr} (h : i.wf = false) (act : State → State) (s : State) :
    perElement i act s = .next (raise ILLOP s) := by
  simp [perElement, h]

theorem perElement_ok {i : Instr} (h : i.wf = true) (act : State → State) (s : State) :
    perElement i act s = .next (act s) := by
  simp [perElement, h]

theorem transfer_bad {i : Instr} (h : i.wf = false) (y : Syl) (act : State → State) (s : State) :
    transfer i y act s = .next (raise ILLOP s) := by
  simp [transfer, h]

theorem transfer_open {i : Instr} {y : Syl} {s : State} (h : i.wf = true) (g : s.me.guardX y.guard 0 = true)
    (act : State → State) : transfer i y act s = .next (act s) := by
  simp [transfer, h, g]

theorem transfer_off {i : Instr} {y : Syl} {s : State} (h : i.wf = true) (g : s.me.guardX y.guard 0 = false)
    (act : State → State) : transfer i y act s = .next (pass (traffic i s)) := by
  simp [transfer, h, g]

theorem privileged_user {s : State} (h : s.me.gstat.mode = false) (act : State → State) :
    privileged act s = raise PRIV s := by
  simp [privileged, State.userMode, h]

theorem privileged_super {s : State} (h : s.me.gstat.mode = true) (act : State → State) : privileged act s = act s := by
  simp [privileged, State.userMode, h]

/-! ## Sources (R63) -/

/-- Reading a source leaves the state alone, but for a pop, which takes its entry. -/
theorem readSel_state (file : Group → Nat → Word) (o : Option Src) (s : State) :
    (readSel file o s).2 = s ∨ ∃ q, o = some (.pop q) ∧ (readSel file o s).2 = s.upd (fun _ => (s.me.pop q).2) := by
  unfold readSel
  split <;> first | exact Or.inl rfl | exact Or.inr ⟨_, rfl, rfl⟩

theorem readSel_acts (file : Group → Nat → Word) (o : Option Src) (s : State) : ActsHere s (readSel file o s).2 := by
  obtain h | ⟨q, -, h⟩ := readSel_state file o s <;> rw [h]
  · exact ActsHere.refl s
  · exact ActsHere.upd _ s

theorem readX_acts (sel : BitVec 8) (s : State) : ActsHere s (readX sel s).2 := readSel_acts _ _ s

theorem readA_acts (sel : BitVec 8) (s : State) : ActsHere s (readA sel s).2 := readSel_acts _ _ s

theorem readX2_acts (a b : BitVec 8) (s : State) : ActsHere s (readX2 a b s).2.2 := (readX_acts a s).trans (readX_acts b _)

theorem readA2_acts (a b : BitVec 8) (s : State) : ActsHere s (readA2 a b s).2.2 := (readA_acts a s).trans (readA_acts b _)

theorem readV_acts (sel : BitVec 8) (s : State) : ActsHere s (readV sel s).2 := by
  unfold readV
  dsimp only
  split <;> first | exact ActsHere.refl s | exact ActsHere.upd _ s

theorem readEntry_acts (sel : BitVec 8) (s : State) : ActsHere s (readEntry sel s).2 := by
  unfold readEntry
  dsimp only
  split <;> first | exact ActsHere.refl s | exact ActsHere.upd _ s

/-! ## Results (R31, R65, R66, R91) -/

/-- A result for the latch alone goes into flight. -/
theorem finish_nwb (lat : Nat) (dst : BitVec 8) (val en : VReg) (s : State) (h : 0x80 ≤ dst.toNat) :
    finish lat dst val en s = s.upd (·.launch { left := lat, slot := s.here.slot, dst := .latch, val := val, en := en, nwb := true }) := by
  simp [finish, h]

/-- A result for a register goes into flight: v from slots 1 and 2, s from the others. -/
theorem finish_reg (lat : Nat) (dst : BitVec 8) (val en : VReg) (s : State) (h : dst.toNat < 0x40) :
    finish lat dst val en s = let d : Land := if s.here.slot = 1 ∨ s.here.slot = 2 then .vreg dst.toNat else .sreg dst.toNat
      s.upd (·.launch { left := lat, slot := s.here.slot, dst := d, val := val, en := en }) := by
  have a : ¬ 0x80 ≤ dst.toNat := by omega
  have b : ¬ (0x40 ≤ dst.toNat ∧ dst.toNat ≤ 0x43) := by omega
  have c : dst.toNat % 64 = dst.toNat := Nat.mod_eq_of_lt h
  unfold finish
  simp only [dstPush, a, b, c, if_false]
  split <;> rfl

/-- A pushed result reserves its entry at once and goes into flight. -/
theorem finish_push (lat : Nat) (dst : BitVec 8) (val en : VReg) (s : State) (h : 0x40 ≤ dst.toNat) (k : dst.toNat ≤ 0x43) :
    finish lat dst val en s = s.upd (fun g => (g.reserve (dst.toNat - 0x40 + 4)).2.launch
      { left := lat, slot := s.here.slot, dst := .queue (dst.toNat - 0x40 + 4) (g.reserve (dst.toNat - 0x40 + 4)).1, val := val, en := en }) := by
  have a : ¬ 0x80 ≤ dst.toNat := by omega
  unfold finish
  simp only [dstPush, a, h, k, if_false, and_self, if_true]
  rfl

theorem finish_acts (lat : Nat) (dst : BitVec 8) (val en : VReg) (s : State) : ActsHere s (finish lat dst val en s) :=
  ActsHere.upd _ s

theorem finishS_acts (lat : Nat) (dst : BitVec 8) (w : Word) (s : State) : ActsHere s (finishS lat dst w s) :=
  ActsHere.upd _ s

theorem finishM_acts (lat n : Nat) (val en : VReg) (s : State) : ActsHere s (finishM lat n val en s) := ActsHere.upd _ s

theorem finishA_acts (dst : BitVec 8) (w : Word) (s : State) : ActsHere s (finishA dst w s) := ActsHere.upd _ s

theorem finishG_acts (n : Nat) (on : Bool) (s : State) : ActsHere s (finishG n on s) := ActsHere.upd _ s

/-- An access-slot result for an a register waits for the end of the bundle. -/
theorem finishA_reg (dst : BitVec 8) (w : Word) (s : State) (h : dst.toNat < 0x40) :
    finishA dst w s = s.upd (·.later 0 dst.toNat w) := by
  have b : ¬ (0x40 ≤ dst.toNat ∧ dst.toNat ≤ 0x43) := by omega
  unfold finishA
  simp only [dstPush, b, if_false]

/-- An access-slot result for a queue is pushed at once. -/
theorem finishA_push (dst : BitVec 8) (w : Word) (s : State) (h : 0x40 ≤ dst.toNat) (k : dst.toNat ≤ 0x43) :
    finishA dst w s = s.upd (·.push (dst.toNat - 0x40) (zx w)) := by
  unfold finishA
  simp only [dstPush, h, k, and_self, if_true]

/-! ## Guarded off (R61) -/

theorem foldl_acts {α : Type} (f : State → α → State) (h : ∀ s a, ActsHere s (f s a)) (l : List α) :
    ∀ s, ActsHere s (l.foldl f s) := by
  induction l with
  | nil => exact ActsHere.refl
  | cons a l ih => exact fun s => (h s a).trans (ih _)

theorem traffic_acts (i : Instr) (s : State) : ActsHere s (traffic i s) := by
  refine (foldl_acts _ (fun s x => ?_) _ s).trans (foldl_acts _ (fun s q => ActsHere.upd _ s) _ _)
  split
  · exact ActsHere.upd _ s
  · exact ActsHere.refl s

/-! ## Traps (R35) -/

/-- A trap takes the group out of the wait table (R323) and changes nothing else of the device but its core. -/
theorem takeTrap_device {s u : State} (k : sameDevice s u) (c : Nat) :
    sameDevice s (u.takeTrap c) ∨ ∃ n, sameDevice (s.leaveWait c n) (u.takeTrap c) := by
  unfold State.takeTrap
  split
  · exact .inl k
  · next g _ =>
    split
    · exact .inl k
    · split
      · exact .inl k
      · refine .inr ⟨g.gid, ?_⟩
        exact congrArg (fun x : State => x.leaveWait c g.gid) k

/-- What a raised trap changes of the device. -/
theorem raiseAt_device (cause : BitVec 8) (slot : Nat) (s : State) :
    sameDevice s (raiseAt cause slot s) ∨ ∃ n, sameDevice (s.leaveWait s.here.core n) (raiseAt cause slot s) := by
  unfold raiseAt
  dsimp only
  split
  · exact .inl rfl
  · split
    · exact .inl rfl
    · split
      · exact takeTrap_device (by rfl) _
      · exact .inl rfl

theorem raise_device (cause : BitVec 8) (s : State) :
    sameDevice s (raise cause s) ∨ ∃ n, sameDevice (s.leaveWait s.here.core n) (raise cause s) := raiseAt_device _ _ s

/-- A bundle that cannot issue changes nothing but the record of the syllable under way. -/
theorem stallWith_device (t : Stall) (s : State) : sameDevice s (stallWith t s) ∧ (stallWith t s).cores = s.cores := ⟨rfl, rfl⟩

end Sys2Proof.Machine
end

