-- ==== Sys2Proof/Tests/Slice0.lean ====
section
/-!
SUPPORT. Tests: words decode to their instructions, ill-formed terms are refused, the hypotheses of each statement are met
by a concrete state, and single instructions give the values of the spec's own examples.
-/
open Sys2Proof Sys2Proof.Machine

namespace Sys2Proof.Tests

set_option Elab.async false

/-! ## Small states -/

/-- A device whose core 0 holds the group `g` in front and runs no turn. -/
def base (g : Machine.Group) : State :=
  let s := { State.reset with gov := { State.reset.gov with gated := [] }, board := { State.reset.board with stage := 5 } }
  s.modCore 0 (fun k => { k with bank0 := some g, front := false })

/-- The same with the syllable of slot `n` under way, alone in its bundle. -/
def inSlot (n : Nat) (g : Machine.Group) : State :=
  { base g with here := { core := 0, access := decide (4 ≤ n), slot := n, size := 8, sole := true } }

/-- A group in S mode. -/
def superGroup : Machine.Group := { gstat := { mode := true } }

/-- A group in a trap handler. -/
def handlerGroup : Machine.Group := { gstat := { mode := true, valid := true } }

/-- No H-die holds a window or a line. -/
def bare (s : State) : Bool := s.hdies.all (fun d => d.2.fwin.isEmpty && d.2.llc.isEmpty)

/-- There memory is what every cache holds. -/
theorem coherent_of_bare (s : State) (h : bare s = true) :
    (∀ n, s.fwinAt n = none) ∧ s.coherent ∧ ∀ ln, s.cached ln = none := by
  have get : ∀ l : List (Nat × HDie), l.all (fun d => d.2.fwin.isEmpty && d.2.llc.isEmpty) = true →
      ∀ i, (Tab.get {} l i).fwin = [] ∧ (Tab.get {} l i).llc = [] := by
    intro l
    induction l with
    | nil => exact fun _ _ => ⟨rfl, rfl⟩
    | cons d l ih =>
      intro m i
      obtain ⟨n, d⟩ := d
      simp only [List.all_cons, Bool.and_eq_true, List.isEmpty_iff] at m
      unfold Tab.get
      split
      · exact m.1
      · exact ih (by simpa [List.isEmpty_iff] using m.2) i
  have c : ∀ ln, s.cached ln = none := fun ln => by
    unfold State.cached State.hdie
    rw [(get _ h _).2]; rfl
  refine ⟨fun n => ?_, ⟨fun ln _ => c ln, fun ln l hl => by rw [c ln] at hl; cases hl⟩, c⟩
  simp only [State.fwinAt, State.hdie, (get _ h _).1]; rfl

/-! ## Steps -/

/-- A step of the execute stream: LI at address 0. -/
theorem test_step_execute_witness :
    let s := State.reset.withFetchWord 64 0x8021010000ABCDEF
    let u := ({ s with agenda := [] } : State).boundary 0
    let g := (u.front 0).getD {}
    s.agenda = [.execute 0] ∧ u.mayMove 0 = true ∧ u.mustStop 0 false = false ∧ (u.front 0).isSome = true ∧ u.members 0 = [0] ∧
    g.dead = none ∧ g.trapPend = none ∧ g.endX = false ∧ g.holdLeft = 0 ∧ u.frozen 0 false = 0 ∧
    u.bundle 0 g.xpc = .ok [(0, some (.li ⟨0, 1, 0, 0, 0xABCDEF⟩))] ∧ g.slotX ≤ 0 ∧ g.latchLive = false := by decide +kernel

/-- A step of the access stream: AADD at address 0. -/
theorem test_step_access_witness :
    let s := State.reset.withFetchWord 64 0xF003040506000000
    let u := ({ s with agenda := [] } : State).boundary 0
    let v := u.endHolds 0
    let x := v.each [0] (fun _ _ g => g.followBqe)
    let g0 := (v.front 0).getD {}
    let g := (x.front 0).getD {}
    s.agenda = [.access 0] ∧ u.mayMove 0 = true ∧ u.mustStop 0 true = false ∧ u.members 0 = [0] ∧ (v.front 0).isSome = true ∧
    g0.dead = none ∧ g0.endA = false ∧ g0.trapPend = none ∧ v.frozen 0 true = 0 ∧ (x.front 0).isSome = true ∧ g.endA = false ∧
    g.lateFault = none ∧ x.bundle 0 g.apc = .ok [(7, some (.aadd ⟨0, 4, 5, 6, 0⟩))] ∧ g.slotA ≤ 7 := by decide +kernel

/-- A step of the array engine, and of an event. -/
theorem test_step_others_witness :
    let s := State.reset.withFetchWord 32 0xC0000000
    let t := { State.reset with agenda := [.event .scrubLine] }
    s.agenda = [.micro 0] ∧ s.mayMove 0 = true ∧
    ((s.core 0).mat.run.map (fun r => (decodeMicro (Tab.get 0 (s.cluster 0).words r.pc)).toOption)) = some (some .nopm) ∧
    t.agenda = [.event .scrubLine] ∧ t.board.stage ≠ 0xFF ∧ t.collect .scrubLine = none ∧ fetchedInstr .scrubLine = false ∧ pacedCore .scrubLine = none := by decide +kernel

/-- A syllable of the running stream goes on, and one of the other stream is passed over. -/
theorem test_slots_in_order_witness :
    let s := inSlot 0 {}
    let i : Instr := .nop ⟨0, 0, 0, 0, 0⟩
    (s.front 0).isSome = true ∧ ownSlot false 4 = false ∧ ownSlot true 0 = false ∧ ownSlot false 0 = true ∧
    (match exec i s with
      | .next t => t.here.stall.isNone && t.here.off.isEmpty
      | _ => false) = true := by decide +kernel

/-! ## Traps and guards -/

/-- A trap that can be taken, at slots 0 and 7, and a double trap. -/
theorem test_trap_entry_witness :
    (∀ n ∈ [0, 7], ∀ v ∈ [false, true],
      let g : Machine.Group := { trapPend := some (ILLOP, false, n), endA := true, gstat := { valid := v } }
      (base g).front 0 = some g ∧ (base g).stopped 0 true = true) ∧
    (let g : Machine.Group := { trapPend := some (ILLOP, true, 7), endX := true }
     (base g).front 0 = some g ∧ (base g).stopped 0 false = true) ∧
    (let s := inSlot 7 handlerGroup
     s.front s.here.core = some handlerGroup ∧ handlerGroup.gstat.valid = true) := by decide +kernel

/-- Ill-formed syllables, one per check: the guard code, a selector, a destination, a reserved field, a type, a rounding
code, the latch bit, a mask operand, a permute selector, an a register, a link. -/
theorem test_ill_formed :
    (Instr.add ⟨8, 0, 0, 0, 0⟩).wf = false ∧ (Instr.add ⟨0, 0, 0x43, 0, 0⟩).wf = false ∧
    (Instr.add ⟨0, 0x45, 0, 0, 0⟩).wf = false ∧ (Instr.add ⟨0, 0, 0, 0, 1⟩).wf = false ∧
    (Instr.vadd false ⟨0, 0, 0, 0, 0xF00000⟩).wf = false ∧ (Instr.vfma false ⟨0, 0, 0, 0, 0x8C0000⟩).wf = false ∧
    (Instr.add ⟨0, 0x81, 0, 0, 0⟩).wf = false ∧ (Instr.mand false ⟨0, 0x44, 0x10, 0, 0⟩).wf = false ∧
    (Instr.vzip false ⟨0, 0, 0, 0, 0x20⟩).wf = false ∧ (Instr.ld ⟨0, 0, 0x80, 0, 0x180000⟩).wf = false ∧
    (Instr.call ⟨0, 0x40, 0, 0, 0⟩).wf = false ∧ (Instr.aadd ⟨0, 0x20, 0, 0, 0⟩).wf = false ∧
    (Instr.aq ⟨0, 0x00, 0, 0, 0⟩).wf = false ∧ (Instr.csrr ⟨0, 0, 0, 0, 0xFFF⟩).wf = false ∧
    (Instr.pair ⟨8, 0, 0, 0, 0, 0, 0, 0, 0⟩).wf = false := by decide +kernel

/-- Privileged forms in U mode. -/
theorem test_privilege_witness :
    (∀ e ∈ [(Instr.ringvoid, (⟨0, 0, 0, 0, 0⟩ : Syl)), (Instr.winw, ⟨0, 0, 0, 0, 0⟩), (Instr.gswap, ⟨0, 0, 0, 0, 0⟩)],
      OpenA (e.1 e.2) e.2 7 (inSlot 7 {})) ∧
    (inSlot 7 {}).me.gstat.mode = false ∧
    OpenX (.mupld ⟨0, 0, 0, 0, 0⟩) ⟨0, 0, 0, 0, 0⟩ 3 (inSlot 3 {}) ∧ (inSlot 3 {}).me.fault = none ∧
    (∀ n ∈ [0x001, 0x002, 0x003, 0x004, 0x00A, 0x010, 0x011, 0x012, 0x040, 0x041], ∀ i ∈ [Instr.csrr, .csrw, .csrs, .csrc],
      OpenX (i ⟨0, 0, 0, 0, BitVec.ofNat 24 n⟩) ⟨0, 0, 0, 0, BitVec.ofNat 24 n⟩ 0 (inSlot 0 {})) := by decide +kernel

/-- ERET where it returns and where it is refused; TRAP and SVC that can be taken at once and that wait. -/
theorem test_eret_trap_witness :
    (let y : Syl := ⟨0, 0, 0, 0, 0⟩
     OpenX (.eret y) y 0 (inSlot 0 handlerGroup) ∧ (inSlot 0 handlerGroup).here.sole = true ∧
     (inSlot 0 handlerGroup).front 0 = some handlerGroup ∧ OpenX (.eret y) y 0 (inSlot 0 {}) ∧
     (inSlot 0 {}).me.gstat.mode = false ∧ OpenX (.eret y) y 0 (inSlot 0 superGroup) ∧
     (inSlot 0 superGroup).me.gstat.mode = true ∧ (inSlot 0 superGroup).me.gstat.valid = false) ∧
    (∀ a ∈ [false, true], let g : Machine.Group := { endA := a }
      let f : FLine := { va := 0, data := some (BitVec.twoPow 512 63) }
      let s := (inSlot 0 g).modCore 0 (fun k => { k with fetch := [f] })
      let u := ({ s with here := { s.here with off := [0], resume := 1 } } : State).upd
        (fun g => { g with trapPend := some (SVCC, false, 1) })
      OpenX (.trap ⟨0, 0, 0, 0, 0⟩) ⟨0, 0, 0, 0, 0⟩ 0 s ∧ OpenX (.svc ⟨0, 0, 0, 0, 0⟩) ⟨0, 0, 0, 0, 0⟩ 0 s ∧ s.here.access = false ∧
      s.front 0 = some g ∧ g.csrw = [] ∧ u.stopped 0 true = a) := by decide +kernel

/-- A group whose predicates 1 are false at bit 0 and true at bit 1. -/
def maskGroup : Machine.Group := { m := [(1, 2)], g := [(1, 2)] }

/-- Guards of each kind, at the ends of their ranges, and syllables that they turn off. -/
theorem test_guard_witness :
    maskGroup.guardX 1 0 = false ∧ maskGroup.guardX 1 1 = true ∧ maskGroup.guardX 9 0 = true ∧ maskGroup.guardA 9 1 = false ∧
    maskGroup.guardX 7 0 = false ∧ maskGroup.guardX 15 0 = true ∧ maskGroup.guardA 0 0 = true ∧
    (Instr.add ⟨1, 0, 0, 0, 0⟩).wf = true ∧ (Instr.mswp ⟨1, 0, 0, 0, 0⟩).wf = true ∧ (Instr.aadd ⟨1, 0, 0, 0, 0⟩).wf = true ∧
    (inSlot 0 maskGroup).me.guardX 1 0 = false ∧ (inSlot 7 maskGroup).me.guardA 1 0 = false ∧
    (Instr.br ⟨1, 0, 0, 0, 0⟩).wf = true ∧ (Instr.br ⟨1, 0, 0, 0, 0⟩).slotOpc.isSome = true ∧
    (Instr.loop ⟨1, 0, 0, 0, 0⟩).wf = true ∧ (Instr.eret ⟨1, 0, 0, 0, 0⟩).wf = true ∧ (inSlot 0 maskGroup).here.sole = true ∧
    (Instr.add ⟨8, 0, 0, 0, 0⟩).slotOpc = some (0, 0x00, ⟨8, 0, 0, 0, 0⟩) := by decide +kernel

/-- A vector syllable whose guard enables no element. -/
theorem test_no_element_witness :
    (Instr.vadd false ⟨1, 3, 1, 2, 0x100000⟩).wf = true ∧ (inSlot 1 {}).seated ∧ ∀ b, (inSlot 1 {}).me.guardX 1 b = false := by
  refine ⟨by decide +kernel, by decide +kernel, fun b => ?_⟩
  have h : (inSlot 1 {}).me = {} := by decide +kernel
  rw [h]
  simp [Group.guardX, Group.rdM, Tab.get]

/-! ## Operands and landings -/

/-- A group with values in its registers, one entry in lq0, sq0, xq and iq, and a latch that is live. -/
def fullGroup : Machine.Group :=
  { a := [(0, 0x11), (31, 0x1F)], s := [(1, 5), (63, 7)], v := [(63, 9)], lt := [(0, 3), (2, 4)], live := 5,
    nq := { q := [(0, [⟨0, some 21⟩]), (3, [⟨1, some 22⟩]), (4, [⟨2, some 23⟩]), (6, [⟨3, some 24⟩]), (7, [⟨4, some 25⟩])] },
    nextId := 5, gstat := { fused := true, fidx := 3 } }

/-- Each source at the ends of its ranges, and queues with and without entries (R63, R64, R91). -/
theorem test_sources_witness :
    (let s := inSlot 0 fullGroup
     [0x00, 0x01, 0x3F, 0x40, 0x42, 0x44, 0x47, 0x48, 0x4B, 0x50, 0x51, 0x52, 0x53, 0x54, 0x80, 0xFF].map
       (fun n => (readX (BitVec.ofNat 8 n) s).1.toInt) = [0, 5, 7, 3, 4, 21, 22, 21, 22, 0, 3, 0, 0, 0, 0, -1] ∧
     (readX 0x44 s).2.me.queue 0 = [] ∧ (readX 0x48 s).2.me.queue 0 = fullGroup.queue 0 ∧
     (readV 0x3F s).1.at (.int 8) 0 = 9 ∧ (readV 0x42 s).1.at (.int 8) 0 = 4 ∧ (readV 0x47 s).1.at (.int 8) 0 = 22 ∧
     (readV 0x4B s).1.at (.int 8) 0 = 22 ∧ (readV 0x50 s).1.at (.int 8) 5 = 5 ∧ (readV 0xFF s).1.at (.int 8) 255 = 255) ∧
    (let s := inSlot 7 fullGroup
     [0x00, 0x1F, 0x44, 0x46, 0x48, 0x4A, 0x50, 0x51, 0x52, 0x53, 0x54, 0x80, 0xC0].map
       (fun n => (readA (BitVec.ofNat 8 n) s).1.toInt) = [0x11, 0x1F, 23, 24, 23, 24, 0, 3, 0, 0, 0, 0, -64] ∧
     (readA 0x46 s).2.me.queue 6 = []) ∧
    (fullGroup.queue 0).map (·.data) = [some 21] ∧ (fullGroup.pop 0).1 = 21 ∧ (∀ e ∈ fullGroup.queue 0, e.id < fullGroup.nextId) ∧
    ((fullGroup.push 0 26).queue 0).map (·.data) = [some 21, some 26] := by decide +kernel

/-- Destinations at the ends of their ranges (R65, R66). -/
theorem test_destinations_witness :
    (let s := inSlot 1 fullGroup
     s.front s.here.core = some fullGroup ∧ s.here.slot < 4 ∧
     ([0x00, 0x3F, 0x40, 0x43, 0x80, 0xFF].map (fun n => ((finish 2 (BitVec.ofNat 8 n) 1 1 s).me.flight.map (·.dst)))) =
       [[.vreg 0], [.vreg 63], [.queue 4 5], [.queue 7 5], [.latch], [.latch]]) ∧
    ((finish 2 0x3F 1 1 (inSlot 0 fullGroup)).me.flight.map (·.dst)) = [.sreg 63] := by decide +kernel

/-- Access results of each file, and registers that nothing writes. -/
theorem test_access_landing_witness :
    let g : Machine.Group := { awr := [(0, 3, 1), (1, 0, 2), (2, 0, 3)] }
    g.awr = [(0, 3, 1), (1, 0, 2)] ++ [(2, 0, 3)] ∧ g.landA.rdK 0 = 3 ∧ g.landA.rdG 0 = BitVec.allOnes 64 ∧ g.landA.rdA 3 = 1 ∧
    g.landA.rdA 31 = 0 ∧ g.landA.rdG 7 = 0 ∧
    ({ g with awr := [(0, 3, 1), (0, 3, 2)] } : Machine.Group).landA.rdA 3 = 2 ∧
    ({ g with awr := [(1, 7, 9)] } : Machine.Group).landA.rdG 7 = 9 := by decide +kernel

/-- Results in flight: one of each file, two for one register, and a hold. -/
theorem test_results_land_witness :
    (let f : Flight := { left := 2, slot := 0, dst := .sreg 63, val := 9, en := 1 }
     let g : Machine.Group := { flight := [f] }
     (Machine.Group.tick^[1] g).rdS 63 = 0 ∧ (Machine.Group.tick^[2] g).rdS 63 = 9 ∧
     let h : Machine.Group := { flight := [{ f with slot := 3, dst := .vreg 0, en := BitVec.allOnes 2048 }] }
     (Machine.Group.tick^[1] h).rdV 0 = 0 ∧ (Machine.Group.tick^[2] h).rdV 0 = 9 ∧
     let k : Machine.Group := { flight := [{ f with left := 1, slot := 1, dst := .mreg 15, en := 8 }] }
     (Machine.Group.tick^[0] k).rdM 15 = 0 ∧ (Machine.Group.tick^[1] k).rdM 15 = 8 ∧
     let w : Machine.Group := { flight := [{ f with slot := 3, val := 4, en := BitVec.allOnes 2048 },
                                            { f with en := BitVec.allOnes 2048 }] }
     (Machine.Group.tick^[2] w).rdS 63 = 4 ∧
     let x : Machine.Group := { flight := [{ f with left := 3, val := 4 }, f] }
     (Machine.Group.tick^[3] x).rdS 63 = 4) ∧
    (let g : Machine.Group := { holdLeft := 1 }
     (base g).front 0 = some g ∧ (base g).members 0 = [0] ∧ g.dead = none ∧ g.trapPend = none ∧ g.endX = false ∧ g.slotX = 0) := by
  decide +kernel

/-- Landings of each destination and slot, written and discarded. -/
theorem test_landing_writes_witness :
    let f : Flight := { left := 0, slot := 0, dst := .sreg 0, val := 9, en := BitVec.allOnes 2048 }
    let g : Machine.Group := { live := 7 }
    (g.land g.m f).rdS 0 = 0 ∧ (g.land g.m f).rdLt 0 = 9 ∧ (g.land g.m f).live = 6 ∧
    (g.land g.m { f with dst := .sreg 63 }).rdS 63 = 9 ∧ (g.land g.m { f with slot := 2, dst := .vreg 0, en := 1 }).rdV 0 = 1 ∧
    (g.land g.m { f with slot := 2, dst := .latch, nwb := true }).live = 7 ∧
    (g.land g.m { f with dst := .mreg 0 }).rdM 0 = BitVec.allOnes 256 ∧ (g.land g.m { f with slot := 1, dst := .mreg 15 }).rdM 15 = 9 ∧
    (g.land g.m { f with slot := 3, dst := .mreg 15 }).live = 7 := by decide +kernel

/-! ## The X slot -/

/-- CSRs: a read-only and a writable one in each view, and each register's write. -/
theorem test_csr_witness :
    (let z : Syl := ⟨0, 1, 0, 0, 0x008⟩
     ∀ e ∈ [(Instr.csrr, z), (.csrw, { z with srca := 0x80 }), (.csrs, { z with srca := 0x80 }), (.csrc, { z with srca := 0x80 })],
       let (i, y) := e
       OpenX (i y) y 0 (inSlot 0 {}) ∧ (inSlot 0 {}).seated ∧
       ¬ (csrRead false (y.im 11 0) = 0 ∧ csrWrite false (y.im 11 0) = 0) ∧ csrWrite false (y.im 11 0) ≠ 0) ∧
    (let y : Syl := ⟨0, 1, 0x81, 0, 0x040⟩
     OpenX (.csrs y) y 0 (inSlot 0 superGroup) ∧ csrRead true (y.im 11 0) ≠ 0 ∧ csrWrite true (y.im 11 0) = 0) ∧
    (∀ g ∈ [({} : Machine.Group), superGroup], (inSlot 0 g).front 0 = some g ∧ (g.gstat.mode = true ∨ g.gstat.mode = false)) ∧
    (setCsr 0x002 7 (inSlot 0 {})).me.savApc = 0 ∧ (setCsr 0x004 0xFF (inSlot 0 {})).me.tvec = 0xC0 ∧
    (setCsr 0x008 4 (inSlot 0 {})).me.rmode = 4 ∧ (setCsr 0x008 5 (inSlot 0 {})).me.rmode = 0 := by decide +kernel

/-- Words of the X slot at their boundaries: the syllable and the state are open, and the value that lands (R84–R90). -/
def landed (i : Syl → Instr) (y : Syl) (g : Machine.Group) : Option Word :=
  match exec (i y) (inSlot 0 g) with
  | .next t => (t.me.flight.getLast?).map (fun f => lo64 f.val)
  | _ => none

/-- A group with s1 the most negative word, s2 all ones, s3 = 3. -/
def signs : Machine.Group := { s := [(1, 0x8000000000000000), (2, 0xFFFFFFFFFFFFFFFF), (3, 3)], m := [(1, 1)] }

/-- The two-source forms are open, and give these values. -/
theorem test_scalar_two_sources_witness :
    (∀ i ∈ [Instr.add, .sub, .mul, .mulhi, .mulhn, .and, .or, .xor, .andn, .shl, .shr, .sra, .rot, .min, .max, .minn, .maxn,
        .div, .divn, .rem, .remn], ∀ y ∈ [(⟨0, 4, 1, 2, 0⟩ : Syl), ⟨1, 0x80, 0xFF, 0x44, 0⟩], OpenX (i y) y 0 (inSlot 0 signs)) ∧
    (let y : Syl := ⟨0, 4, 1, 2, 0⟩
     [Instr.add, .sub, .mul, .mulhi, .mulhn, .andn, .shl, .shr, .sra, .rot, .min, .maxn].map (fun i => landed i y signs) =
       [some 0x7FFFFFFFFFFFFFFF, some 0x8000000000000001, some 0x8000000000000000, some 0, some 0x7FFFFFFFFFFFFFFF, some 0, some 0,
        some 1, some 0xFFFFFFFFFFFFFFFF, some 0x4000000000000000, some 0x8000000000000000, some 0xFFFFFFFFFFFFFFFF] ∧
     [Instr.div, .divn, .rem, .remn].map (fun i => landed i y signs) =
       [some 0x8000000000000000, some 0, some 0, some 0x8000000000000000]) ∧
    (let y : Syl := ⟨0, 4, 1, 0, 0⟩
     [Instr.div, .divn, .rem, .remn].map (fun i => landed i y signs) =
       [some 0xFFFFFFFFFFFFFFFF, some 0xFFFFFFFFFFFFFFFF, some 0x8000000000000000, some 0x8000000000000000]) ∧
    (let y : Syl := ⟨0, 4, 2, 3, 0⟩
     [Instr.div, .divn, .rem, .remn].map (fun i => landed i y signs) =
       [some 0, some 0x5555555555555555, some 0xFFFFFFFFFFFFFFFF, some 0]) := by decide +kernel

/-- The one-source forms, EXTR and INS at their boundary lengths, SEL, and the 64-bit constant of R90's three syllables. -/
theorem test_scalar_one_source_witness :
    (∀ e ∈ [(Instr.addi, (⟨0, 4, 1, 0, 0⟩ : Syl)), (.andi, ⟨0, 4, 1, 0, 0⟩), (.ori, ⟨0, 4, 1, 0, 0⟩), (.xori, ⟨0, 4, 1, 0, 0⟩),
        (.lim, ⟨0, 4, 1, 0, 0⟩), (.popc, ⟨0, 4, 1, 0, 0⟩), (.clz, ⟨0, 4, 1, 0, 0⟩), (.ctz, ⟨0, 4, 1, 0, 0⟩),
        (.li, ⟨0, 4, 0, 0, 0⟩), (.time, ⟨0, 4, 0, 0, 0⟩), (.cyc, ⟨0, 4, 0, 0, 0⟩)], let (i, y) := e
      OpenX (i y) y 0 (inSlot 0 signs)) ∧
    (∀ y ∈ [(⟨0, 4, 1, 0, 0x1000⟩ : Syl), ⟨0, 4, 1, 0, 0x3000⟩, ⟨0, 4, 1, 0, 0x007F⟩], OpenX (.extr y) y 0 (inSlot 0 signs)) ∧
    OpenX (.lit ⟨0, 4, 1, 0, 0xFFFF⟩) ⟨0, 4, 1, 0, 0xFFFF⟩ 0 (inSlot 0 signs) ∧
    OpenX (.ins ⟨0, 4, 1, 2, 0x1000⟩) ⟨0, 4, 1, 2, 0x1000⟩ 0 (inSlot 0 signs) ∧
    OpenX (.sel ⟨0, 4, 1, 2, 15⟩) ⟨0, 4, 1, 2, 15⟩ 0 (inSlot 0 signs) ∧
    OpenX (.rndw ⟨0, 4, 0, 0, 0⟩) ⟨0, 4, 0, 0, 0⟩ 0 (inSlot 0 { rbq := [7] }) ∧
    OpenX (.nop ⟨0, 0, 0, 0, 0⟩) ⟨0, 0, 0, 0, 0⟩ 0 (inSlot 0 {}) ∧ OpenX (.hint ⟨0, 0, 0, 0, 3⟩) ⟨0, 0, 0, 0, 3⟩ 0 (inSlot 0 {}) ∧
    landed .li ⟨0, 1, 0, 0, 0xABCDEF⟩ signs = some 0xFFFFFFFFFFABCDEF ∧
    landed .lim ⟨0, 1, 1, 0, 0x456789⟩ { s := [(1, 0xFFFFFFFFFFABCDEF)] } = some 0xFFFF456789ABCDEF ∧
    landed .lit ⟨0, 1, 1, 0, 0x000123⟩ { s := [(1, 0xFFFF456789ABCDEF)] } = some 0x0123456789ABCDEF ∧
    landed .clz ⟨0, 4, 3, 0, 0⟩ signs = some 62 ∧ landed .ctz ⟨0, 4, 0, 0, 0⟩ signs = some 64 ∧
    landed .popc ⟨0, 4, 2, 0, 0⟩ signs = some 64 ∧ landed .extr ⟨0, 4, 1, 0, 0x207F⟩ signs = some 0xFFFFFFFFFFFFFFFF ∧
    landed .ins ⟨0, 4, 3, 0, 0x007F⟩ signs = some 0x8000000000000000 := by decide +kernel

/-- The condition codes 0 to 10. -/
theorem test_conditions_witness :
    (∀ n < 10, OpenX (.cmpCc ⟨0, 0x44, 1, 2, BitVec.ofNat 24 (16 * n)⟩) ⟨0, 0x44, 1, 2, BitVec.ofNat 24 (16 * n)⟩ 0 (inSlot 0 signs) ∧
      OpenA (.acmpCc ⟨0, 0x44, 1, 2, BitVec.ofNat 24 (16 * n)⟩) ⟨0, 0x44, 1, 2, BitVec.ofNat 24 (16 * n)⟩ 7 (inSlot 7 signs) ∧
      ((BitVec.ofNat 24 (16 * n)).extractLsb' 4 4).toNat = n) ∧
    10 ≤ ((0xA0 : BitVec 24).extractLsb' 4 4).toNat ∧
    (List.range 10).map (fun n => landed .cmpCc ⟨0, 0x44, 1, 2, BitVec.ofNat 24 (16 * n)⟩ signs) =
      let (f, t) := (some (0 : Word), some (BitVec.allOnes 64)); [f, t, t, f, t, f, t, f, t, f] := by decide +kernel

/-- Transfers: taken, not transferred for alignment, and an outcome that the access stream follows. -/
theorem test_transfers_witness :
    (let y : Syl := ⟨0, 0, 0, 0, 0x800000⟩
     OpenX (.br y) y 0 (inSlot 0 signs) ∧ OpenX (.jr ⟨0, 0, 1, 0, 1⟩) ⟨0, 0, 1, 0, 1⟩ 0 (inSlot 0 signs) ∧
     (match exec (.br y) (inSlot 0 signs) with
       | .next t => decide (t.me.xNext = some 0xFFFFFFFFFC000000)
       | _ => false) = true) ∧
    OpenX (.call ⟨0, 63, 0, 0, 1⟩) ⟨0, 63, 0, 0, 1⟩ 0 (inSlot 0 signs) ∧ OpenX (.endStep ⟨0, 0, 0, 0, 0⟩) ⟨0, 0, 0, 0, 0⟩ 0 (inSlot 0 {}) ∧
    (∀ y ∈ [(⟨0, 0, 1, 0, 0⟩ : Syl), ⟨0, 0, 2, 0, 0⟩], OpenX (.ret y) y 0 (inSlot 0 signs)) ∧
    (readX 1 (inSlot 0 signs)).1.toNat % 8 = 0 ∧ (readX 2 (inSlot 0 signs)).1.toNat % 8 ≠ 0 ∧
    (∀ o ∈ [({ taken := true, target := 8 } : BOut), { taken := false, target := 8, isEnd := true }],
      let g : Machine.Group := { awaitBqe := true, nq := { bqe := [o] } }
      g.awaitBqe = true ∧ g.holds = [] ∧ g.qs.bqe = [o] ∧ g.followBqe.apc = if o.taken then 8 else 0) := by decide +kernel

/-- The access side's arithmetic, KSET in both forms, and LOOP at a count of 1 and of 2. -/
theorem test_access_witness :
    (∀ i ∈ [Instr.aadd, .asub, .amul, .amin, .amax, .alim, .aaddi, .aandi, .aq], ∀ y ∈ [(⟨0, 0x1F, 0x1F, 0, 0⟩ : Syl)],
      ([(0x1F : BitVec 8), 0x43].any (fun n => decide (OpenA (i { y with dst := n }) { y with dst := n } 7 (inSlot 7 fullGroup))))) ∧
    OpenA (.ali ⟨0, 0x1F, 0, 0, 0x800000⟩) ⟨0, 0x1F, 0, 0, 0x800000⟩ 7 (inSlot 7 {}) ∧
    (∀ i ∈ [Instr.ashli, .ashri], OpenA (i ⟨0, 1, 2, 0, 63⟩) ⟨0, 1, 2, 0, 63⟩ 7 (inSlot 7 fullGroup)) ∧
    OpenA (.alit ⟨0, 1, 2, 0, 0xFFFF⟩) ⟨0, 1, 2, 0, 0xFFFF⟩ 7 (inSlot 7 {}) ∧
    OpenA (.amovq ⟨0, 1, 0, 0, 0⟩) ⟨0, 1, 0, 0, 0⟩ 7 (inSlot 7 fullGroup) ∧ lo64 (fullGroup.peek 6) = 24 ∧
    (∀ d ∈ [(0x21 : Nat), 0], let y : Syl := ⟨0, 0, 0, 0, BitVec.ofNat 24 (d * 2 ^ 16)⟩
      OpenA (.kset y) y 7 (inSlot 7 {}) ∧ y.imm.getLsbD 21 = (d == 0x21)) ∧
    (∀ n ∈ [0, 1, 2], let y : Syl := ⟨0, 0, 0, 0, 0xFFFFFE⟩
      let g : Machine.Group := { k := [(3, BitVec.ofNat 32 n)] }
      OpenA (.loop y) y 7 (inSlot 7 g) ∧ (inSlot 7 g).front 0 = some g ∧
      (match exec (.loop y) (inSlot 7 g) with
        | .next t => decide (t.here.aNext = if n = 2 then some 0xFFFFFFFFFFFFFFF0 else none)
        | _ => false) = true) := by decide +kernel

/-! ## The V0 and V1 slots -/

/-- Element `e` of the result that the syllable launches from slot V0, with the group `g`. -/
def lane (i : Instr) (w e : Nat) (g : Machine.Group) : Option Nat :=
  match exec i (inSlot 1 g) with
  | .next t => (t.me.flight.getLast?).map (fun f => f.val.toNat / 2 ^ (w * e) % 2 ^ w)
  | _ => none

/-- v1 and v2 hold one word each in element 0. -/
def vecs (a b c : Nat) : Machine.Group :=
  { v := [(1, BitVec.ofNat 2048 a), (2, BitVec.ofNat 2048 b), (3, BitVec.ofNat 2048 c)], m := [(1, 5)] }

/-- The plain forms, well formed at the first and last of their types, with values at the ends of a width. -/
theorem test_vector_plain_witness :
    (∀ e ∈ [(Instr.vabs, 0xB), (.vneg, 0), (.vclz, 0), (.vpopc, 7), (.vmov, 13), (.vclass, 8)], ∀ hi ∈ [false, true],
      (e.1 hi ⟨0, 4, 1, 0, BitVec.ofNat 24 (e.2 * 2 ^ 20)⟩).wf = true ∧ (Ty.ofCode e.2).isSome = true) ∧
    (∀ e ∈ [(Instr.vmin, 0xB), (.vmax, 0), (.vadds, 7), (.vsubs, 0), (.vmulh, 3), (.vand, 13), (.vor, 0), (.vxor, 0), (.vandn, 0),
        (.vshl, 7), (.vshr, 0), (.vsra, 0)], ∀ hi ∈ [false, true],
      (e.1 hi ⟨0, 4, 1, 2, BitVec.ofNat 24 (e.2 * 2 ^ 20)⟩).wf = true ∧ (Ty.ofCode e.2).isSome = true) ∧
    (Instr.vli false ⟨0, 4, 0xFF, 0xFF, 0⟩).wf = true ∧
    lane (.vabs false ⟨0, 4, 1, 0, 0x000100⟩) 8 0 (vecs 0x80 0 0) = some 0x7F ∧
    lane (.vadds false ⟨0, 4, 1, 2, 0x000000⟩) 8 0 (vecs 0x7F 1 0) = some 0x7F ∧
    lane (.vsubs false ⟨0, 4, 1, 2, 0x400000⟩) 8 0 (vecs 1 2 0) = some 0 ∧
    lane (.vmulh false ⟨0, 4, 1, 2, 0x000000⟩) 8 0 (vecs 0xFF 1 0) = some 0xFF ∧
    lane (.vsra false ⟨0, 4, 1, 2, 0x000000⟩) 8 0 (vecs 0x80 15 0) = some 0xFF ∧
    lane (.vmin false ⟨0, 4, 1, 2, 0x000000⟩) 8 0 (vecs 0x80 1 0) = some 0x80 ∧
    lane (.vclz false ⟨0, 4, 1, 0, 0x300000⟩) 64 0 (vecs 0 0 0) = some 64 := by decide +kernel

/-- The rounding forms, well formed at each rounding code's ends; R140's example of VFMA.f32 with one rounding. -/
theorem test_vector_rounded_witness :
    (∀ e ∈ [(Instr.vadd, 0x8A0000), (.vsub, 0), (.vmul, 0xB00100), (.vscale, 0x880100)], ∀ hi ∈ [false, true],
      (e.1 hi ⟨0, 4, 1, 2, BitVec.ofNat 24 e.2⟩).wf = true) ∧
    (∀ e ∈ [(Instr.vfma, 0xA80000), (.vfms, 0x300000), (.vdot2, 0x880000), (.vdot4, 0xC00100)],
      (e.1 false ⟨0, 4, 1, 2, BitVec.ofNat 24 (e.2 + 0x600)⟩).wf = true) ∧
    (∀ i ∈ [Instr.vrcp, .vrsq, .vexp2, .vlog2, .vtanh, .vsqrt], (i true ⟨0, 4, 1, 0, 0x8A0100⟩).wf = true) ∧
    (Instr.vdiv false ⟨0, 4, 1, 2, 0xB80100⟩).wf = true ∧ (inSlot 1 {}).here.off = [] ∧
    lane (.vfma false ⟨0, 4, 1, 2, 0xA00600⟩) 32 0 (vecs 0x4B800000 0x3F800000 0x3F800000) = some 0x4B800000 ∧
    lane (.vfma false ⟨0, 4, 1, 2, 0xA40600⟩) 32 0 (vecs 0x4B800000 0x3F800000 0x3F800000) = some 0x4B800001 ∧
    lane (.vadd false ⟨0, 4, 1, 2, 0xA00000⟩) 32 0 (vecs 0x3F800000 0xBF800000 0) = some 0 ∧
    lane (.vdiv false ⟨0, 4, 1, 2, 0xA00000⟩) 32 0 (vecs 0x3F800000 0x40000000 0) = some 0x3F000000 ∧
    lane (.vsqrt false ⟨0, 4, 1, 0, 0xA00000⟩) 32 0 (vecs 0x40800000 0 0) = some 0x40000000 ∧
    lane (.vrcp false ⟨0, 4, 1, 0, 0xA00000⟩) 32 0 (vecs 0x40800000 0 0) = some 0x3E800000 ∧
    (∀ m ∈ [0, 1, 2, 3, 4], let g : Machine.Group := { rmode := BitVec.ofNat 3 m, rbq := [7] }
      (inSlot 1 g).front 0 = some g ∧ g.rmode.toNat ≤ 4 ∧
      (let y : Syl := ⟨0, 4, 1, 2, 0xAA0000⟩; y.rnd = 5 ∧ (rounding y (inSlot 1 g)).2.me.rbq = if m = 4 then [] else [7])) := by
  decide +kernel

/-- The mask forms and VSEL; sources at and above the last mask (R145, R146). -/
theorem test_masks_witness :
    (∀ i ∈ [Instr.mand, .mor, .mxor], (i true ⟨1, 0x44, 0x0F, 0x0F, 0x00000F⟩).wf = true) ∧
    (Instr.mnot false ⟨1, 0x44, 0x0F, 0, 0x00000F⟩).wf = true ∧ (Instr.vsel false ⟨0, 4, 1, 2, 0x00000F⟩).wf = true ∧
    (0x0F < (0x10 : BitVec 8).toNat) ∧
    lane (.vsel false ⟨0, 4, 1, 2, 0x000001⟩) 8 0 (vecs 0x0708 0x0506 0) = some 8 ∧
    lane (.vsel false ⟨0, 4, 1, 2, 0x000001⟩) 8 1 (vecs 0x0708 0x0506 0) = some 5 ∧
    lane (.mxor false ⟨0, 0x44, 0, 1, 0x000002⟩) 8 0 (vecs 0 0 0) = some 0xFA ∧
    lane (.mnot false ⟨0, 0x44, 1, 0, 0x000002⟩) 8 0 (vecs 0 0 0) = some 0xFA := by decide +kernel

/-- The shuffles, well formed in each variant, with values. -/
theorem test_shuffles_witness :
    (∀ n ∈ [0, 0x10], (Instr.vzip false ⟨0, 4, 1, 2, BitVec.ofNat 24 n⟩).wf = true ∧
      (Instr.vunzip false ⟨0, 4, 1, 2, BitVec.ofNat 24 n⟩).wf = true) ∧
    2 ≤ (⟨0, 4, 1, 2, 0x20⟩ : Syl).fn ∧
    (∀ e ∈ [(Instr.vcmpCc, (⟨0, 0x44, 1, 2, 0xB0007F⟩ : Syl)), (.mpopc, ⟨0, 4, 1, 0, 0⟩), (.mfirst, ⟨0, 4, 15, 0, 0⟩),
        (.vred, ⟨0, 4, 1, 0, 0x8A0000⟩), (.vred, ⟨0, 0x42, 1, 0, 0⟩), (.vscan, ⟨0, 4, 1, 0, 0x000020⟩), (.vperm, ⟨0, 4, 1, 2, 0⟩),
        (.vperm, ⟨0, 4, 1, 2, 0x000610⟩), (.vrot, ⟨0, 4, 1, 0, 0x000600⟩), (.vbcast, ⟨0, 4, 0, 0, 0x000600⟩),
        (.vins, ⟨0, 4, 1, 0, 0x0006FF⟩), (.vext, ⟨0, 4, 1, 0, 0x0000FF⟩), (.vcomp, ⟨0, 4, 1, 0, 0x000001⟩),
        (.vexpd, ⟨0, 4, 1, 0, 0x000001⟩), (.viota, ⟨0, 4, 0, 0, 0x700001⟩)], (e.1 false e.2).wf = true) ∧
    lane (.vzip false ⟨0, 4, 1, 2, 0⟩) 8 1 (vecs 0x0708 0x0506 0) = some 6 ∧
    lane (.vunzip false ⟨0, 4, 1, 2, 0x10⟩) 8 0 (vecs 0x0708 0x0506 0) = some 7 ∧
    lane (.vred false ⟨0, 4, 1, 0, 0⟩) 64 0 (vecs 0x0708 0 0) = some 15 ∧
    lane (.vscan false ⟨0, 4, 1, 0, 0⟩) 8 1 (vecs 0x0708 0 0) = some 15 ∧
    lane (.vrot false ⟨0, 4, 1, 0, 0x010200⟩) 8 0 (vecs 0x0708 0 0) = some 7 ∧
    lane (.vcomp false ⟨0, 4, 1, 0, 0x000001⟩) 8 1 (vecs 0x090708 0 0) = some 9 ∧
    lane (.vexpd false ⟨0, 4, 1, 0, 0x000001⟩) 8 2 (vecs 0x090708 0 0) = some 7 ∧
    lane (.viota false ⟨0, 4, 0, 0, 0x000001⟩) 8 3 (vecs 0 0 0) = some 2 ∧
    lane (.mfirst false ⟨0, 4, 0, 0, 0⟩) 8 0 (vecs 0 0 0) = some 0 := by decide +kernel

/-- The conversions of each kind, and a pair syllable. -/
theorem test_conversions_witness :
    (Instr.vnarrow false ⟨0, 4, 1, 0, 0x000510⟩).wf = true ∧ (Instr.vwiden false ⟨0, 4, 1, 0, 0x100001⟩).wf = true ∧
    (∀ e ∈ [((⟨0, 4, 1, 0, 0x200080⟩ : Syl)), ⟨0, 4, 1, 2, 0x9000E0⟩, ⟨0, 4, 1, 2, 0xE00490⟩, ⟨0, 4, 1, 2, 0xE80490⟩,
        ⟨0, 4, 1, 2, 0xEA0490⟩], (Instr.vcvt false e).wf = true ∧ (Ty.ofCode e.ty).isSome = true ∧ (Ty.ofCode e.fn).isSome = true) ∧
    lane (.vwiden false ⟨0, 4, 1, 0, 0x100000⟩) 16 0 (vecs 0x80 0 0) = some 0xFF80 ∧
    lane (.vnarrow false ⟨0, 4, 1, 0, 0x000110⟩) 8 0 (vecs 0x8000 0 0) = some 0x80 ∧
    lane (.vcvt false ⟨0, 4, 1, 0, 0xA00020⟩) 32 0 (vecs 1 0 0) = some 0x3F800000 ∧
    (Instr.pair ⟨9, 13, 63, 0x3F, 0xFF, 0x20, 63, 0x3F, 0⟩).wf = true := by decide +kernel

/-! ## The M slot and the micro-ops -/

/-- Slot M of a group, with the core's matrix unit as given. -/
def inMat (m : Matrix) (g : Machine.Group) : State := (inSlot 3 g).modMat 0 (fun _ => m)

/-- A command of the group in bank 0. -/
def command (k : MKind) : MCmd := { bank := false, gid := 0, ctx := 0, seq := 0, kind := k }

/-- A routine under way. -/
def running : Run := { cmd := command (.mcall 0 0 false false []), rout := 0, pc := 7, wp := [(0, 0x1000)] }

/-- A ring of two tiles, the head at the first, with `n` of them filled. -/
def ring (n : Nat) : Ring := { gid := 0, tiles := [3, 5], filled := n }

/-- Each queueing form, free to issue; a pending fault. -/
theorem test_matrix_queue_witness :
    (∀ e ∈ [(Instr.mcall, (⟨0, 0, 0, 0, 0x001FFF⟩ : Syl)), (.mlds, ⟨0, 0, 1, 0, 0xD30000⟩), (.mswp, ⟨0, 0, 0, 0, 0⟩),
        (.mshape, ⟨0, 0, 0, 0, 1⟩), (.mflush, ⟨0, 0, 0, 0, 0x7E⟩), (.epcfg, ⟨0, 0, 1, 2, 0xBAF200⟩), (.eprun, ⟨0, 0, 1, 0, 0x3F⟩),
        (.mupld, ⟨0, 0, 0, 0x81, 0x01FFE0⟩), (.mpw, ⟨0, 0, 1, 0, 7⟩), (.mring, ⟨0, 0, 0, 0, 0x30⟩), (.mradv, ⟨0, 0, 0, 0, 0⟩)],
      OpenX (e.1 e.2) e.2 3 (inMat {} superGroup) ∧ (inMat {} superGroup).seated ∧
      (inMat {} superGroup).me.fault = none ∧
      (let s := inMat {} { superGroup with fault := some { cause := ILLOP } }
       OpenX (e.1 e.2) e.2 3 s ∧ s.me.fault = some { cause := ILLOP } ∧ s.me.gstat.mode = true)) ∧
    ((inMat {} superGroup).myMat.ringOf 0).all (fun r => !r.swc) = true ∧
    (let y : Syl := ⟨0, 0, 0, 0x81, 0x01FFE0⟩
     let s := inMat {} superGroup
     s.me.gstat.mode = true ∧ 32 ≤ (y.imm.extractLsb' 0 6).toNat ∧ (readX2 y.srca y.srcb s).2.1.toNat = 1 ∧
     (y.imm.extractLsb' 6 11).toNat + 1 = 2048 ∧ (readX2 y.srca y.srcb s).1.toNat % 4 = 0) := by decide +kernel

/-- The forms that act at once: each WHAT of MCHKR, MRADV on a filled ring, MRING of the fewest and the most tiles. -/
theorem test_matrix_at_issue_witness :
    OpenX (.mpw ⟨0, 0, 1, 0, 7⟩) ⟨0, 0, 1, 0, 7⟩ 3 (inMat {} {}) ∧
    (∀ n ∈ [0, 1, 2, 3, 0x81], OpenX (.mchkr ⟨0, 4, 0, 0, BitVec.ofNat 24 n⟩) ⟨0, 4, 0, 0, BitVec.ofNat 24 n⟩ 3 (inMat {} {})) ∧
    (let s := inMat { rings := [ring 1] } { fault := some { cause := ILLOP, rout := 63, word := 4095, epi := true } }
     s.myMat.ringOf s.me.gid = some (ring 1) ∧ (ring 1).tiles[1]? = some 5 ∧ (ring 1).tiles[0]? = some 3 ∧
     s.me.fault = some { cause := ILLOP, rout := 63, word := 4095, epi := true }) ∧
    (let x : Ring := { ring 1 with swc := true }
     let s := inMat { rings := [x] } {}
     OpenX (.mradv ⟨0, 0, 0, 0, 0⟩) ⟨0, 0, 0, 0, 0⟩ 3 s ∧ s.myMat.ringOf s.me.gid = some x ∧ x.filled ≠ 0 ∧
     s.ringLoads = false ∧ s.me.fault = none) ∧
    (∀ n ∈ [2, 16], let y : Syl := ⟨0, 0, 0, 0, BitVec.ofNat 24 n⟩
     let s := inMat {} {}
     OpenX (.mring y) y 3 s ∧ s.seated ∧ s.myMat.queue = [] ∧ s.myMat.ringOf s.me.gid = none ∧
     (y.imm.extractLsb' 0 5).toNat ≤ 16 ∧ s.myMat.rings = [] ∧
     let u := s.modMat 0 (fun m => m.freeRing 0)
     u.ringHeld s.me s.myCluster + n ≤ u.ringClaim s.me) ∧
    (∀ n ∈ [0x01, 0x3F], OpenX (.mflushDrop ⟨0, 0, 0, 0, BitVec.ofNat 24 n⟩) ⟨0, 0, 0, 0, BitVec.ofNat 24 n⟩ 3 (inMat {} {}) ∧
      (BitVec.ofNat 24 n).getLsbD 6 = false) := by decide +kernel

/-- A routine with and without a loop, at counts 1 and 2; its barrier in either phase; ADV with and without room. -/
theorem test_routine_witness :
    (∀ l ∈ [[], [(3, 1)], [(3, 2), (1, 4)]], let r : Run := { running with loops := l }
      ((inMat { run := some r } {}).core (inMat { run := some r } {}).here.core).mat.run = some r ∧ r.loops = l) ∧
    (match exec .el (inMat { run := some { running with loops := [(3, 2), (1, 4)] } } {}) with
      | .next t => (t.core 0).mat.run.map (fun r => (r.pc, r.loops))
      | _ => none) = some (3, [(3, 1), (1, 4)]) ∧
    (match exec .el (inMat { run := some { running with loops := [(3, 1)] } } {}) with
      | .next t => (t.core 0).mat.run.map (fun r => (r.pc, r.loops))
      | _ => none) = some (8, []) ∧
    ((inMat {} {}).bar 0 0 31).phase = false ∧
    (∀ n ∈ [0, 1, 2], let s := inMat { run := some running, rings := [ring n] } {}
      (s.core 0).mat.ringOf running.cmd.gid = some (ring n)) ∧
    (ring 0).filled + 1 < (ring 0).tiles.length ∧ (ring 1).tiles.length ≤ (ring 1).filled + 1 ∧
    (let p : Plane := { valid := true, keff := 2, data := [(0, 0xFF), (128, 3)] }
     p.column 0 [2, 5] 0 1 = 14) := by decide +kernel

/-- Operand-store slots 0 to 3 of cluster 0 restored, and tagged for i8 without swizzle. -/
def tagged (m : Matrix) : State :=
  (inMat m {}).modCluster 0 (fun k => { k with tags := (List.range 4).map (fun n => (n, { valid := true })) })

/-- LST, STRM and STRC that run and that fault for alignment, and a stream of two rows. -/
theorem test_streaming_witness :
    (let m : Matrix := { run := some { running with wp := [(1, 0x800)] } }
     let s := tagged m
     (Instr.lst 0 0 0).wf = true ∧ (Instr.strm 0 31 0 0 0 0).wf = true ∧ (Instr.strc 5 0 0 0 0 3).wf = true ∧
     s.bandsOn 0 m.ashape = true ∧ s.osReady 0 0 (kEff m.ashape 0 * 128) = true ∧ s.osReady 0 0x800 (kEff m.ashape 0 * 128) = true ∧
     s.tagCheck 0 0 (kEff m.ashape 0 * 128) 0 0 = none ∧ 0x800 % 4096 ≠ 0 ∧ kEff m.ashape 0 * mSize 0 % 16 = 0) ∧
    (let k := Conv.ofWords 0x0000800800800000 0x0000100100000000 0x0000000000000001
     k.ok = true ∧ k.row 0 0 0 = .at 0) ∧
    (let p : Plane := { valid := true, keff := 128 }
     let m : Matrix := { run := some running, rings := [ring 0], active := p }
     let s := tagged m
     m.ringOf running.cmd.gid = some (ring 0) ∧ mAgree 0 m.active.fmt.toNat = true ∧
     (m.tile ((ring 0).phys 0)).acc = none ∧ s.osReady 0 0 (m.active.keff * mSize 0) = true ∧
     (streamRows running 0 0 3 31 [.masked] (s.useBands 0 m.ashape)).1 = none) := by decide +kernel

/-- Each engine event, due. -/
theorem test_matrix_events_witness :
    (∀ k ∈ [MKind.mswp, .mshape 1, .mcall 0 0 false false [], .mupld 0 0 1 0], let m : Matrix := { queue := [command k] }
      let s := ((inMat m {}).modCluster 0 (fun x => { x with routines := [(0, { state := 1 })], os := [(3, 0xD0)] }))
      (s.core 0).mat.run = none ∧ (s.core 0).mat.nextArray = some (command k) ∧ (s.core 0).mat.resumeOf 0 = none ∧
      s.osStored 0 (command k) = true ∧ s.uploadOrder 0 (command k) = true ∧
      (Tab.get ({} : Routine) (s.cluster 0).routines 0).state = 1 ∧ s.osReady 0 0 4 = true ∧ osFits 0 4 = true ∧
      routineOk (s.uploadWords 0 0 1) 0 = true) ∧
    (let g : EpCfg := { scaleAddr := 0, pitch := 512, out := 2, round := 0, sat := false, act := 0, sb := false, shd := false, oswz := 0 }
     let cfg := command (.epcfg g)
     let run := command (.eprun 0 false 0)
     let m : Matrix := { queue := [cfg] }
     let s := inMat m {}
     (s.core 0).mat.epRun = none ∧ run.token = none ∧ (s.core 0).mat.nextEpi = some cfg ∧ s.osStored 0 cfg = true ∧
     (let m : Matrix := { epRun := some (run, 30, 0), ep := some g, rings := [ring 1], tiles := [(3, { acc := some 2, cols := 128 })] }
      let s := inMat m {}
      (s.core 0).mat.ringOf run.gid = some (ring 1) ∧ ((s.core 0).mat.tile ((ring 1).phys (ring 1).tail)).acc = some 2 ∧
      osFits (30 * g.pitch) (g.size * 128) = true ∧ s.osReady 0 (30 * g.pitch) (g.size * 128) = true ∧ 30 + 1 < 32)) ∧
    (∀ x ∈ [({ gated := false } : Band), { gated := true, powering := true }],
      let s := { State.reset.modCluster 71 (fun k => { k with bands := [(3, x)] }) with time := 2000 }
      (s.cluster 71).band 3 = x ∧ x.lastUse + 2000 ≤ s.time) := by decide +kernel

/-! ## Memory, ordering and barriers -/

/-- Context 0 has one window over all addresses, to offsets that the caches of both H-dies map onto themselves, and every
scope. -/
def mapped (s : State) : State :=
  let w : Window := { limit := BitVec.allOnes 40, r := true, w := true, x := true, en := true }
  let e : TlbEnt := { ctx := 0, page := 0, frame := 0, size := 2 ^ 42, ro := false }
  let s := s.modCtx 0 (fun x => { x with win := [(0, w)], scopes := 15, state := 1, shpool := 32 })
  [0, 1].foldl (fun s h => s.modHdie h (fun d => { d with tlb := [e], nstep := 8 })) s

/-- A group whose a2 is 0x1000, a3 8, a4 a commons line, with entries in sq0 and iq. -/
def addresses : Machine.Group :=
  { a := [(2, 0x1000), (3, 8), (4, 2 ^ 41), (5, 0x10000), (6, 0x8001)]
    nq := { q := [(4, [⟨0, some 23⟩]), (7, [⟨1, some 0⟩])] }, nextId := 2 }

/-- What the checks find: nothing wrong, and whether a place is away from operand store. -/
def verdict (s : State) (q : Ask) (ws : List Want) : Option Bool :=
  match s.checks q ws none with
  | .go ps => some (ps.any (fun p => !p.isLocal))
  | _ => none

/-- The number of accesses in the cluster's queue after the syllable. -/
def queued (i : Instr) (s : State) : Nat :=
  match exec i s with
  | .next t => (t.cluster 0).outbound.length + (if t.here.off.isEmpty then 0 else 100) + (if t.here.stall.isNone then 0 else 100)
  | _ => 0

/-- The loads: issued away from operand store, and performed in it; misaligned, and outside every window. -/
theorem test_loads_witness :
    (∀ e ∈ [(Instr.ld, (⟨0, 0x05, 2, 0, 0x180000⟩ : Syl)), (.lda, ⟨0, 0x43, 2, 0, 0x780000⟩), (.vld, ⟨0, 0x40, 2, 0, 0x020000⟩),
        (.ldn, ⟨0, 0x40, 2, 0, 0x1C0000⟩), (.vlds, ⟨0, 0x43, 2, 3, 0x180000⟩), (.vldx, ⟨0, 0x40, 2, 0, 0x140000⟩),
        (.vldb, ⟨0, 0x40, 2, 0, 0x100000⟩)],
      let s := mapped (inSlot 4 addresses)
      (e.1 e.2).wf = true ∧ s.seated ∧ s.me.guardA 0 0 = true ∧ (s.ctx s.me.ctx).permits e.2.scope = true ∧
      (let y := { e.2 with imm := e.2.imm &&& 0xFDFFFF }; queued (e.1 y) s = 1)) ∧
    (let s := mapped (inSlot 4 addresses)
     let q : Ask := { need := Need.read, load := true, reads := true }
     let k : Ask := { q with os := true }
     let ws := oneWant 0x1000 8
     verdict s q ws = some true ∧ verdict s k ws = some false ∧ verdict s q (wholeWants s.me 0 0x1000) = some true ∧
     verdict s k (elementWants s.me 0 4 (fun e => 0x1000 + BitVec.ofNat 64 e * 8)) = some false ∧ s.localPending = false ∧
     s.waitsFor .load = [] ∧ ws.all (fun w => w.addr.toNat + w.len ≤ 0x600000) = true ∧
     (oneWant 0x1001 8).any (fun w => !w.aligned) = true ∧ (inSlot 4 addresses).places q ws = none) ∧
    (∀ e ∈ [(Instr.ld, (⟨0, 0x05, 2, 0, 0x980000⟩ : Syl)), (.vld, ⟨0, 0x40, 2, 0, 0x800000⟩), (.vldb, ⟨0, 0x40, 2, 0, 0x900000⟩)],
      (e.1 e.2).wf = true ∧ queued (e.1 e.2) (mapped (inSlot 4 addresses)) = 1) ∧
    (let s := mapped (inSlot 4 addresses)
     let t := s.modCluster 0 (fun k => { k with tags := [(1, { valid := true })] })
     (Instr.vldt ⟨0, 0x40, 2, 0, 0x800000⟩).wf = true ∧ queued (.vldt ⟨0, 0x40, 2, 0, 0x800000⟩) t = 1 ∧
     queued (.vldt ⟨0, 0x40, 2, 0, 0x800000⟩) s = 100 ∧ bare s = true ∧ OpenA (.pft ⟨0, 0, 2, 0, 0⟩) ⟨0, 0, 2, 0, 0⟩ 4 s ∧
     verdict s { need := Need.read, load := true, os := true, reads := true }
       [{ addr := 0x1000, len := 4, en := 15, aligned := true }] = some false) ∧
    (∀ n ∈ [0, 1], let y : Syl := ⟨0, 0, 2, 0, BitVec.ofNat 24 (0x800000 + n * 2 ^ 18)⟩
      let s := mapped (inSlot 5 addresses)
      OpenA (.clrt y) y 5 s ∧ verdict s { need := Need.write, store := true, os := true }
        [{ addr := 0x1000, len := 1, en := 1, aligned := true }] = some false ∧ s.localPending = false ∧ s.me.befW = []) := by decide +kernel

/-- The stores: issued, performed in operand store, misaligned, and outside every window. -/
theorem test_stores_witness :
    (∀ e ∈ [(Instr.st, (⟨0, 0, 2, 3, 0x180000⟩ : Syl)), (.stl, ⟨0, 0, 2, 3, 0x780000⟩), (.vst, ⟨0, 0, 2, 0x44, 0⟩),
        (.stnt, ⟨0, 0, 2, 0x48, 0⟩), (.vsts, ⟨0, 3, 2, 0x44, 0x180000⟩), (.vstx, ⟨0, 0, 2, 0x44, 0x140000⟩)],
      let s := mapped (inSlot 5 addresses)
      (e.1 e.2).wf = true ∧ s.seated ∧ (s.ctx s.me.ctx).permits e.2.scope = true ∧ queued (e.1 e.2) s = 1) ∧
    (let s := mapped (inSlot 5 addresses)
     let q : Ask := { need := Need.write, store := true }
     let ws := oneWant 0x1000 8
     verdict s q ws = some true ∧ verdict s { q with os := true } ws = some false ∧ s.hostDrain true [.dev 0x1000] = false ∧
     (oneWant 0x1001 8).any (fun w => !w.aligned) = true ∧ (inSlot 5 addresses).places q ws = none ∧ s.waitsFor .store = [] ∧
     s.localPending = false ∧ s.here.late.any s.me.takesPart = false ∧
     (let u := { s with here := { s.here with late := [.amo ⟨0, 5, 2, 3, 0x504000⟩] } }
      u.here.late.any u.me.takesPart = true ∧ verdict u { q with os := true } ws = some false)) ∧
    (match exec (.st ⟨0, 0, 2, 3, 0x980000⟩) (mapped (inSlot 5 addresses)) with
      | .next t => Tab.get 0 (t.cluster 0).os 0x1000
      | _ => 0) = 8 := by decide +kernel

/-- An access of one piece at device offset 0x1000. -/
def waiting (k : AccKind) (d : ADest) : Acc :=
  { id := 9, core := 0, bank := false, gid := 0, ctx := 0, smode := false, kind := k
    pieces := [{ place := .dev 0x1000, va := 0x1000, len := 8, off := 0, en := 0xFF }], data := if k = .store then 7 else 0, dst := d }

/-- A load and a store at their serving point, a store onto a deferred cell, data that arrives, and an arrival. -/
theorem test_performs_witness :
    (∀ a ∈ [waiting .load (.areg 5), waiting .store .none],
      let s := (mapped (base addresses)).modCluster 0 (fun k => { k with outbound := [a] })
      let u := s.setCell 64 cSUSPENDED
      (s.cluster 0).outbound.find? (fun b => b.id == 9) = some a ∧ (∀ p ∈ a.pieces, s.mayPerform 0 a p = true) ∧
      s.phys 0 0x1000 a.kind.writes = .ok 0x1000 ∧ a.acq = false ∧ regionKind 0x1000 ≤ 1 ∧ (s.lineMeta 64).poison = false ∧
      bare s = true ∧ s.cellOf 64 = cVALUE ∧ u.cellOf 64 ≠ cVALUE ∧
      (a.returns = decide (a.kind = .load)) ∧ s.find 0 = some (0, false) ∧ s.bank 0 false = some addresses ∧
      (match exec (.remoteAccessPerform 0 9 0) s with
        | .next t => (t.byteNow 0x1000, (t.cluster 0).outbound.length) == (if a.kind = .store then (7, 0) else (0, 1))
        | _ => false) = true) ∧
    (let a := { waiting .load (.areg 5) with done := true, pieces := [], data := 0x80, sz := 0, sx := true }
     let g := { addresses with busy := [(5, 9)] }
     let s := (mapped (base g)).modCluster 0 (fun k => { k with outbound := [a] })
     (s.cluster 0).outbound.find? (fun x => x.id == 9 && x.done) = some a ∧ s.find 0 = some (0, false) ∧ s.bank 0 false = some g ∧
     (match exec (.loadDataReturn 0 9) s with
       | .next t => decide ((t.bank 0 false).map (fun h => h.rdA 5) = some (BitVec.ofInt 64 (-128)))
       | _ => false) = true) ∧
    (let s := State.reset.modCluster 0 (fun k => { k with arrivals := [(1, 2, 1, false), (0, 31, 3, true)] })
     (s.cluster 0).arrivals[1]? = some (0, 31, 3, true) ∧
     (((s.cluster 0).arrivals.take 1).all (fun x => x.1 != 0 || x.2.1 != 31)) = true ∧ s.enabled 0 = true) := by decide +kernel

/-- The updates: each form issues one access; the new values at the ends of a width. -/
theorem test_updates_witness :
    (∀ e ∈ [(Instr.amo, (⟨0, 5, 2, 3, 0x504000⟩ : Syl)), (.cas, ⟨0, 5, 2, 3, 0x640080⟩), (.bank, ⟨0, 0, 4, 0x44, 0x210000⟩),
        (.rres, ⟨0, 5, 4, 0, 0⟩), (.rpub, ⟨0, 5, 4, 3, 0x200000⟩), (.ringvoid, ⟨0, 5, 4, 3, 0⟩),
        (.barvRemote, ⟨0, 0, 6, 0, 0x006C00⟩)],
      let g := { addresses with gstat := { mode := true }, a := [(2, 0x1000), (3, 8), (4, 2 ^ 41), (6, 3 * 2 ^ 40 + 0x20000)] }
      let s := mapped (inSlot 7 g)
      (e.1 e.2).wf = true ∧ s.seated ∧ s.me.guardA 0 0 = true ∧ (s.ctx 0).scopes = 15 ∧ s.me.gstat.mode = true ∧
      queued (e.1 e.2) s = 1) ∧
    (let s := mapped (inSlot 5 { addresses with a := [(4, 2 ^ 41)] })
     OpenA (.defer ⟨0, 0, 4, 0x44, 0⟩) ⟨0, 0, 4, 0x44, 0⟩ 5 s ∧ queued (.defer ⟨0, 0, 4, 0x44, 0⟩) s = 1 ∧
     s.deferChecks false { addr := 2 ^ 41, len := 64, en := 2 ^ 64 - 1, aligned := true } = .go [.dev (2 ^ 41)]) ∧
    (let t : Task := { id := 1, ctx := 0, block := {}, blockVa := 0, prio := 0, cls := 0, opidx := 0, tiles := 1, root := 3 }
     let h : Share := { id := 1, task := 1, ctx := 0, cluster := 0, lo := [], hi := [] }
     let s := { mapped (inSlot 5 { addresses with share := 1 }) with tasks := [t], shares := [h] }
     let s := s.modMeta (2 ^ 35) (fun m => { m with cell := cEVALUATING, eval := some { root := 3 } })
     s.deferChecks true { addr := 2 ^ 41, len := 64, en := 2 ^ 64 - 1, aligned := true } = .go [.dev (2 ^ 41)]) ∧
    amoNew 5 32 0x80000000 1 = 0x80000000 ∧ amoNew 8 32 0x80000000 1 = 0x80000000 ∧ amoNew 1 32 0xFFFFFFFF 1 = 0 ∧
    (AccKind.cas false 0xFFFFFFFF00000007).update 7 9 = some 9 ∧ (AccKind.cas true 8).update 7 9 = none ∧
    (255 : Nat) < 2048 / 8 ∧ (63 : Nat) < 2048 / 32 ∧ (31 : Nat) < 2048 / 64 ∧ (0 : Nat).testBit (4 * 63) = false := by decide +kernel

/-- FENCE and DRAIN; arrivals that fall short of a target, meet it and pass it; the barrier forms at the ends of their
ranges. -/
theorem test_barriers_witness :
    (let s := mapped (inSlot 7 addresses)
     OpenA (.fence ⟨0, 0, 0, 0, 0x3F⟩) ⟨0, 0, 0, 0, 0x3F⟩ 7 s ∧ OpenA (.drain ⟨0, 0, 0, 0, 0x600000⟩) ⟨0, 0, 0, 0, 0x600000⟩ 7 s ∧
     (s.ctx 0).permits 3 = true ∧ ((inSlot 7 addresses).ctx 0).permits 3 = false ∧ s.seated ∧ s.localPending = false ∧
     s.waitsFor .store = [] ∧ s.here.late.any s.me.takesPart = false ∧ s.enabled s.myCluster = true ∧
     (∀ y ∈ [(⟨0, 0, 0, 0, 0x0009F0⟩ : Syl), ⟨0, 0, 0, 0, 0x000C00⟩, ⟨0, 0, 0x50, 0, 0⟩, ⟨0, 0, 2, 0, 0x200⟩],
       (Instr.binit y).wf = (y.imm != 0x0009F0)) ∧
     OpenA (.barv ⟨0, 0, 0, 0, 0xFFE3F0⟩) ⟨0, 0, 0, 0, 0xFFE3F0⟩ 7 s ∧ OpenA (.barv ⟨0, 0, 0, 0xFF, 0⟩) ⟨0, 0, 0, 0xFF, 0⟩ 7 s ∧
     OpenA (.bwait ⟨0, 0x44, 0, 0, 0x407⟩) ⟨0, 0x44, 0, 0, 0x407⟩ 7 s ∧ OpenA (.bwait ⟨0, 0, 0, 0, 0x1F0⟩) ⟨0, 0, 0, 0, 0x1F0⟩ 7 s ∧
     OpenA (.btest ⟨0, 0x44, 0, 0, 0x3F7⟩) ⟨0, 0x44, 0, 0, 0x3F7⟩ 7 s) ∧
    (∀ v ∈ [(0 : Nat), 2 ^ 28 - 1, 2 ^ 28], (v = 0 ∨ 2 ^ 28 ≤ v) ∨ (v ≠ 0 ∧ v < 2 ^ 28)) ∧
    (let b : Barrier := { target := 2, current := 1 }
     b.arrive 0 true = { b with poison := true } ∧ b.arrive 1 true = { b with current := 0, ppois := true, phase := true, phases := 1 } ∧
     b.arrive 2 true = { b with current := 1, ppois := true, phase := true, phases := 1, poison := true } ∧ (b.arrive 3 false).phase = false ∧ (b.arrive 3 false).phases = 2 ∧
     ({} : Barrier).arrive 5 true = {}) := by decide +kernel

/-! ## The C slot, tasks and groups -/

/-- A group in slot `n` of a mapped device with these bytes of memory. -/
def stocked (n : Nat) (m : List Host.Cell) (g : Machine.Group) : State := { mapped (inSlot n g) with mem := m }

/-- What the syllable answers in its DST. -/
def answered (i : Instr) (s : State) : Option Word :=
  match exec i s with
  | .next t => if t.here.off.isEmpty && t.here.stall.isNone then (t.me.awr.getLast?).map (·.2.2) else none
  | _ => none

/-- Shape writes, channels with good and bad ranges, and event records. -/
theorem test_shapes_witness :
    (let s := stocked 6 [] { addresses with a := [(2, 0x40), (3, 8)] }
     OpenA (.shw ⟨0, 0, 2, 0, 0x1F⟩) ⟨0, 0, 2, 0, 0x1F⟩ 6 s ∧ OpenA (.shwi ⟨0, 0, 0, 0, 0x3FFFFF⟩) ⟨0, 0, 0, 0, 0x3FFFFF⟩ 6 s ∧
     OpenA (.chwm ⟨0, 0x43, 0, 0, 7⟩) ⟨0, 0x43, 0, 0, 7⟩ 6 s ∧ OpenA (.bufn ⟨0, 0, 0, 0, 0x3F⟩) ⟨0, 0, 0, 0, 0x3F⟩ 6 s ∧
     OpenA (.chcfg ⟨0, 0, 2, 2, 0xF⟩) ⟨0, 0, 2, 2, 0xF⟩ 6 s ∧ OpenA (.chcfg ⟨0, 0, 2, 3, 0⟩) ⟨0, 0, 2, 3, 0⟩ 6 s ∧
     (readA 2 s).1.toNat % 64 = 0 ∧ (readA 3 s).1.toNat % 64 ≠ 0 ∧
     OpenA (.evpop ⟨0, 5, 0, 0, 0⟩) ⟨0, 5, 0, 0, 0⟩ 6 s ∧ answered (.evpop ⟨0, 5, 0, 0, 0⟩) s = some (BitVec.allOnes 64)) ∧
    (let e : EvRec := { status := 0, kind := 1, lost := false, group := 0, gid := 0, tag := 3, time := 4 }
     let l := [{ e with kind := 2 }, { e with gid := 1 }] ++ e :: [e]
     [{ e with kind := 2 }, { e with gid := 1 }].all (fun e => !(e.gid == 0 && decide (e.kind ≤ 1))) = true ∧
     (e.gid == 0 && decide (e.kind ≤ 1)) = true ∧
     answered (.evpop ⟨0, 5, 0, 0, 0⟩) ((stocked 6 [] {}).modCluster 0 (fun k => { k with events := l })) = some e.word) ∧
    (let g : Machine.Group := { shPend := [{ left := 3, write := some (8, 0xFFFF, 5), flip := true, fresh := true }] }
     (Machine.Group.countShapes^[2] g).sh = [] ∧ Tab.get 0 (Machine.Group.countShapes^[3] g).sh 8 = 5 ∧
     (Machine.Group.countShapes^[3] g).ptr = true) := by decide +kernel

/-- A copy of nothing, of a line, of a misaligned line, and of no legal shape; a shadow opened, opened again, in the way, and
without room; published and dropped. -/
theorem test_copies_witness :
    (let y : Syl := ⟨0, 0, 2, 3, 0x001800⟩
     OpenA (.cpy y) y 6 (stocked 6 [] addresses) ∧ OpenA (.cpyg y) y 6 (stocked 6 [] addresses) ∧
     (Shape.ofWords [1, 1, 0, 0, 0, 0, 0, 0]).legal false = false ∧ (Shape.ofWords [0, 0, 0, 0, 0, 0, 0, 0]).legal false = true ∧
     (Shape.ofWords [0, 0, 0, 0, 0, 0, 0, 0]).total = 0 ∧
     (let h := Shape.ofWords [0x700, 1, 0, 0, 0, 0, 0, 0]
      h.legal false = true ∧ h.legal true = true ∧ h.total = 0) ∧
     (let h := Shape.ofWords [0x300, 1, 0, 0, 0, 0, 0, 0]
      h.legal false = true ∧ h.total = 1 ∧ sideAligned 0x1000 h.ext h.ss h.se = true ∧ sideAligned 0x1001 h.ext h.ss h.se = false ∧
      (stocked 6 [] addresses).sideInside false 0 false Need.read (bounds 0x1000 h.ext h.ss h.se) = true)) ∧
    (let y : Syl := ⟨0, 4, 5, 5, 1⟩
     let s := stocked 6 [] addresses
     let h : Shadow := { base := 0x10000, len := 0x10000, share := 0 }
     let withS := fun (l : List Shadow) => s.modCtx 0 (fun x => { x with shadows := l })
     OpenA (.sopen y) y 6 s ∧ s.bufferWindow 0 false 0x10000 0x10000 = true ∧ s.bufferPages 0x10000 0x10000 = none ∧
     s.bufferImage 0 0x10000 0x10000 = false ∧
     [s, withS [h], withS [{ h with len := 0x20000 }], withS (List.replicate 16 { h with base := 0x40000 })].map
       (answered (.sopen y)) = [some 0, some 1, some 3, some 2] ∧
     answered (.sdrop ⟨0, 4, 5, 0, 0⟩) s = some 1 ∧ answered (.sdrop ⟨0, 4, 5, 0, 0⟩) (withS [h]) = some 0 ∧
     OpenA (.pub ⟨0, 4, 5, 0, 0x600000⟩) ⟨0, 4, 5, 0, 0x600000⟩ 6 s ∧ answered (.pub ⟨0, 4, 5, 0, 0x600000⟩) s = some 1 ∧
     ((withS [h]).ctx 0).permits 3 = true ∧ (withS [h]).drained 0 3 0 = true ∧ addresses.befE = [] ∧ (withS [h]).bufferFail 0 0x10000 0x10000 = none ∧ (withS [h]).shadowBusy addresses h = false ∧
     (withS [h]).divisible addresses = false ∧ (withS [h]).gangGroup addresses = false ∧ (withS [h]).logFull = false ∧
     (withS [h]).bufferMoving 0 0x10000 0x10000 = false ∧ (withS [h]).bufferFault 0 0x10000 0x10000 = none ∧
     (let x : Block := { claim := 0, sched := 0x100 }
      let t : Task := { id := 1, ctx := 0, block := x, blockVa := 0, prio := 0, cls := 0, opidx := 0, tiles := 1, root := 3 }
      let k : Share := { id := 1, task := 1, ctx := 0, cluster := 0, lo := [], hi := [], gang := true }
      ({ withS [h] with tasks := [t], shares := [k] }).gangGroup { addresses with share := 1 } = true)) := by decide +kernel

/-- VDEC's access issued, and its answer: accepted, refused by a full queue, invalid; a handle made, refused and misaligned; RHSET in each of its actions. -/
theorem test_handles_witness :
    (let y : Syl := ⟨0, 4, 2, 0, 0x7F⟩
     let s := stocked 6 [] addresses
     let q : Ask := { need := Need.read, load := true, store := true, reads := true }
     OpenA (.vdec y) y 6 s ∧ s.seated ∧ s.checks q (lineWants 0x1000 1 64) none = .go [.dev 0x1000] ∧
     queued (.vdec y) s = 1 ∧
     (let a := { waiting (.vdec 31 true true) (.areg 4) with data := 2 ^ 80 + 2 ^ 96 + 2 ^ 166 + 2 ^ 179 }
      let d : Decode := { id := 1, cluster := 0, core := 0, bank := false, gid := 0, ctx := 0, share := 0, smode := false, desc := 0,
                          bar := 0, arr := false, ev := false }
      let full := { s with decodes := List.replicate 32 d }
      (VDesc.of (a.data.setWidth 512)).valid = true ∧ (s.acceptVdec a).1 = a.result 0 ∧ (full.acceptVdec a).1 = a.result 1 ∧
      (s.acceptVdec { a with data := 0 }).1.data = 2)) ∧
    (let y : Syl := ⟨0, 4, 5, 5, 7⟩
     let s := stocked 6 [] addresses
     let full := s.modCtx 0 (fun x => { x with handles := (List.range 64).map (fun n => (n, { used := true })) })
     OpenA (.rhnew y) y 6 s ∧ s.tensorHome 0 0x10000 0x10000 = true ∧
     ((s.ctx 0).windowAt 0x10000).any (fun w => decide (0x1FFFF ≤ w.high) && w.admits false {}) = true ∧
     answered (.rhnew y) s = some 0 ∧ answered (.rhnew y) full = some (BitVec.allOnes 64) ∧
     (∀ n ∈ [0, 1, 4, 5, 6], let y : Syl := ⟨0, 4, 0x50, 0, BitVec.ofNat 24 n⟩
       OpenA (.rhset y) y 6 s ∧ answered (.rhset y) s = some 1 ∧ answered (.rhset y) full = some 0)) := by decide +kernel

/-- A task of one cluster and its share. -/
def tasked (n : Nat) (st : ShState) (m : List Host.Cell) : State :=
  let x : Block := { claim := 0x0800_0000 + 16 * 2048 }
  let t : Task := { id := 1, ctx := 0, block := x, blockVa := 0, prio := 0, cls := 0, opidx := 0, tiles := 1, root := 3 }
  let h : Share := { id := 1, task := 1, ctx := 0, cluster := 0, lo := [], hi := [], state := st }
  { stocked n m { addresses with share := 1, a := [(1, 1), (2, 0x1000), (3, 0x1200), (5, 0x10000)], gstat := { mode := true } } with tasks := [t], shares := [h] }

/-- A block of one step in one cluster, at 0x1000, and a gang of device 0, at 0x1200. -/
def blockBytes : List Host.Cell :=
  [(0x101B, 0x08), (0x1040, 0x40), (0x1084, 1), (0x10A0, 1), (0x1200, 1), (0x1208, 0x10), (0x1209, 0x27)]

/-- A launch made and refused; tasks waited for, ended and running; slots allocated; gangs committed and launched. -/
theorem test_tasks_witness :
    (let s := tasked 7 .running blockBytes
     OpenA (.tlaunch ⟨0, 4, 2, 0, 0⟩) ⟨0, 4, 2, 0, 0⟩ 7 s ∧ s.seated ∧
     s.checks blockAsk (lineWants 0x1000 4 256) none = .go [.dev 0x1000, .dev 0x1040, .dev 0x1080, .dev 0x10C0] ∧
     s.readsLater [.dev 0x1000, .dev 0x1040, .dev 0x1080, .dev 0x10C0] = false ∧ s.shares.all (fun h => !h.heldBack) = true ∧
     answered (.tlaunch ⟨0, 4, 2, 0, 0⟩) s = some 1 ∧ answered (.tlaunch ⟨0, 4, 2, 0, 0⟩) (tasked 7 .running []) = some 0 ∧
     OpenA (.twait ⟨0, 4, 1, 0, 0⟩) ⟨0, 4, 1, 0, 0⟩ 7 s ∧ answered (.twait ⟨0, 4, 2, 0, 0⟩) s = some 1 ∧
     answered (.twait ⟨0, 4, 1, 0, 0⟩) s = none ∧ answered (.twait ⟨0, 4, 1, 0, 0⟩) (tasked 7 .ready []) = some 0 ∧
     OpenA (.tstat ⟨0, 4, 1, 0, 0⟩) ⟨0, 4, 1, 0, 0⟩ 7 s ∧ answered (.tstat ⟨0, 4, 1, 0, 0⟩) s = some 0x10002 ∧
     answered (.tstat ⟨0, 4, 1, 0, 0⟩) (tasked 7 .ready []) = some 0x10001 ∧ answered (.tstat ⟨0, 4, 2, 0, 0⟩) s = some 0 ∧
     OpenA (.spalloc ⟨0, 4, 5, 0, 15⟩) ⟨0, 4, 5, 0, 15⟩ 7 s ∧ answered (.spalloc ⟨0, 4, 5, 0, 15⟩) s = some 0 ∧
     answered (.spalloc ⟨0, 4, 0x50, 0, 15⟩) s = some (BitVec.allOnes 64) ∧ OpenA (.spfree ⟨0, 0, 0, 0, 15⟩) ⟨0, 0, 0, 0, 15⟩ 7 s ∧
     (s.share s.me.share).isSome = true) ∧
    (let s := tasked 7 .running blockBytes
     let r : GangRec := { id := 1, members := [0], lead := 10000, block := [], sentAt := 0, cluster := 0, ctx := 0 }
     let on := fun (st : Option Nat) => s.modCtx 0 (fun x => { x with gangs := [{ r with status := st }] })
     OpenA (.gcommit ⟨0, 4, 1, 0, 1⟩) ⟨0, 4, 1, 0, 1⟩ 7 s ∧
     [s, on none, on (some 3), on (some 0)].map (answered (.gcommit ⟨0, 4, 1, 0, 0⟩)) = [some 1, some 2, some 1, none] ∧
     OpenA (.glaunch ⟨0, 4, 2, 3, 0⟩) ⟨0, 4, 2, 3, 0⟩ 7 s ∧
     s.checks blockAsk (lineWants 0x1000 4 256 ++ lineWants 0x1200 2 128) none =
       .go [.dev 0x1000, .dev 0x1040, .dev 0x1080, .dev 0x10C0, .dev 0x1200, .dev 0x1240] ∧
     s.readsLater [.dev 0x1000, .dev 0x1040, .dev 0x1080, .dev 0x10C0, .dev 0x1200, .dev 0x1240] = false ∧ gangMembers ((s.loadBytes [.dev 0x1200] 128).1) = some (10000, [0]) ∧
     answered (.glaunch ⟨0, 4, 2, 3, 0⟩) s = some 1 ∧ answered (.glaunch ⟨0, 4, 2, 3, 0⟩) (tasked 7 .running []) = some 0) := by
  decide +kernel

/-- SPAWN onto an empty core, an occupied one, beside another context's group, without room, and from a misaligned entry. -/
theorem test_spawn_witness :
    (let s := tasked 7 .running []
     let y : Syl := ⟨0, 0, 5, 1, 24⟩
     OpenA (.spawn y) y 7 s ∧ (s.core 1).bank (s.core 1).front = none ∧ s.roomForGroup s.me = true ∧ (s.me.rdA 5).toNat % 8 = 0 ∧
     ((s.core 1).bank (!(s.core 1).front)).all (fun h => h.ctx == s.me.ctx) = true ∧
     ((s.core 0).bank (s.core 0).front).isSome = true ∧ OpenA (.spawn { y with srcb := 0x50 }) { y with srcb := 0x50 } 7 s ∧
     OpenA (.spawn { y with srca := 1 }) { y with srca := 1 } 7 s ∧ (s.me.rdA 1).toNat % 8 ≠ 0 ∧
     (let t := s.modCore 1 (fun k => { k with bank1 := some { ctx := 7 } })
      ((t.core 1).bank (!(t.core 1).front)).any (fun h => h.ctx != t.me.ctx) = true) ∧
     (s.modShare 1 (fun h => { h with groups := List.range 8 })).roomForGroup s.me = false ∧
     (match exec (.spawn y) s with
       | .next t => decide ((t.front 1).map (fun n => (n.apc, n.rdA 1)) = some (0x10000, 0))
       | _ => false) = true) := by decide +kernel

/-- FUSE first, refused and last of its set, with and against its partner; windows set, refused and in the way; GSWAP with
and without another context's share; both in U mode. -/
theorem test_groups_witness :
    (let s := tasked 7 .running []
     (∀ i ∈ [Instr.yield, .decpl, .sege, .rejoin], OpenA (i ⟨0, 0, 0, 0, 0⟩) ⟨0, 0, 0, 0, 0⟩ 7 s) ∧ s.seated ∧
     s.me.gstat.fused = false ∧ s.me.gstat.fwidth = 0 ∧
     OpenA (.rdv ⟨0, 0, 0, 0, 15⟩) ⟨0, 0, 0, 0, 15⟩ 7 s ∧ OpenA (.fuse ⟨0, 0, 0, 0, 2⟩) ⟨0, 0, 0, 0, 2⟩ 7 s ∧
     (let ps := ((fusionSet 0 2).filter (· != 0)).filterMap s.front
      ps.all (fun p => p.share == s.me.share) = true ∧ ps.length + 1 < (fusionSet 0 2).length) ∧
     (let t := s.modCore 1 (fun k => { k with bank0 := some { share := 9 } })
      ((((fusionSet 0 1).filter (· != 0)).filterMap t.front).any (fun p => p.share != t.me.share)) = true) ∧
     (let t := s.modCore 1 (fun k => { k with bank0 := some { share := 1, holds := [.fuse 1 0 false] } })
      let ps := ((fusionSet 0 1).filter (· != 0)).filterMap t.front
      ps.all (fun p => p.share == t.me.share) = true ∧ ps.length + 1 = (fusionSet 0 1).length ∧ t.me.gstat.fused = false ∧
      ps.all (fun p => p.fuseHold.isSome) = true ∧
      ps.all (fun p => !p.gstat.fused && p.fuseHold == some ((1 : BitVec 2), t.here.addr, false)) = true ∧
      ps.all (fun p => !p.gstat.fused && p.fuseHold == some ((2 : BitVec 2), t.here.addr, false)) = false)) ∧
    (let y : Syl := ⟨0, 4, 2, 0, 15⟩
     OpenA (.winw y) y 7 (mapped (inSlot 7 addresses)) ∧ (mapped (inSlot 7 addresses)).me.gstat.mode = false ∧
     OpenA (.gswap ⟨0, 4, 0, 0, 0⟩) ⟨0, 4, 0, 0, 0⟩ 7 (mapped (inSlot 7 addresses)) ∧
     OpenA (.winw y) y 7 (tasked 7 .running []) ∧ (tasked 7 .running []).readsLater [.dev 0x1000] = false ∧ (tasked 7 .running []).me.gstat.mode = true ∧
     answered (.winw y) (tasked 7 .running []) = some 0 ∧ answered (.winw y) (tasked 7 .running [(0x1018, 1)]) = some 1 ∧
     answered (.winw y) (tasked 7 .running [(0x1018, 0x40)]) = some 2) ∧
    (let s := tasked 7 .ready []
     let h : Share := { id := 2, task := 1, ctx := 1, cluster := 0, lo := [], hi := [], state := .ready }
     let t := { s with shares := s.shares ++ [h] }.modCluster 0 (fun k => { k with launchQ := [1, 2] }) |>.modCtx 1 (fun x => { x with state := 1 })
     OpenA (.gswap ⟨0, 4, 0, 0, 0⟩) ⟨0, 4, 0, 0, 0⟩ 7 s ∧ answered (.gswap ⟨0, 4, 0, 0, 0⟩) s = some 1 ∧
     (t.firstOf ((t.candidates t.myCluster).filter (fun h => h.ctx != t.me.ctx))).map (·.ctx) = some 1 ∧
     answered (.gswap ⟨0, 4, 0, 0, 0⟩) t = some 0) := by decide +kernel

/-- Boundaries where YIELD exchanges the banks and where it does not, and where DECPL parts a pair; a bundle of one SEGE that
opens a segment, and that the lead holds back; RDV with a partner that has rewound and without. -/
theorem test_group_boundaries_witness :
    (let g : Machine.Group := { yieldReq := true }
     ∀ x ∈ [none, some ({ gid := 1 } : Machine.Group)], let s := (base g).modCore 0 (fun k => { k with bank1 := x })
       s.members 0 = [0] ∧ s.fusedSet 0 = [0] ∧ s.switchSet 0 = [0] ∧ s.front 0 = some g ∧ g.quiet = true ∧ g.between = true ∧
       (((s.core 0).bank true).any (fun h => h.ctx == g.ctx) && s.shadowReady 0) = x.isSome ∧
       ((s.doYield 0).core 0).front = x.isSome) ∧
    (let g : Machine.Group := { decplReq := some 0, gstat := { fused := true, fwidth := 1 } }
     let s := (base g).modCore 1 (fun k => { k with bank0 := some { g with gid := 1, decplReq := none } })
     s.members 0 = s.fusedSet 0 ∧ (s.members 0).any (fun k => (s.front k).any (·.decplReq.isSome)) = true ∧ s.quietAll (s.members 0) = true ∧
     s.members 0 = [0, 1] ∧ g.hist.length ≤ g.bundles) ∧
    (let g : Machine.Group := { hist := [0], segNext := false }
     let f : FLine := { va := 0, data := some (BitVec.ofNat 512 0xF038000000000000) }
     let s := (base g).modCore 0 (fun k => { k with fetch := [f] })
     s.bundle 0 g.apc = .ok [(7, some (.sege ⟨0, 0, 0, 0, 0⟩))] ∧ s.front 0 = some g ∧ g.guardA 0 0 = true ∧ g.midA = false ∧
     g.atEntry = false ∧ g.hist ≠ [] ∧ g.hist.length < 64 ∧ g.endA = false ∧ g.awaitBqe = false ∧ s.waits 0 g = 0 ∧
     s.freezeA1 0 = 9) ∧
    (let g : Machine.Group := { holds := [.rdv 2], share := 3 }
     ∀ r ∈ [false, true], let s := (base g).modCore 1 (fun k => { k with bank0 := some { share := 3 }, rewound := if r then [(0, 3)] else [] })
       (s.core 1).rewindPend = r ∧ g.pageWait = none ∧ g.parked = none ∧ s.lateWait 0 g = false ∧ s.waits 0 g = if r then 3 else 0) := by decide +kernel

/-! ## Events of the streams, the engines and the dies -/

/-- A line asked for and one ahead of it; landings, a trap, a switch, a rewind, a fusion and a refill that are due. -/
theorem test_stream_events_witness :
    (let s := mapped (base {})
     bare s = true ∧ s.fetcher 0 = 0 ∧ s.front 0 = some {} ∧ (s.core 0).fetch = [] ∧ (s.members 0).any (fun k => (s.demanded k).contains 0) = true ∧
     s.reach 0 false Need.fetch 0 = .dev 0 ∧ regionKind 0 ≠ 2 ∧ s.cellOf 0 = cVALUE ∧ (s.lineMeta 0).poison = false ∧
     (s.modCtx 0 (fun x => { x with win := [(0, { limit := 1, x := true, host := true, en := true })] })).reach 0 false Need.fetch 64 =
       .host 64) ∧
    (∀ g ∈ [({ endX := true } : Machine.Group), { holdLeft := 1 }], (base g).members 0 = [0] ∧ (base g).front 0 = some g ∧ g.dead = none ∧ g.slotX = 0) ∧
    (let g : Machine.Group := { parked := some 5, frozenAt := some 0 }
     let s := { (base g).modCore 0 (fun k => { k with bank1 := some { gid := 1 } }) with time := 2001 }
     s.members 0 = [0] ∧ s.fusedSet 0 = [0] ∧ s.switchSet 0 = [0] ∧ s.front 0 = some g ∧ g.entering = false ∧
     s.switchable 0 g = true ∧ s.shadowReady 0 = true ∧
     (match exec (.groupSwitch 0) s with
       | .next t => decide ((t.front 0).map (·.gid) = some 1)
       | _ => false) = true) ∧
    (let g : Machine.Group := { parked := some 5, live := 1, seg := { addr := 64 }, segNext := false }
     let s := (base g).modCtx 0 (fun x => { x with halt := true })
     s.bank 0 false = some g ∧ g.gstat.fused = false ∧ g.entering = false ∧ g.segNext = false ∧ g.quiet = false ∧
     s.stopAsked 0 = true ∧ s.bankStopped 0 false = true ∧
     (match exec (.rewind 0 false) s with
       | .next t => decide ((t.bank 0 false).map (fun h => (h.apc, h.xpc, h.live)) = some (64, 64, 0))
       | _ => false) = true) ∧
    (let g : Machine.Group := { holds := [.fuse 1 8 false] }
     let s := (base g).modCore 1 (fun k => { k with bank0 := some { g with gid := 1 } })
     g.fuseHold = some (1, 8, false) ∧ fusionSet 0 1 = [0, 1] ∧
     (∀ k ∈ fusionSet 0 1, (s.front k).any (fun h => h.fuseHold == some (1, 8, false) && h.hist.isEmpty && !h.gstat.fused &&
       h.trapPend.isNone && !h.midA) = true) ∧
     (match exec (.fusionJoin 0) s with
       | .next t => decide ((t.front 1).map (fun h => (h.gstat.fused, h.gstat.fidx)) = some (true, 1))
       | _ => false) = true) ∧
    (base {}).front 0 = some {} ∧ ({} : Machine.Group).rbq.length < 8 := by decide +kernel

/-- A copy of one byte within operand store. -/
def oneByte : Copy :=
  { id := 3, core := 0, bank := false, gid := 0, ctx := 0, share := 0, smode := false, seq := 0, time := 0, dst := 0x5FFFFF, src := 7,
    dos := true, sos := true, shd := false, chan := none, bar := 0, arr := true, rc := 0, ev := true, buf := 0,
    shape := [0, 1, 0, 0, 0, 0, 0, 0], gather := false }

/-- A copy that may start, that runs and that has moved, and a merge; a decode that is queued and one that has ended. -/
theorem test_engine_events_witness :
    (let on := fun (c : Copy) => State.reset.modCluster 0 (fun k => { k with ctx := some 0, copies := [c], os := [(7, 9)] })
     ((on oneByte).cluster 0).copy 3 = some oneByte ∧ (on oneByte).mayStart 0 oneByte = true ∧
     (let h := oneByte.sh
      (sideAddr oneByte.src (h.index 0) h.ss).toNat = 7 ∧ swzAddr h.swz (sideAddr oneByte.dst (h.index 0) h.ds).toNat = 0x5FFFFF ∧
      h.se = 1 ∧ h.total = 1) ∧
     ((on oneByte).tag 0 0).poison = false ∧ ((on oneByte).cluster 0).unrestored = [] ∧ (on oneByte).enabled 0 = true ∧
     ((on oneByte).cluster 0).events.length + 16 ≤ 128 ∧
     (match exec (.copyElement 0 3) (on { oneByte with started := true }) with
       | .next t => decide ((t.cluster 0).os = [(7, 9), (0x5FFFFF, 9)])
       | _ => false) = true ∧
     (match exec (.copyComplete 0 3) (on { oneByte with started := true, moved := true }) with
       | .next t => decide ((t.cluster 0).copies = [] ∧ (t.cluster 0).events.length = 1)
       | _ => false) = true ∧
     ((on { oneByte with moved := true, merge := some 0x10000 }).cluster 0).copy 3 =
       some { oneByte with moved := true, merge := some 0x10000 }) ∧
    (let d : Decode := { id := 1, cluster := 0, core := 0, bank := false, gid := 0, ctx := 0, share := 0, smode := false, desc := 0,
                         bar := 0, arr := false, ev := false }
     let s := { mapped (base {}) with decodes := [d] }
     let t := { mapped (base {}) with decodes := [{ d with decoder := some 0 }] }
     s.decodes.find? (fun d => d.decoder.isNone) = some d ∧ 0 < s.board.decoders ∧ s.decoding 0 = none ∧
     t.decoding 0 = some { d with decoder := some 0 } ∧ (VDesc.of d.desc).nframes ≤ d.next ∧
     (t.hwWrite 0 0 (completionWord 0 0 0) (some (t.stampOf 0 0)) []).1 = .done) := by decide +kernel

/-- Slots written to operand store leave the contexts and the board. -/
theorem putSlots_keeps (cl ctx share : Nat) (t : Tag) (l : List (List Byte)) : ∀ (s : State) (slot : Nat),
    (s.putSlots cl ctx share t slot l).ctxs = s.ctxs ∧ (s.putSlots cl ctx share t slot l).board = s.board := by
  induction l with
  | nil => intro s slot; exact ⟨rfl, rfl⟩
  | cons b l ih =>
    intro s slot
    have h : (s.osHeldPut cl ctx share slot b t).ctxs = s.ctxs ∧ (s.osHeldPut cl ctx share slot b t).board = s.board := by
      unfold State.osHeldPut
      dsimp only
      split
      · exact ⟨rfl, rfl⟩
      · split <;> exact ⟨rfl, rfl⟩
    exact ⟨(ih _ _).1.trans h.1, (ih _ _).2.trans h.2⟩

/-- A decode of one frame whose bitstream lies outside every window, and whose status word goes to host memory. -/
def oneFrame : Decode :=
  { id := 1, cluster := 0, core := 0, bank := false, gid := 0, ctx := 0, share := 0, smode := false, bar := 0, arr := true, ev := false
    decoder := some 0
    desc := BitVec.ofNat 512 (2 ^ 57 + (2 ^ 32 + 2 ^ 16) * 2 ^ 64 + (2 ^ 51 + 2 ^ 38) * 2 ^ 128) }

/-- The device of that decode. -/
def decoding : State :=
  { State.reset with decodes := [oneFrame], ctxs := [(0, { win := [(0, { limit := 1, w := true, host := true, en := true })] })] }

/-- A frame is due whatever the decoder's free values are: no read waits, and the status word is written. -/
theorem test_frame_witness :
    decoding.decoding 0 = some oneFrame ∧ oneFrame.token = none ∧ oneFrame.ended = none ∧
    oneFrame.next < (VDesc.of oneFrame.desc).nframes ∧
    (∀ l : List Nat, l.all (fun i => decoding.streamWait oneFrame (VDesc.of oneFrame.desc) i == none) = true) ∧
    ∀ t slot bytes word, ∃ u, (decoding.putSlots 0 0 0 t slot bytes).hwWrite 0 ((VDesc.of oneFrame.desc).staddr + 8 * 0) word none [] =
      (.done, u) := by
  refine ⟨by decide +kernel, rfl, rfl, by decide +kernel, fun l => ?_, fun t slot bytes word => ?_⟩
  · refine List.all_eq_true.2 (fun i _ => ?_)
    have h : 2 ^ 56 ≤ (VDesc.of oneFrame.desc).bsaddr + i := Nat.le_trans (by decide +kernel) (Nat.le_add_right _ i)
    have p : decoding.place oneFrame.ctx oneFrame.smode Need.read ((VDesc.of oneFrame.desc).bsaddr + i) = none := if_pos h
    unfold State.streamWait State.reach
    rw [p]
    rfl
  · have k := putSlots_keeps 0 0 0 t bytes decoding slot
    have p : (decoding.putSlots 0 0 0 t slot bytes).place 0 true Need.write ((VDesc.of oneFrame.desc).staddr + 8 * 0) = some (.host 0) := by
      have e : decoding.place 0 true Need.write ((VDesc.of oneFrame.desc).staddr + 8 * 0) = some (.host 0) := by decide +kernel
      unfold State.place State.ctx at e ⊢
      rw [k.1, k.2]
      exact e
    exact ⟨_, by unfold State.hwWrite State.reach; rw [p]⟩

/-- A die whose LLC holds nothing has a bank with a free way. -/
theorem test_free_bank_witness (ln : Nat) : (State.reset.hdie 1).freeBanks ln ≠ [] := by
  have ways : 0 < Config.llcWays := Nat.two_pow_pos _
  have e : (State.reset.hdie 1).llc = [] := by decide +kernel
  have on : 63 ∈ (State.reset.hdie 1).poweredBanks := by decide +kernel
  refine List.ne_nil_of_mem (a := 63) (List.mem_filter.2 ⟨on, ?_⟩)
  simp [HDie.setOf, e, ways]

/-- Events of the dies that are due: fills, records and tokens, invalidations, migrations, frames, the split, windows. -/
theorem test_die_events_witness :
    (let s := ((mapped State.reset).modCluster 0 (fun k => { k with outbound := [waiting .load (.areg 5)] })).modHdie 0
       (fun d => { d with nstep := 0 })
     s.wants 64 = [none] ∧ s.uncached 64 = false ∧ s.cached 64 = none ∧ s.fwinAt 4096 = none ∧ Machine.tagged 4096 = true ∧
     s.populated 4096 = true ∧ (s.hdie (ownerOf 4096)).room 64 1 = true) ∧
    (let s := State.reset.modCtx 0 (fun x => { x with handles := [(63, { used := true, base := 0x10000, len := 0x10000, act := 1 })] })
     (s.handle 0 63).act = 1) ∧
    (let r : FRec := { page := 0x1000, kind := 6, ctx := 0, gen := 0, count := 1, token := 8192, time := 0 }
     let s := State.reset.modHdie 1 (fun d => { d with recs := [r], noToken := [r], frbase := 6 })
     (s.hdie 1).recs = [r] ∧ ((s.hdie 1).frbase.extractLsb' 0 5).toNat = 6 ∧
     ((s.hdie 1).frhead - (s.hdie 1).frtail).toNat < 2 ^ 6 ∧ (s.hdie 1).noToken = [r] ∧ (s.hdie 1).freeToken = some 0) ∧
    (let k : Token := { num := 8191, ctx := 0, gen := 0, page := 0x1000, kind := 1, count := 1, time := 0 }
     let s := State.reset.modHdie 0 (fun d => { d with tokens := [k], tlbinv := some 0 })
     let w : Word := 8191
     (s.hdie 0).tokens.find? (fun t => t.num == (w.extractLsb' 0 13).toNat) = some k ∧ (s.ctx 0).gen = w.extractLsb' 32 32 ∧
     w.extractLsb' 30 2 = 0 ∧ (s.hdie 0).held = [] ∧ (s.hdie 0).tlbinv = some 0 ∧ (State.reset.hdie 1).tlbinv = none) ∧
    (let e : TlbEnt := { ctx := 0, page := 0, frame := 0, size := 2 ^ 30, ro := false }
     let s := { State.reset with mem := [(0x10000, 1), (0x10001, 0x10), (0x10002, 1), (0x11000, 3)] }
     let s := s.modCtx 0 (fun x => { x with ptroot0 := 0x10000 })
     let w : Word := 0xB000000000000000
     w.getLsbD 63 = true ∧ (s.hdie 0).migBusy = false ∧ regionKind 0 ≠ 3 ∧ ownerOf 0 = 0 ∧
     s.walkFrom 0 0 [39, 30, 21, 12] (ptroot (s.ctx 0) 0) = .leaf e ∧ s.migrOf 0 0 = none ∧
     [4096, 65536, 2 ^ 21, 2 ^ 30].getD (w.extractLsb' 60 2).toNat 0 = e.size ∧ s.frameOk 0 (2 ^ 30) e.size = true ∧
     s.frameOk 0 4096 e.size = false ∧ s.windowRange 0 0 e.size = false) ∧
    (let m : Migr := { ctx := 0, page := 0, size := 65536, src := 0, dst := 65536, pte := 0, next := 14 }
     let s := State.reset.modHdie 0 (fun d => { d with migr := [m] })
     (s.hdie 0).migr.find? (fun m => m.page == 0) = some m ∧ 4096 * (m.next + 1) < m.size ∧ (s.hdie 0).stall = [] ∧
     bare s = true ∧ m.src % 4096 = 0 ∧ m.dst % 4096 = 0 ∧
     (m.src + 4096 * m.next) / 64 ≠ (m.dst + 4096 * m.next) / 64) ∧
    (∀ e ∈ [(0x0000000000001000, 0, true), (0x0100010000000000, 1, false)], let w : Word := BitVec.ofNat 64 e.1
      let frame := (w.extractLsb' 12 40).toNat * 4096
      (w.extractLsb' 56 2).toNat = e.2.1 ∧ State.reset.populated frame = true ∧ State.reset.populated (frame + 4095) = true ∧
      ownerOf frame = 0 ∧ isHbm frame = e.2.2 ∧ isHbm (frame + 4095) = e.2.2 ∧ isPark frame = !e.2.2 ∧ isPark (frame + 4095) = !e.2.2) ∧
    State.reset.board.withdrawn = [] ∧ State.reset.board.leaving = [] ∧ (State.reset.hdie 0).pool.length < 4096 ∧
    ((8 : Word).extractLsb' 0 4).toNat ≤ 8 ∧ (State.reset.hdie 1).splitBusy = false ∧ 8 ≠ (State.reset.hdie 1).nstep ∧
    ((State.reset.modHdie 1 (fun d => { d with splitBusy := true, nstepNew := 8 })).hdie 1).splitBusy = true ∧
    (let s := State.reset
     let good : Fwin := { img := 1, units := 1, enc := 0x1000, aux := 0x4000 }
     (s.fwin 1 31).en = false ∧ s.fwinOk 0 31 {} = false ∧ s.fwinOk 0 31 good = true ∧ ({ good with en := true } : Fwin).closing = false) := by
  decide +kernel

/-! ## Events of shares, cells and contexts -/

/-- A task of one step, and its share in cluster 0 of context 0, in the state given. -/
def oneStep : Task :=
  { id := 1, ctx := 0, blockVa := 0x1000, prio := 0, cls := 0, opidx := 0, tiles := 1, root := 3
    block := { claim := 0x08000000, ops := [0x40], lo := [0, 0, 0, 0], hi := [1, 1, 1, 1], step := [1], grain := [0], allow := 5 } }

def oneShare (st : ShState) : Share :=
  { id := 1, task := 1, ctx := 0, cluster := 0, state := st, lo := [0, 0, 0, 0], hi := [1, 1, 1, 1] }

/-- A device that runs context 0 in cluster 0, with that share. -/
def sharing (h : Share) : State :=
  { mapped (base {}) with tasks := [oneStep], shares := [h], time := 100, cores := [] }.modCluster 0
    (fun k => { k with ctx := some 0, launchQ := if h.state = ShState.ready then [1] else [] })

/-- A context whose launch ring at 0x2000 names the block at 0x1000. -/
def ringed (m : List Host.Cell) : State :=
  { mapped State.reset with mem := m ++ [(0x2001, 0x10)] }.modCtx 0 (fun x => { x with lren := true, lrtail := 1, lrbase := 0x80, lrlog := 6 })

/-- Launch records good and bad; overflow; a share in each state that an event ends. -/
theorem test_share_events_witness :
    (let s := ringed (blockBytes.take 4)
     (s.ctx 0).state = 1 ∧ (s.ctx 0).lrhead ≠ (s.ctx 0).lrtail ∧ (s.ctx 0).lrToken = none ∧ (s.ctx 0).lrOpen = false ∧
     (match s.hwBytes 0 0x2000 1, s.hwBytes 0 0x1000 4 with
       | .ok r, .ok bs => decide (bytesAt r 0x18 40 = 0 ∧ bytesAt r 0 8 = 0x1000 ∧ s.blockValid 0 (Block.ofBytes bs) = true)
           && (s.launch 0 (Block.ofBytes bs) 0x1000 { root := none, path := [], depth := 0 }).isSome
       | _, _ => false) = true ∧
     (match s.hwBytes 0 0x2000 1, (ringed (blockBytes.take 4 ++ [(0x2000, 1)])).hwBytes 0 0x2000 1 with
       | .ok _, .ok r => bytesAt r 0 8 % 256 == 1
       | _, _ => false) = true) ∧
    (let o : Ovf := { share := 1, cluster := 0, first := false }
     let s := (sharing (oneShare .ready)).modCtx 63 (fun x => { x with ovf := [o] })
     s.oldestOvf (s.overflowed 0) = some (63, o) ∧ s.queueRoom 0 = true ∧ s.shares.all (fun h => !h.heldBack) = true) ∧
    (let h := oneShare .waiting
     let s := sharing h
     s.share 1 = some h ∧ s.task h.task = some oneStep ∧ h.token = none ∧ s.predsReached h.ctx oneStep.block = true) ∧
    (let g : Machine.Group := { share := 1, endX := true, endA := true }
     let s := (sharing (oneShare .running)).modCore 0 (fun k => { k with bank0 := some g })
     s.bank 0 false = some g ∧ g.ended = true ∧ g.dead = none ∧ g.gstat.valid = false ∧ g.fault = none ∧ g.lateFault = none ∧ (s.bank 0 true).all (fun h => !h.gstat.fused) = true ∧
     ({ g with dead := some (ALIGN, ILLOP) } : Machine.Group).dead = some (ALIGN, ILLOP)) ∧
    (let h := { oneShare .running with next := 1, began := some 94 }
     let s := sharing h
     s.shareDone h oneStep = true ∧ h.gang = false ∧ (s.ctx 0).marked 1 = [] ∧ s.board.log.length ≤ 4096 ∧ oneStep.block.allow ≠ 0 ∧
     94 + oneStep.block.allow < s.time) ∧
    (let h := { oneShare .aborting with mark := 3 }
     (sharing h).shareStopped 1 = true) ∧
    (let g : Machine.Group := { holds := [.adopted 7 4] }
     let s := (sharing (oneShare .running)).modCore 0 (fun k => { k with parents := [g] })
     (s.core 0).emptyBank = some false ∧
     (s.core 0).parents.find? (fun g => s.mayReturn 0 g && g.adoptedTask.all (fun t => !((s.task t).map (·.live)).getD false)) = some g) := by
  decide +kernel

/-- A time at which a rotation of slots of `w` ns and phase `p` stands at slot 10 of a round. -/
def awayFor (w p : Nat) : Nat := w * (37 * (p + 1) + 10) - p

theorem awayFor_sum (w p : Nat) (h : 0 < w) : awayFor w p + p = w * (37 * (p + 1) + 10) :=
  Nat.sub_add_cancel (Nat.le_trans (by omega) (Nat.le_mul_of_pos_left _ h))

theorem slot_of_sum (d t k : Nat) (ht : t + Config.eclipsePhase d = 620000 * k) : eclipseSlot d t = k := by
  rw [eclipseSlot, ht, Nat.mul_div_cancel_left _ (by decide)]

theorem away_mod (p j : Nat) (h : j < 4) : (37 * (p + 1) + 10 + j) % 37 = 10 + j := by omega

/-- Then no eclipse is near for the first cores of die 0. -/
theorem near_away (s : State) (c : Nat) (hc : c < 10) (ht : s.time = awayFor 620000 (Config.eclipsePhase 0)) (hs : s.board.shifts = []) :
    s.nearSlot c = false := by
  have slot : eclipseSlot 0 s.time = 37 * (Config.eclipsePhase 0 + 1) + 10 :=
    slot_of_sum _ _ _ (ht ▸ awayFor_sum 620000 _ (by decide))
  have core : ∀ j < 4, (s.board.slotCore 0 (eclipseSlot 0 s.time + j) == some c) = false := fun j hj => by
    have t : 10 + j < 36 := by omega
    have d : 36 * 0 + (10 + j) ≠ c := by omega
    rw [slot]
    simp only [Board.slotCore, Board.shiftOf, hs, Tab.get, List.find?_nil, Option.map_none, coreOfSlot, away_mod _ j hj, if_pos t,
      beq_eq_false_iff_ne, ne_eq, Option.some.injEq, d, not_false_eq_true]
  have h0 : c / 36 = 0 := Nat.div_eq_of_lt (by omega)
  have c0 := core 0 (by decide)
  rw [Nat.add_zero] at c0
  simp only [State.nearSlot, State.inSlot, h0, c0, List.any_cons, List.any_nil, core 1 (by decide), core 2 (by decide),
    core 3 (by decide), Bool.false_and, Bool.or_self, Bool.and_false]

/-- A share that its cluster chooses, on a core that is open to it, and one whose next step is dealt. -/
theorem test_choice_witness :
    (let h := oneShare .ready
     let s := { sharing h with time := awayFor 620000 (Config.eclipsePhase 0) }
     s.enabled 0 = true ∧ s.dieGated 0 = false ∧ (s.cluster 0).switchTo = none ∧ (s.cluster 0).ctx = some h.ctx ∧ s.share h.id = some h ∧
     s.candidates 0 = [h] ∧ s.coreOpen 3 = true ∧ s.shares.all (fun x => x.cluster != 0 || !(x.state == .running || x.state == .aborting)) = true) ∧
    (let h := oneShare .running
     let s := { sharing h with time := awayFor 620000 (Config.eclipsePhase 0) }
     s.firstOf ((s.runningIn (0 / 4)).filter (s.mayBegin 0)) = some h ∧ s.share h.id = some h ∧ s.task h.task = some oneStep ∧
     (s.core 0).emptyBank = some false ∧
     ((s.beginStep 0 h oneStep).bank 0 false).map (fun g => (g.rdA 6, g.rdA 7, g.rdA 8)) = some (0x1000, 1, 1)) := by
  refine ⟨?_, ?_⟩
  · intro h s
    have o : s.coreOpen 3 = true := by
      unfold State.coreOpen
      rw [near_away s 3 (by decide) rfl (by decide +kernel)]
      decide +kernel
    exact ⟨by decide +kernel, by decide +kernel, by decide +kernel, by decide +kernel, by decide +kernel, by decide +kernel, o, by decide +kernel⟩
  · intro h s
    have b : s.mayBegin 0 h = true := by
      unfold State.mayBegin State.coreOpen
      rw [near_away s 0 (by decide) rfl (by decide +kernel)]
      decide +kernel
    have r : s.runningIn (0 / 4) = [h] := by decide +kernel
    exact ⟨by rw [r, List.filter_cons, if_pos b]; decide +kernel, by decide +kernel, by decide +kernel, by decide +kernel, by decide +kernel⟩

/-- A suspended cell; a cell whose evaluator is still to be launched, with its creator LIVE and not; waiters whose line has
changed and that stand in a cycle. -/
theorem test_cell_events_witness :
    (let s := State.reset.setCell 64 cSUSPENDED
     let t := ((mapped s).modCluster 0 (fun k => { k with outbound := [waiting .load (.areg 5)] }))
     t.cellOf 64 = cSUSPENDED ∧ Machine.tagged (64 * 64) = true ∧ (t.comingTo 64).isSome = true) ∧
    (let e : Eval := { record := BitVec.ofNat 512 0x1000 }
     let s := { mapped State.reset with mem := blockBytes.take 4 }.modMeta 256 (fun m => { m with cell := cEVALUATING, eval := some e })
     (s.lineMeta 256).cell = cEVALUATING ∧ (s.lineMeta 256).eval = some e ∧ e.task = none ∧ e.token = none ∧ recCtx e.record = 0 ∧
     (s.ctx 0).state = 1 ∧ (State.reset.ctx 0).state ≠ 1 ∧ (s.ctx 0).gen.toNat % 2 ^ 26 = recGen e.record ∧ recBlock e.record = 0x1000 ∧
     (match s.hwBytes 0 0x1000 4 with
       | .ok bs =>
         let b := Block.ofBytes bs
         let args := (List.range 6).map (fun i => e.record.extractLsb' (64 * i + 64) 64)
         s.blockValid 0 b && (s.launchAt 0 b 0x1000 { root := some e.root, path := e.path, depth := e.depth, cell := some 256, cellVa := e.va, args := args, lend := e.cls }
           (s.chooseOp b) [b.home] true State.enqueue).isSome
       | _ => false) = true ∧ e.loader = none) ∧
    (let w : WaitEnt := { core := 284, bank := false, gid := 0, ctx := 0, line := 64, va := 0x1000, task := 5, since := 0 }
     let g : Machine.Group := { parked := some 64 }
     let s := { (base g).modCluster 71 (fun k => { k with wait := [w] }) with time := 10000000 }
     let t := s.modMeta 64 (fun m => { m with cell := cEVALUATING, eval := some { task := some 5 } })
     (s.cluster 71).wait[0]? = some w ∧ s.find w.gid = some (0, false) ∧ s.bank 0 false = some g ∧ s.cellOf 64 ≠ cEVALUATING ∧
     t.cellOf 64 = cEVALUATING ∧ w.since + 10000000 ≤ t.time ∧ w.due = false ∧ w.acc = none ∧ w.core / 4 = 71 ∧ w.proxy = false ∧ t.board.domEn = false ∧
     ({ t.board with domEn := true } : Board).domEn = true ∧ ({ w with acc := some 3, due := true } : WaitEnt).acc = some 3 ∧ t.wayBack 64 1024 [64] [(64, [])] = some []) := by decide +kernel

/-- Contexts FREE with and without good areas, LIVE and KILLING; a cluster that is to change its context. -/
theorem test_context_events_witness :
    (let s := State.reset.modCtx 63 (fun x => { x with ptroot0 := 0x10000, ptroot1 := 2 ^ 38, gsave := 2 ^ 40, lovf := 0x100006 })
     (s.ctx 63).state = 0 ∧ s.areasOk (s.ctx 63) = true ∧ State.reset.areasOk (State.reset.ctx 0) = false) ∧
    (let s := State.reset.modCtx 63 (fun x => { x with state := 1 })
     let t := State.reset.modCtx 63 (fun x => { x with state := 2 })
     (s.ctx 63).state = 1 ∧ (t.ctx 63).state = 2 ∧ t.ctxStopped 63 = true) ∧
    (let s := (State.reset.modCluster 71 (fun k => { k with ctx := some 0, switchTo := some 63 })).modCtx 63 (fun x => { x with state := 1 })
     (s.cluster 71).ctx = some 0 ∧ (s.cluster 71).switchTo = some 63 ∧ s.choosable 63 = true ∧ s.gangStopped 71 0 = true ∧
     Tab.get none (s.cluster 71).saved 63 = none) := by decide +kernel
/-! ## Events of the energy contract, of levels and of recovery -/

/-- An image of one segment for serial number 0, key slot 0, ISSUE 1, in force before UTC 1,000 ns (R334). -/
def curveBody : List Byte :=
  leBytes 8 0x145504845 ++ leBytes 8 0 ++ leBytes 8 1 ++ leBytes 8 0 ++ leBytes 8 1000 ++ leBytes 24 1 ++ leBytes 8 0 ++ leBytes 24 0x9000

/-- A public key and r = s of a signature that it verifies over that image; computed outside the model from R335 with the
point that the image's SHA-384 digest names. -/
def curveKey : Nat × Nat :=
  (0x8f6c94c93002fcb2ecb21c2382133bd17415fdc049adc5e0cf79f8c9ad4754d742460da9cec43ae0f2c16fe69e532f8,
    0xb0d6c16dff7a331a0928956ad714f35438b9a69bc70d2a865f0b5497d5cec0571cfd2db21107d07313f2b2d0db8b17b3)

def curveImage : List Byte :=
  let r := beBytes 48 0xd60a049fef9d22f30472da5545989f4885d968ad78a0ce6b7adb7b371f1fae26344e3dbb6bf4a8d9e83d85d7510ca13
  curveBody ++ r ++ r

/-- The image under verification on a device that holds the key in slot 0. -/
def verifying (l : List Byte) : State :=
  { State.reset with gov := { State.reset.gov with ephgo := true, image := l }, board := { State.reset.board with keys := [(0, some curveKey)] } }

/-- The signature of the image. -/
theorem test_curve_signature : ecdsaOk curveKey (curveImage.take 96) ((curveImage.drop 96).take 96) = true := by decide +kernel

/-- Each check of a submission: a failure of each alone, and an image that passes them all. -/
theorem test_curve_checks_witness :
    (let s := verifying curveImage
     let c := Curve.ofBytes curveImage
     s.gov.ephgo = true ∧ s.gov.leadDead = false ∧ s.gov.readable = true ∧ imageWellFormed curveImage = true ∧
     imageWellFormed (curveImage.drop 1) = false ∧ 64 + 32 * imageSegs curveImage = 96 ∧ bytesAt curveImage 6 1 = 0 ∧
     Tab.get none s.board.keys 0 = some curveKey ∧ Tab.get none State.reset.board.keys 0 = none ∧
     s.imageNames curveImage = true ∧ { s with board := { s.board with serial := 1 } }.imageNames curveImage = false ∧
     s.time + s.gov.utcoff.toInt < (c.vto : Int) ∧ (c.vto : Int) ≤ (1000 : Nat) + s.gov.utcoff.toInt ∧ c.issue = 1 ∧
     s.gov.lastIssue = none) ∧
    (let l := curveBody.take 6 ++ [4] ++ curveBody.drop 7
     imageWellFormed l = true ∧ bytesAt l 6 1 = 4) ∧
    (let l := curveBody ++ List.replicate 96 0
     imageWellFormed l = true ∧ ecdsaOk curveKey (l.take 96) ((l.drop 96).take 96) = false) := by decide +kernel

/-- UTCOFF near the last accepted write and far from it; a segment that comes into force; thresholds of the periods. -/
theorem test_governor_witness :
    State.reset.gov.ephgo = false ∧ State.reset.gov.leadDead = false ∧ State.reset.board.stage ≠ 0xFF ∧
    (let s : State := { State.reset with gov := { State.reset.gov with utcLast := some 0 }, time := 1 }
     let near := fun (w : Word) => decide ((w.toInt - s.gov.utcoff.toInt).natAbs * 1000000000 ≤ 50000 * (s.time - 0))
     near 0 = true ∧ near 0xFFFFFFFFFFFFFFFF = false) ∧
    (let s : State := { State.reset with gov := { State.reset.gov with curve := some (Curve.ofBytes curveBody) }, board := { State.reset.board with stage := 5 } }
     s.segmentNow = some 0 ∧ s.gov.segNow = none) ∧
    (let s : State := { State.reset with time := 50000000 }
     s.gov.sampledAt / 10000 < s.time / 10000 ∧ s.gov.allowAt / 100000 < s.time / 100000 ∧ s.gov.reportAt / 10000 < s.time / 10000 ∧
     s.gov.windowAt / 50000000 < s.time / 50000000 ∧ ({ s.gov with segNow := some 0 } : Governor).seg = none ∧
     (({ s.gov with segNow := some 0, curve := some (Curve.ofBytes curveBody) } : Governor).seg).isSome = true) := by
  decide +kernel

/-- Shares that curtailment parks from each state, dies to gate and to ungate, grades that lift. -/
theorem test_curtailment_witness :
    (let h := oneShare .switched
     let s : State := { sharing h with gov := { (sharing h).gov with pthr := 7 } }
     let k := { oneStep with cls := 7 }
     { s with tasks := [k] }.share 1 = some h ∧ { s with tasks := [k] }.task h.task = some k ∧ { s with tasks := [k] }.parkHeld h = true ∧ h.id = 1) ∧
    (let h := oneShare .running
     let s : State := { sharing h with gov := { (sharing h).gov with pthr := 7 }, tasks := [{ oneStep with cls := 7 }] }
     s.share 1 = some h ∧ s.parkHeld h = true ∧ h.state = .running ∧ s.shareSettled 1 = true ∧ s.stopRoom h = true ∧
     (s.cluster h.cluster).copies = []) ∧
    (let s : State := { base {} with gov := { (base {}).gov with pthr := 1 } }
     s.gov.pthr ≠ 0 ∧ s.gov.lifting = false ∧ s.gov.gated = [] ∧ s.firstGate = some 0 ∧
     let t : State := { s with gov := { s.gov with gated := [0] }, time := 2000000 }
     t.gov.gateAt + 2000000 ≤ t.time ∧ t.firstGate.isSome = true) ∧
    (∀ l ∈ [(15, 1, 0), (15, 0, 7), (14, 0, 0)],
     let s : State := { State.reset with gov := { State.reset.gov with limit := l.1, pthr := l.2.1, sthr := l.2.2, target := 57600, lifts := [(47, 0), (143, 0)] }, time := 10000000 }
     s.gov.graded = true ∧ s.gov.boundTo ≤ s.time ∧ s.noteLift.liftDue = true ∧ s.gov.threshold = l.2.1 + l.2.2) ∧
    (let s : State := { State.reset with gov := { State.reset.gov with limit := 14 } }
     s.noteLift.liftDue = false ∧ State.reset.gov.graded = false) ∧
    (let s : State := { State.reset with gov := { State.reset.gov with lifting := true, gated := [5, 6] }, time := 2000000 }
     s.gov.lifting = true ∧ s.gov.gateAt + 2000000 ≤ s.time ∧ s.gov.gated.getLast? = some 6) := by decide +kernel

/-- Stall ratios at the ends of their ranges, each half of a step, banks of the LLC to gate and to re-enable. -/
theorem test_level_events_witness :
    (let s : State := { State.reset with time := 10000 }
     ∀ p ∈ [(128, 255, 0, 128), (128, 255, 1, 128), (31, 255, 0, 31), (32, 255, 0, 32), (127, 255, 15, 127)],
       let t := s.modCluster 71 (fun k => { k with dvfs := { k.dvfs with stalled := p.1, cycles := p.2.1, target := p.2.2.1, requested := some 1 } })
       let d := (t.cluster 71).dvfs
       d.sampledAt / 10000 < t.time / 10000 ∧ d.cycles ≠ 0 ∧ 255 * d.stalled / d.cycles = p.2.2.2 ∧ d.requested = some 1) ∧
    (∀ p ∈ [(1, true), (2, true), (2, false), (3, false)],
       let s := State.reset.modCluster 0 (fun k => { k with dvfs := { k.dvfs with stepSt := BitVec.ofNat 2 p.1, rising := p.2, level := 5, target := 5 } })
       (s.cluster 0).dvfs.stepSt.toNat = p.1 ∧ (s.cluster 0).dvfs.rising = p.2 ∧ (s.cluster 0).dvfs.level = (s.cluster 0).dvfs.target) ∧
    (let s : State := { State.reset.modHdie 1 (fun d => { d with llcStat := [{ tenth := 9, hits := [(0, 1000)] }] }) with time := 1000000 }
     let d := s.hdie 1
     let ms := d.llcStat.filter (fun x => s.time / 1000000 * 10 ≤ x.tenth + 10 ∧ x.tenth < s.time / 1000000 * 10)
     d.bankAt / 1000000 < s.time / 1000000 ∧ 63 ∈ d.poweredBanks ∧ s.board.minb < d.poweredBanks.length ∧
     256 * (ms.map (fun x => Tab.get 0 x.hits 63)).sum < (ms.map (fun x => (x.hits.map (·.2)).sum)).sum ∧ 64 ∉ d.poweredBanks) ∧
    (let s : State := { State.reset.modHdie 1 (fun d => { d with gatedBanks := [63], llcStat := [{ tenth := 0, misses := 1, accesses := 1 }] }) with time := 100000 }
     63 ∈ (s.hdie 1).gatedBanks ∧ (s.hdie 1).enableAt / 100000 < s.time / 100000 ∧
     (let ms := (s.hdie 1).llcStat.filter (fun x => s.time / 100000 ≤ x.tenth + 10 ∧ x.tenth < s.time / 100000)
      s.board.rate * (ms.map (·.accesses)).sum < 65536 * (ms.map (·.misses)).sum)) := by decide +kernel

/-- A bank that is still in weak mode, whichever bank the line lies in, below the threshold and at it. -/
theorem test_ecc_bank_witness (ln : Nat) : ∀ n ∈ [1, 2],
    let s : State := { State.reset with board := { State.reset.board with eccCount := n } }
    let e := Tab.get {} s.board.ecc (Config.eccBank ln)
    e.strong = false ∧ (if s.time / 65536000000 = e.since / 65536000000 then e.count + 1 else 1) = 1 := by
  have h : Tab.get ({} : EccBank) [] (Config.eccBank ln) = {} := rfl
  have h1 : State.reset.board.ecc = [] := by decide +kernel
  have h2 : State.reset.time = 0 := by decide +kernel
  intro n _
  simp only [h1, h2, h]
  decide

/-- Uncorrectable errors: a slot with a clean copy and one without, a core with a group, an entry of a share that may run
again and that may not, a dirty and a clean LLC line, a word of a routine. -/
theorem test_uncorrectable_witness :
    (let s := State.reset.modCluster 71 (fun k => { k with clean := [(5, some (0x1000, 0))] })
     (Tab.get none (s.cluster 71).clean 5).isSome = true ∧ (s.cluster 71).refetch = [] ∧ Tab.get none (s.cluster 71).clean 6 = none) ∧
    (let g : Machine.Group := { share := 1, segNext := false }
     let s := fun (h : Share) => (sharing h).modCore 0 (fun k => { k with bank0 := some g })
     g.gstat.fused = false ∧ g.entering = false ∧
     ∀ p ∈ [(false, 0), (false, 1), (false, 2), (true, 0)],
       let h := { oneShare .running with escaped := p.1, reruns := p.2 }
       (s h).bank 0 false = some g ∧ (s h).share g.share = some h) ∧
    (∀ d ∈ [false, true],
     let s := State.reset.modHdie (ownerOf 64) (fun k => { k with llc := [(1, some { data := 7, dirty := d })] })
     s.cached 1 = some { data := 7, dirty := d }) ∧
    (let s := State.reset.modCluster 0 (fun k => { k with routines := [(32, { start := 8, len := 2, state := 1 })] })
     let r := Tab.get {} (s.cluster 0).routines 32
     r.state = 1 ∧ r.start = 8 ∧ r.len = 2) ∧
    (let s := { mapped State.reset with mem := [(0x1000, 9)] }.modCluster 0
       (fun k => { k with ctx := some 0, clean := [(5, some (0x1000, 0))], refetch := [5] })
     5 ∈ (s.cluster 0).refetch ∧ Tab.get none (s.cluster 0).clean 5 = some (0x1000, 0) ∧
     (match s.cleanSource 0 0x1000 with
       | some bs => bs.length == 4096 && bs.head? == some 9
       | none => false) = true) := by decide +kernel

/-- A core of die 0 whose slot comes within the next three, wherever the rotation stands. -/
theorem test_deal_stop_witness :
    let s : State := base {}
    ∃ c, s.rotates c = true ∧ s.nearSlot c = true ∧ (s.core c).eclipse = .idle := by
  have near : ∀ m < 37, ∃ c < 36, (∃ j ∈ ([1, 2, 3] : List Nat), coreOfSlot 0 ((m + j) % 37) none = some c) := by decide +kernel
  have idle : ∀ c < 36, (base {}).rotates c = true ∧ ((base {}).core c).eclipse = .idle := by decide +kernel
  have now : (base {}).time = 0 ∧ (base {}).board.shifts = [] := by decide +kernel
  obtain ⟨c, hc, j, hj, h⟩ := near (eclipseSlot 0 0 % 37) (Nat.mod_lt _ (by decide))
  refine ⟨c, (idle c hc).1, ?_, (idle c hc).2⟩
  have h0 : c / 36 = 0 := Nat.div_eq_of_lt hc
  simp only [State.nearSlot, (idle c hc).1, h0, now.1, Bool.true_and, Bool.or_eq_true, List.any_eq_true, beq_iff_eq]
  refine .inr ⟨j, hj, ?_⟩
  simpa only [Board.slotCore, Board.shiftOf, Tab.get, now.2, Nat.mod_add_mod, List.find?_nil, Option.map_none] using h

/-- Cores at their eclipse, with and without a fused group; a wait of 50 ms; scans that pass and fail; records to read. -/
theorem test_eclipse_witness :
    (let s := (base {}).modCore 0 (fun k => { k with eclDue := true, bank0 := none })
     s.rotates 0 = true ∧ (s.core 0).eclipse.scans = false ∧ (s.core 0).eclDue = true ∧ s.fusedHere 0 = false ∧ s.scanDue 0 = true ∧
     (s.core 0).eclSaved = none ∧ (s.modCore 0 (fun k => { k with eclipse := .scanning s.time })).mayEmpty (s.emptySet 0) = true) ∧
    (let g : Machine.Group := { gstat := { fused := true, fwidth := 1 }, endX := true, endA := true }
     let s := ((base g).modCore 0 (fun k => { k with eclDue := true, eclWait := some 0 })).modCore 1 (fun k => { k with bank0 := some g })
     let t : State := { s with time := 50000000 }
     let u := t.modCore 0 (fun k => { k with eclipse := .scanning t.time })
     s.fusedHere 0 = true ∧ s.scanDue 0 = true ∧ (s.core 0).eclipse.scans = false ∧ (t.core 0).eclWait = some 0 ∧ 0 + 50000000 ≤ t.time ∧ t.rotates 0 = true ∧
     (t.core 0).eclSaved = none ∧ u.emptySet 0 = [1, 0] ∧ u.mayEmpty (u.emptySet 0) = true ∧ (t.core 1).eclSaved = none) ∧
    (let m : Matrix := {}
     let s := (base {}).modCore 287 (fun k => { k with eclipse := .scanning 7, eclSaved := some (some {}, none, m) })
     (s.core 287).eclipse = .scanning 7 ∧ (s.core 287).eclSaved = some (some {}, none, m) ∧ (s.core 287).eclipse.scans = true ∧
     ({} : Machine.Group).gstat.fused = false) ∧
    State.reset.board.leaving = [] ∧
    (let s : State := { State.reset with board := { State.reset.board with ecc := [(3, { strong := true })] } }
     let t : State := { s with board := { s.board with ecc := [(3, { strong := true, coding := some 7 })] } }
     (Tab.get ({} : EccBank) s.board.ecc 3).strong = true ∧ (Tab.get ({} : EccBank) s.board.ecc 3).coding = none ∧
     (Tab.get ({} : EccBank) t.board.ecc 3).coding = some 7 ∧ (t.hdie (ownerOf (64 * 7))).stall = [] ∧ s.board.leaving = []) ∧
    ((0x8000000000001000 : BitVec 64).getLsbD 63 = true ∧ State.reset.board.lifeAddr = none ∧
     let s : State := { State.reset with board := { State.reset.board with lifeAddr := some 0x1000 } }
     s.board.lifeAddr = some 0x1000 ∧ s.gov.leadDead = false) := by decide +kernel

/-! ## Events of the world and of gangs -/

/-- Bytes that the host may move and may not, in plain lines and in others; no window of foreign memory and nothing in the
LLC; a management path that is answered and one that is not. -/
theorem test_host_memory_witness :
    (let s : State := { State.reset with board := { State.reset.board with hdm0 := some (0, 2 ^ 42) } }
     bare s = true ∧ s.plainLine 0 = true ∧ (s.setCell 0 cFAILED).plainLine 0 = false ∧ s.cell 0 = cVALUE ∧ (s.setCell 0 cFAILED).cell 0 ≠ cVALUE ∧
     ((s.setCell 0 cFAILED).lineMeta 0).poison = false ∧
     (s.setCell 0 cFAILED).hostMay 0 8 = true ∧ s.gov.leadDead = false ∧
     ({ s with gov := { s.gov with leadDead := true } } : State).gov.leadDead = true ∧
     (∀ p ∈ [(0, 1), (0, 64), (63, 1)], s.hostMay p.1 p.2 = true) ∧ State.reset.hostMay 0 1 = false ∧ (∀ p ∈ [(0, 0), (0, 65), (63, 2), (2 ^ 41, 1)], s.hostMay p.1 p.2 = false) ∧
     s.board.stage ≠ 0xFF) := by decide +kernel

/-- Registers of cores with and without a group; a failed device; ports in each state, boot stages. -/
theorem test_world_witness :
    (let s := (base {}).modCore 287 (fun k => { k with bank1 := some {} })
     s.board.stage ≠ 0xFF ∧ s.bank 287 true = some {} ∧ s.bank 286 true = none ∧ { s.board with stage := 0xFF }.stage = 0xFF) ∧
    ((0xC000000000001100 : BitVec 64).extractLsb' 0 5 = 0 ∧ ((0xC000000000001100 : BitVec 64).extractLsb' 8 5).toNat = 17) ∧
    (let at' := fun (st ln : Nat) =>
       ({ State.reset with board := { State.reset.board with ports := [(17, { state := BitVec.ofNat 2 st, lanes := BitVec.ofNat 2 ln, rxSeq := 9 })] },
                           time := 1000000000 } : State)
     (∀ p ∈ [(0, 0), (1, 0), (2, 1), (2, 2), (2, 3)],
       ((at' p.1 p.2).port 17).state.toNat = p.1 ∧ ((at' p.1 p.2).port 17).lanes.toNat = p.2) ∧
     ((at' 2 3).port 17).rxSeq = 9 ∧ ((at' 2 1).port 17).errAt + 1000000000 ≤ (at' 2 1).time ∧ 17 < (at' 0 0).board.links) ∧
    (∀ n ∈ [0, 1, 2, 3, 4], ({ State.reset.board with stage := BitVec.ofNat 8 n } : Board).stage.toNat = n) := by decide +kernel

/-- A member that may arm, and one whose context is not LIVE; a message from another device and one of the device's own. -/
theorem test_gang_member_witness :
    (let s : State := { mapped State.reset with mem := blockBytes.take 4, board := { State.reset.board with domEn := true } }
     s.takeMsg 5 (.disarm 5 1) = some s ∧ s.takeMsg 0 (.disarm 0 1) = none ∧
     (∀ m ∈ [Msg.arm 0 1 0 [], .go 0 1 9, .gangbreak 0 1, .commit 0 1 false, .armOk 0 1, .armRefuse 0 1, .goAck 0 1, .done 0 1 0 9, .commitAck 0 1],
       ({ s with board := { s.board with outbox := [m] } } : State).takeMsg 0 m = some { s with board := { s.board with outbox := [] } }) ∧
     (match s.hwBytes 0 0x1000 4 with
       | .ok bs => s.mayArm 5 1 0 bs && !(State.reset.mayArm 5 1 0 bs) && (s.gangLaunch 5 1 0 bs).isSome
       | _ => false) = true) := by decide +kernel

/-- A context that holds gang 1 of device 5 armed, started or not. -/
def armed (start : Option Nat) : State :=
  let s : State := { mapped State.reset with mem := blockBytes.take 4, time := 1000000 }
  match s.hwBytes 0 0x1000 4 with
  | .ok bs => s.modCtx 0 (fun x => { x with armed := [{ gang := 1, dev := 5, block := bs, start := start, since := 0, cls := [] }] })
  | _ => s

/-- A member that holds a gang armed, and started. -/
theorem test_gang_armed_witness :
    ((armed none).findArmed 5 1).map (fun x => (x.1, x.2.start, x.2.since)) = some (0, none, 0) ∧ 0 + 1000000 ≤ (armed none).time ∧
    ((armed (some 7)).findArmed 5 1).map (fun x => (x.1, x.2.start)) = some (0, some 7) ∧ 7 ≤ (armed (some 7)).time ∧
    ((armed (some 7)).findArmed 5 1).any (fun x => (((armed (some 7)).disarm 5 1).gangLaunch 5 1 x.1 x.2.block).isSome) = true := by decide +kernel

/-- A member that runs the shares of a gang. -/
theorem test_gang_running_witness :
    (∀ st ∈ [ShState.running, .waiting, .ready],
     let h := { oneShare st with gang := true }
     let k : Task := { oneStep with gang := some (5, 1) }
     let s : State := { sharing h with tasks := [k], board := { State.reset.board with domEn := true } }
     s.takeMsg 5 (.gangbreak 5 1) = some s ∧ (s.shares.map (·.id)).Nodup ∧ s.share 1 = some h ∧ k ∈ s.tasks ∧ k.gang = some (5, 1) ∧ k.id = h.task ∧
     s.takeMsg 5 (.commit 5 1 false) = some s ∧ (5, 1, false) ∉ s.board.commits ∧ s.gangMarked 5 1 = [] ∧
     (let y : Shadow := { base := 0x10000, len := 0x10000, share := 1, mark := some 0 }
      let t := (s.modCtx 0 (fun x => { x with shadows := [y] }))
      t.gangMarked 5 1 = [(k, y)] ∧ t.logFull = false ∧ t.bufferMoving k.ctx y.base y.len = false ∧ t.bufferFault k.ctx y.base y.len = none ∧
      (∀ d, (5, 1, d) ∈ ({ t.board with commits := [(5, 1, false), (5, 1, true)] } : Board).commits))) := by decide +kernel

/-- A gang at each point of its course: armed in part and in full, sent GO, ended in part and in full, committing. -/
theorem test_gang_initiator_witness :
    (let r : GangRec := { id := 1, members := [5, 6], lead := 10000, block := [], sentAt := 0, cluster := 0, ctx := 0 }
     let s := fun (r : GangRec) => ({ State.reset.modCtx 0 (fun x => { x with gangs := [r] }) with time := 200000, board := { State.reset.board with domEn := true } } : State)
     (∀ q ∈ [r, { r with armOk := [6] }, { r with goSent := true }, { r with goSent := true, done := [(6, 0, 0)] }, { r with goSent := true, goAck := [6], sentAt := 1 }],
       (s q).findGang 1 = some q ∧ q.status = none ∧ q.verdict = none ∧ 5 ∈ q.members ∧ (s q).takeMsg 5 (.armOk 5 1) = some (s q) ∧ 5 ∉ q.armOk ∧
       5 ∉ q.goAck ∧ (q.sentAt = 0 → q.sentAt + 200000 ≤ (s q).time) ∧ (s q).time ≤ q.sentAt + 200000 ∧ q.sentAt + 200000 < (s q).time + 2 ∧ ∀ d ∈ q.done, d.1 ≠ 5) ∧
     (∀ m ∈ r.members, m ∈ 5 :: [6]) ∧ ¬ (∀ m ∈ r.members, m ∈ 5 :: r.armOk) ∧
     ({ s r with time := 200001 } : State).time > r.sentAt + 200000 ∧
     (let done := [(6, 3, 9), (5, 7, 8)]
      (∀ m ∈ r.members, ∃ d ∈ done, d.1 = m) ∧ ∀ e ∈ done, e.2.1 ≠ 0 → e = (5, 7, 8) ∨ 8 < e.2.2) ∧
     (let q := { r with commitAt := some 0 }
      (s q).findGang 1 = some q ∧ q.commitAt = some 0 ∧ 0 + 200000 ≤ (s q).time)) ∧
    (let g : Machine.Group := { holds := [.gcommit 1 4] }
     (base g).bank 0 false = some g) := by decide +kernel

/-- A step from a state whose memories are in their canonical form. -/
theorem test_memory_witness :
    let s := State.reset.withFetchWord 64 0x8021010000ABCDEF
    s.memWf ∧ (match step s with
      | .next _ => true
      | _ => false) = true := by decide +kernel

/-! ## Words -/

/-- Fields of the words below: GUARD 5, DST 0x12, SRCA 0x34, SRCB 0x56, IMM24 0x789ABC (R52). -/
def y : Syl := ⟨5, 0x12, 0x34, 0x56, 0x789ABC⟩

/-- A word with STOP set is the instruction, to the decoder and back. -/
def reads (p : Nat × Instr) : Bool :=
  decide (decodeTableWord 64 p.1 = some p.2) && decide (encode true p.2 = some (BitVec.ofNat 64 p.1))

/-- The X slot (R71). -/
theorem test_words_x :
    [ (0x8500123456789ABC, .add y), (0x8501123456789ABC, .sub y), (0x8502123456789ABC, .mul y), (0x8503123456789ABC, .mulhi y),
      (0x8504123456789ABC, .mulhn y), (0x8505123456789ABC, .div y), (0x8506123456789ABC, .divn y), (0x8507123456789ABC, .rem y),
      (0x8508123456789ABC, .remn y), (0x8509123456789ABC, .and y), (0x850A123456789ABC, .or y), (0x850B123456789ABC, .xor y),
      (0x850C123456789ABC, .andn y), (0x850D123456789ABC, .shl y), (0x850E123456789ABC, .shr y), (0x850F123456789ABC, .sra y),
      (0x8510123456789ABC, .rot y), (0x8511123456789ABC, .min y), (0x8512123456789ABC, .max y), (0x8513123456789ABC, .minn y),
      (0x8514123456789ABC, .maxn y), (0x8515123456789ABC, .clz y), (0x8516123456789ABC, .ctz y), (0x8517123456789ABC, .popc y),
      (0x8518123456789ABC, .extr y), (0x8519123456789ABC, .ins y), (0x851A123456789ABC, .sel y), (0x851B123456789ABC, .cmpCc y),
      (0x8520123456789ABC, .addi y), (0x8521123456789ABC, .li y) ].all reads = true ∧
    [ (0x8522123456789ABC, .lim y), (0x8523123456789ABC, .lit y), (0x8524123456789ABC, .andi y), (0x8525123456789ABC, .ori y),
      (0x8526123456789ABC, .xori y), (0x8540123456789ABC, .br y), (0x8541123456789ABC, .call y), (0x8542123456789ABC, .ret y),
      (0x8543123456789ABC, .jr y), (0x8544123456789ABC, .trap y), (0x8545123456789ABC, .svc y), (0x8546123456789ABC, .eret y),
      (0x8547123456789ABC, .endStep y), (0x8548123456789ABC, .nop y), (0x8560123456789ABC, .csrr y), (0x8561123456789ABC, .csrw y),
      (0x8562123456789ABC, .csrs y), (0x8563123456789ABC, .csrc y), (0x8564123456789ABC, .time y), (0x8565123456789ABC, .cyc y),
      (0x8566123456789ABC, .rndw y), (0x8567123456789ABC, .hint y) ].all reads = true := by decide +kernel

/-- The V0 slot (R72). -/
theorem test_words_v0 :
    [ (0x9500123456789ABC, .vadd false y), (0x9501123456789ABC, .vsub false y), (0x9502123456789ABC, .vmul false y),
      (0x9503123456789ABC, .vfma false y), (0x9504123456789ABC, .vfms false y), (0x9505123456789ABC, .vmin false y),
      (0x9506123456789ABC, .vmax false y), (0x9507123456789ABC, .vabs false y), (0x9508123456789ABC, .vneg false y),
      (0x9509123456789ABC, .vadds false y), (0x950A123456789ABC, .vsubs false y), (0x950B123456789ABC, .vmulh false y),
      (0x950C123456789ABC, .vdot2 false y), (0x950D123456789ABC, .vdot4 false y), (0x9510123456789ABC, .vand false y),
      (0x9511123456789ABC, .vor false y), (0x9512123456789ABC, .vxor false y), (0x9513123456789ABC, .vandn false y),
      (0x9514123456789ABC, .vshl false y), (0x9515123456789ABC, .vshr false y), (0x9516123456789ABC, .vsra false y),
      (0x9517123456789ABC, .vclz false y), (0x9518123456789ABC, .vpopc false y), (0x9520123456789ABC, .vcmpCc false y),
      (0x9521123456789ABC, .vsel false y), (0x9528123456789ABC, .mand false y), (0x9529123456789ABC, .mor false y),
      (0x952A123456789ABC, .mxor false y), (0x952B123456789ABC, .mnot false y), (0x952C123456789ABC, .mpopc false y) ].all reads = true ∧
    [ (0x952D123456789ABC, .mfirst false y), (0x9530123456789ABC, .vred false y), (0x9531123456789ABC, .vscan false y),
      (0x9532123456789ABC, .vperm false y), (0x9533123456789ABC, .vrot false y), (0x9534123456789ABC, .vbcast false y),
      (0x9535123456789ABC, .vins false y), (0x9536123456789ABC, .vext false y), (0x9537123456789ABC, .vcomp false y),
      (0x9538123456789ABC, .vexpd false y), (0x9539123456789ABC, .viota false y), (0x953A123456789ABC, .vzip false y),
      (0x953B123456789ABC, .vunzip false y), (0x9540123456789ABC, .vcvt false y), (0x9541123456789ABC, .vnarrow false y),
      (0x9542123456789ABC, .vwiden false y), (0x9543123456789ABC, .vscale false y), (0x9544123456789ABC, .vclass false y),
      (0x9548123456789ABC, .vrcp false y), (0x9549123456789ABC, .vrsq false y), (0x954A123456789ABC, .vexp2 false y),
      (0x954B123456789ABC, .vlog2 false y), (0x954C123456789ABC, .vtanh false y), (0x954D123456789ABC, .vdiv false y),
      (0x954E123456789ABC, .vsqrt false y), (0x9550123456789ABC, .vmov false y), (0x9551123456789ABC, .vli false y) ].all reads = true := by decide +kernel

/-- The V1 slot (R72). -/
theorem test_words_v1 :
    [ (0xA500123456789ABC, .vadd true y), (0xA501123456789ABC, .vsub true y), (0xA502123456789ABC, .vmul true y),
      (0xA503123456789ABC, .vfma true y), (0xA504123456789ABC, .vfms true y), (0xA505123456789ABC, .vmin true y),
      (0xA506123456789ABC, .vmax true y), (0xA507123456789ABC, .vabs true y), (0xA508123456789ABC, .vneg true y),
      (0xA509123456789ABC, .vadds true y), (0xA50A123456789ABC, .vsubs true y), (0xA50B123456789ABC, .vmulh true y),
      (0xA50C123456789ABC, .vdot2 true y), (0xA50D123456789ABC, .vdot4 true y), (0xA510123456789ABC, .vand true y),
      (0xA511123456789ABC, .vor true y), (0xA512123456789ABC, .vxor true y), (0xA513123456789ABC, .vandn true y),
      (0xA514123456789ABC, .vshl true y), (0xA515123456789ABC, .vshr true y), (0xA516123456789ABC, .vsra true y),
      (0xA517123456789ABC, .vclz true y), (0xA518123456789ABC, .vpopc true y), (0xA520123456789ABC, .vcmpCc true y),
      (0xA521123456789ABC, .vsel true y), (0xA528123456789ABC, .mand true y), (0xA529123456789ABC, .mor true y),
      (0xA52A123456789ABC, .mxor true y), (0xA52B123456789ABC, .mnot true y), (0xA52C123456789ABC, .mpopc true y) ].all reads = true ∧
    [ (0xA52D123456789ABC, .mfirst true y), (0xA530123456789ABC, .vred true y), (0xA531123456789ABC, .vscan true y),
      (0xA532123456789ABC, .vperm true y), (0xA533123456789ABC, .vrot true y), (0xA534123456789ABC, .vbcast true y),
      (0xA535123456789ABC, .vins true y), (0xA536123456789ABC, .vext true y), (0xA537123456789ABC, .vcomp true y),
      (0xA538123456789ABC, .vexpd true y), (0xA539123456789ABC, .viota true y), (0xA53A123456789ABC, .vzip true y),
      (0xA53B123456789ABC, .vunzip true y), (0xA540123456789ABC, .vcvt true y), (0xA541123456789ABC, .vnarrow true y),
      (0xA542123456789ABC, .vwiden true y), (0xA543123456789ABC, .vscale true y), (0xA544123456789ABC, .vclass true y),
      (0xA548123456789ABC, .vrcp true y), (0xA549123456789ABC, .vrsq true y), (0xA54A123456789ABC, .vexp2 true y),
      (0xA54B123456789ABC, .vlog2 true y), (0xA54C123456789ABC, .vtanh true y), (0xA54D123456789ABC, .vdiv true y),
      (0xA54E123456789ABC, .vsqrt true y), (0xA550123456789ABC, .vmov true y), (0xA551123456789ABC, .vli true y) ].all reads = true := by decide +kernel

/-- The M slot (R73). -/
theorem test_words_m :
    [ (0xB500123456789ABC, .mcall y), (0xB501123456789ABC, .mlds y), (0xB502123456789ABC, .mswp y), (0xB503123456789ABC, .mpw y),
      (0xB504123456789ABC, .mshape y), (0xB505123456789ABC, .mring y), (0xB506123456789ABC, .mradv y),
      (0xB507123456789ABC, .epcfg y), (0xB508123456789ABC, .eprun y), (0xB509123456789ABC, .mchkr y),
      (0xB50A123456789ABC, .mupld y), (0xB50B123456789ABC, .mflush y) ].all reads = true := by decide +kernel

/-- The L slot (R74). -/
theorem test_words_l :
    [ (0xC500123456789ABC, .ld y), (0xC502123456789ABC, .vld y), (0xC503123456789ABC, .vlds y), (0xC504123456789ABC, .vldx y),
      (0xC505123456789ABC, .vldt y), (0xC506123456789ABC, .lda y), (0xC507123456789ABC, .ldn y), (0xC508123456789ABC, .pft y),
      (0xC509123456789ABC, .vldb y) ].all reads = true := by decide +kernel

/-- The S slot (R74). -/
theorem test_words_s :
    [ (0xD500123456789ABC, .st y), (0xD502123456789ABC, .vst y), (0xD503123456789ABC, .vsts y), (0xD504123456789ABC, .vstx y),
      (0xD505123456789ABC, .stl y), (0xD506123456789ABC, .defer y), (0xD507123456789ABC, .resolve y),
      (0xD508123456789ABC, .clrt y), (0xD509123456789ABC, .stnt y) ].all reads = true := by decide +kernel

/-- The C slot (R75). -/
theorem test_words_c :
    [ (0xE500123456789ABC, .cpy y), (0xE501123456789ABC, .cpyg y), (0xE502123456789ABC, .shw y), (0xE503123456789ABC, .shwi y),
      (0xE504123456789ABC, .chwm y), (0xE505123456789ABC, .chcfg y), (0xE506123456789ABC, .sopen y), (0xE507123456789ABC, .pub y),
      (0xE508123456789ABC, .sdrop y), (0xE509123456789ABC, .vdec y), (0xE50A123456789ABC, .rhnew y),
      (0xE50B123456789ABC, .rhset y), (0xE50C123456789ABC, .evpop y), (0xE50D123456789ABC, .bufn y) ].all reads = true := by decide +kernel

/-- The Y slot (R76). -/
theorem test_words_y :
    [ (0xF500123456789ABC, .ali y), (0xF501123456789ABC, .alim y), (0xF502123456789ABC, .alit y), (0xF503123456789ABC, .aadd y),
      (0xF504123456789ABC, .asub y), (0xF505123456789ABC, .aaddi y), (0xF506123456789ABC, .ashli y),
      (0xF507123456789ABC, .ashri y), (0xF508123456789ABC, .aandi y), (0xF509123456789ABC, .amul y), (0xF50A123456789ABC, .amin y),
      (0xF50B123456789ABC, .amax y), (0xF50C123456789ABC, .acmpCc y), (0xF50D123456789ABC, .amovq y), (0xF50E123456789ABC, .aq y),
      (0xF510123456789ABC, .kset y), (0xF511123456789ABC, .loop y), (0xF518123456789ABC, .binit y), (0xF519123456789ABC, .barv y),
      (0xF51A123456789ABC, .bwait y), (0xF51B123456789ABC, .btest y), (0xF520123456789ABC, .fence y),
      (0xF521123456789ABC, .drain y), (0xF522123456789ABC, .amo y), (0xF523123456789ABC, .cas y), (0xF524123456789ABC, .bank y),
      (0xF525123456789ABC, .rres y), (0xF526123456789ABC, .rpub y), (0xF530123456789ABC, .spawn y), (0xF531123456789ABC, .tlaunch y) ].all reads = true ∧
    [ (0xF532123456789ABC, .twait y), (0xF533123456789ABC, .tstat y), (0xF534123456789ABC, .spalloc y),
      (0xF535123456789ABC, .spfree y), (0xF536123456789ABC, .yield y), (0xF538123456789ABC, .sege y), (0xF539123456789ABC, .rdv y),
      (0xF53C123456789ABC, .fuse y), (0xF53D123456789ABC, .decpl y), (0xF53E123456789ABC, .rejoin y),
      (0xF540123456789ABC, .glaunch y), (0xF541123456789ABC, .gcommit y), (0xF560123456789ABC, .winw y),
      (0xF561123456789ABC, .ringvoid y), (0xF562123456789ABC, .gswap y) ].all reads = true := by decide +kernel

/-- The rows that a bit of IMM24 tells apart: MFLUSH with DROP, BARV with R (R190, R246); the words of the spec's own bundle,
and its pair syllable (R54, R68); codes on no map, and reserved bits of a micro-op (R71–R77). -/
theorem test_words_others :
    decodeTableWord 64 0xB50B123456789ABD = some (.mflushDrop { y with imm := 0x789ABD }) ∧
    decodeTableWord 64 0xF519123456789EBC = some (.barvRemote { y with imm := 0x789EBC }) ∧
    decodeTableWord 64 0x0020030100000005 = some (.addi ⟨0, 3, 1, 0, 5⟩) ∧
    decodeTableWord 64 0x1000020405A00000 = some (.vadd false ⟨0, 2, 4, 5, 0xA00000⟩) ∧
    decodeTableWord 64 0xF005020200000040 = some (.aaddi ⟨0, 2, 2, 0, 0x40⟩) ∧
    decodeTableWord 64 0x00C00C0C2A010405 = some (.pair ⟨0, 0x00, 3, 0x01, 0x85, 0x10, 2, 0x04, 0x05⟩) ∧
    [0x801C000000000000, 0x8027000000000000, 0x8049000000000000, 0x8068000000000000, 0x900E000000000000, 0xA052000000000000,
      0xB00C000000000000, 0xC001000000000000, 0xD001000000000000, 0xE00E000000000000, 0xF00F000000000000, 0xF063000000000000].all
      (fun w => (decodeTableWord 64 w).isNone) = true ∧
    [0x10000004, 0x20010000, 0x30000001, 0x60200000, 0x80010000, 0x88000001, 0xB0000001, 0xE0000000, 0xF0000000].all
      (fun w => (decodeTableWord 32 w).isNone) = true := by decide +kernel

/-- The micro-ops, each field with a value of its own (R77 and the rules of each). -/
theorem test_words_micro :
    [ (0x0B14B555, .strm 5 17 9 6 10 85), (0x1B14B558, .strc 5 17 9 6 10 11), (0x2AD60000, .lst 5 6 11), (0x30000000, .swp),
      (0x40000000, .adv), (0x50000000, .zero), (0x69C00000, .waitb 19 1), (0x79AAAAAA, .arrb 19 0x2AAAAA),
      (0x80001234, .lp 0x1234), (0x8D000000, .lpReg 5), (0x90000000, .el), (0xAB154321, .ainc 5 17 0x54321), (0xB8000000, .chk 1),
      (0xC0000000, .nopm), (0xD0000000, .retm) ].all (fun p => decide (decodeTableWord 32 p.1 = some p.2) &&
        decide (encodeMicro p.2 = some (BitVec.ofNat 32 p.1))) = true := by decide +kernel



end Sys2Proof.Tests
end

section
/-!
SUPPORT. What an encoding error does in every slot (R62), how a guard field picks its predicate (R60), and the micro-opcode
that a decoded word carries (R77).
-/
namespace Sys2Proof.Machine

/-! ## Encoding errors (R60, R62) -/

@[simp] theorem State.takeTrap_here (s : State) (c : Nat) : (s.takeTrap c).here = s.here := by
  unfold State.takeTrap
  split
  · rfl
  · split
    · rfl
    · split <;> rfl

/-- A trap takes the acting core off its bundle, whichever way it ends: taken, pending, held or doubled (R35, R37). -/
theorem raise_here (cause : BitVec 8) (s : State) :
    (raise cause s).here = { s.here with off := s.here.core :: s.here.off, resume := s.here.slot } := by
  unfold raise raiseAt
  dsimp only
  split
  · rfl
  · split
    · rfl
    · split
      · exact State.takeTrap_here _ _
      · rfl

/-- A form that traps does not hold the execute stream (R162). -/
theorem holding_raise (lat : Nat) (cause : BitVec 8) (s : State) :
    holding lat (.next (raise cause s)) = .next (raise cause s) := by
  simp [holding, raise_here]

/-- A syllable that the encoding tables do not admit traps with ILLOP (R62). The check opens the meaning of every syllable,
a pair syllable's too; ERET's stands beside another check, and the two blocking vector forms hold the stream around
theirs. -/
theorem exec_bad {i : Instr} (k : i.slotOpc.isSome = true ∨ ∃ y, i = .pair y) (h : i.wf = false) (s : State) :
    exec i s = .next (raise ILLOP s) := by
  have bad : (!i.wf) = true := by simp [h]
  cases i with
  | add y | sub y | mul y | mulhi y | mulhn y | div y | divn y | rem y | remn y | and y | or y | xor y | andn y | shl y
  | shr y | sra y | rot y | min y | max y | minn y | maxn y | clz y | ctz y | popc y | extr y | ins y | sel y | cmpCc y
  | addi y | li y | lim y | lit y | andi y | ori y | xori y | br y | call y | ret y | jr y | trap y | svc y | endStep y
  | nop y | csrr y | csrw y | csrs y | csrc y | time y | cyc y | rndw y | hint y | pair y | vadd hi y | vsub hi y
  | vmul hi y | vfma hi y | vfms hi y | vmin hi y | vmax hi y | vabs hi y | vneg hi y | vadds hi y | vsubs hi y
  | vmulh hi y | vdot2 hi y | vdot4 hi y | vand hi y | vor hi y | vxor hi y | vandn hi y | vshl hi y | vshr hi y
  | vsra hi y | vclz hi y | vpopc hi y | vcmpCc hi y | vsel hi y | mand hi y | mor hi y | mxor hi y | mnot hi y
  | mpopc hi y | mfirst hi y | vred hi y | vscan hi y | vperm hi y | vrot hi y | vbcast hi y | vins hi y | vext hi y
  | vcomp hi y | vexpd hi y | viota hi y | vzip hi y | vunzip hi y | vcvt hi y | vnarrow hi y | vwiden hi y | vscale hi y
  | vclass hi y | vrcp hi y | vrsq hi y | vexp2 hi y | vlog2 hi y | vtanh hi y | vmov hi y | vli hi y | mcall y | mlds y
  | mswp y | mpw y | mshape y | mring y | mradv y | epcfg y | eprun y | mchkr y | mupld y | mflush y | mflushDrop y
  | ld y | vld y | vlds y | vldx y | vldt y | lda y | ldn y | pft y | vldb y | st y | vst y | vsts y | vstx y | stl y
  | defer y | resolve y | clrt y | stnt y | cpy y | cpyg y | shw y | shwi y | chwm y | chcfg y | sopen y | pub y
  | sdrop y | vdec y | rhnew y | rhset y | evpop y | bufn y | ali y | alim y | alit y | aadd y | asub y | aaddi y
  | ashli y | ashri y | aandi y | amul y | amin y | amax y | acmpCc y | amovq y | aq y | kset y | loop y | binit y
  | barv y | barvRemote y | bwait y | btest y | fence y | drain y | amo y | cas y | bank y | rres y | rpub y | spawn y
  | tlaunch y | twait y | tstat y | spalloc y | spfree y | yield y | sege y | rdv y | fuse y | decpl y | rejoin y
  | glaunch y | gcommit y | winw y | ringvoid y | gswap y =>
    exact if_pos bad
  | vdiv hi y | vsqrt hi y => exact (congrArg (holding 16) (if_pos bad)).trans (holding_raise ..)
  | eret y => exact if_pos (Bool.or_eq_true_iff.2 (.inl bad))
  | _ => simp [Instr.slotOpc] at k

/-- The check of every syllable begins with its guard: 0b1000 is no guard (R60). -/
theorem wf_reserved_guard {i : Instr} {slot opc : Nat} {dst a b : BitVec 8} {imm : BitVec 24}
    (h : i.slotOpc = some (slot, opc, ⟨8, dst, a, b, imm⟩)) : i.wf = false := by
  cases i <;> simp only [Instr.slotOpc, Option.some.injEq, Prod.mk.injEq, reduceCtorEq] at h
  all_goals
    obtain ⟨-, -, rfl⟩ := h
    rfl

theorem wf_pair_reserved_guard {y : PairSyl} (h : y.guard = 8) : (Instr.pair y).wf = false := by
  obtain ⟨guard, xop, xdst, xa, xb, vop, vdst, va, vb⟩ := y
  cases h
  rfl

/-! ## Guards (R60) -/

theorem guard_complements (sel : BitVec 4) : sel.getLsbD 3 = decide (8 ≤ sel.toNat) := BitVec.msb_eq_decide sel

/-- A field that names something reads the bit it names, complemented where bit 3 is set. -/
theorem guard_of_pos {sel : BitVec 4} (h : 1 ≤ sel.toNat) (named : Bool) :
    (if sel = 0 then true else named != sel.getLsbD 3) = (named != decide (8 ≤ sel.toNat)) := by
  have nz : sel ≠ 0 := by
    rintro rfl
    exact absurd h (by decide)
  rw [if_neg nz, guard_complements]

theorem guardX_of_pos (g : Group) {sel : BitVec 4} (h : 1 ≤ sel.toNat) (b : Nat) :
    g.guardX sel b = ((g.rdM (sel.toNat % 8)).getLsbD b != decide (8 ≤ sel.toNat)) := guard_of_pos h _

theorem guardA_of_pos (g : Group) {sel : BitVec 4} (h : 1 ≤ sel.toNat) (b : Nat) :
    g.guardA sel b = ((g.rdG (sel.toNat % 8)).getLsbD b != decide (8 ≤ sel.toNat)) := guard_of_pos h _

/-- Settles O11: a positive field reads the predicate it names, one with bit 3 set that predicate's complement, and the one
field that names none fails the encoding check of every syllable. -/
theorem guardsSelect : Obligations.GuardsSelect := by
  intro g sel b
  refine ⟨?_, fun lo hi => ?_, fun lo hi => ?_, ?_, ?_⟩
  · rintro rfl
    exact ⟨rfl, rfl⟩
  · have pos : ¬ 8 ≤ sel.toNat := by omega
    have ix : sel.toNat % 8 = sel.toNat := Nat.mod_eq_of_lt (by omega)
    simp [guardX_of_pos g lo, guardA_of_pos g lo, pos, ix]
  · have one : 1 ≤ sel.toNat := by omega
    have neg : 8 ≤ sel.toNat := by omega
    have ix : sel.toNat % 8 = sel.toNat - 8 := by omega
    simp [guardX_of_pos g one, guardA_of_pos g one, neg, ix]
  · rintro rfl i slot opc ⟨guard, dst, a, c, imm⟩ s h rfl
    exact exec_bad (.inl (by simp [h])) (wf_reserved_guard h) s
  · rintro rfl y s h
    exact exec_bad (.inr ⟨y, rfl⟩) (wf_pair_reserved_guard h) s

/-! ## Micro-opcodes (R77) -/

/-- The micro-opcode of an instruction; none for a syllable or an event. -/
def microCode : Instr → Option Nat
  | .strm .. => some 0x0
  | .strc .. => some 0x1
  | .lst .. => some 0x2
  | .swp => some 0x3
  | .adv => some 0x4
  | .zero => some 0x5
  | .waitb .. => some 0x6
  | .arrb .. => some 0x7
  | .lp _ | .lpReg _ => some 0x8
  | .el => some 0x9
  | .ainc .. => some 0xA
  | .chk _ => some 0xB
  | .nopm => some 0xC
  | .retm => some 0xD
  | _ => none

theorem microCode_lt {i : Instr} {n : Nat} (h : microCode i = some n) : n < 0xE := by
  cases i <;> cases h <;> decide

/-- The fixed bits of a row include the micro-opcode. -/
theorem code_of_masked {w m c : BitVec 32} (h : w &&& m = c) (hm : m.extractLsb' 28 4 = BitVec.allOnes 4) :
    w.extractLsb' 28 4 = c.extractLsb' 28 4 := by
  rw [← h, BitVec.extractLsb'_and, hm, BitVec.and_allOnes]

/-- One row of the micro-op table: the word has the row's code, or a later row decides. -/
theorem code_of_row {w m c : BitVec 32} {i j : Instr} {rest : Except DecodeErr Instr}
    (h : (if w &&& m = c then .ok j else rest) = .ok i) (hm : m.extractLsb' 28 4 = BitVec.allOnes 4)
    (hj : microCode j = some (c.extractLsb' 28 4).toNat)
    (later : rest = .ok i → microCode i = some (w.extractLsb' 28 4).toNat) :
    microCode i = some (w.extractLsb' 28 4).toNat := by
  by_cases row : w &&& m = c
  · rw [if_pos row] at h
    cases h
    rw [hj, code_of_masked row hm]
  · rw [if_neg row] at h
    exact later h

/-- A micro-op's word carries its micro-opcode in bits 31:28. -/
theorem decodeMicro_code {w : BitVec 32} {i : Instr} (h : decodeMicro w = .ok i) :
    microCode i = some (w.extractLsb' 28 4).toNat := by
  unfold decodeMicro at h
  iterate 15 refine code_of_row h rfl rfl fun h => ?_
  cases h

/-- Under each assigned code, the word whose other bits are zero is a micro-op. -/
theorem decodeMicro_bare : ∀ k < 0xE, (decodeMicro (BitVec.ofNat 4 k ++ 0#28)).isOk = true := by
  decide

/-- Settles O3: the code of a decoded word is its instruction's place in the list, and each place is reached by the word
that has zeros below its code. -/
theorem microCodes : Obligations.MicroCodes := by
  unfold Obligations.MicroCodes
  intro names code
  have named (w : BitVec 32) (i : Instr) (h : decodeMicro w = .ok i) : ∃ p, names[code w]? = some p ∧ p i = true := by
    have hc : microCode i = some (code w) := decodeMicro_code h
    generalize code w = n at hc
    cases i <;> cases hc <;> exact ⟨_, rfl, rfl⟩
  refine ⟨named, fun k p hp => ?_, fun w i big h => ?_⟩
  · have lt : k < 0xE := (List.getElem?_eq_some_iff.1 hp).1
    have hk : code (BitVec.ofNat 4 k ++ 0#28) = k :=
      (congrArg BitVec.toNat BitVec.extractLsb'_append_eq_left).trans (Nat.mod_eq_of_lt (by omega))
    have ok := decodeMicro_bare k lt
    cases h : decodeMicro (BitVec.ofNat 4 k ++ 0#28) with
    | error e => rw [h] at ok; cases ok
    | ok i =>
      obtain ⟨q, hq, hi⟩ := named _ i h
      rw [hk, hp] at hq
      cases hq
      exact ⟨_, i, hk, h, hi⟩
  · exact absurd (microCode_lt (decodeMicro_code h)) (Nat.not_lt.2 big)

end Sys2Proof.Machine
end

section
/-!
SUPPORT. CMP.cc and ACMP.cc: the condition that a code names (R88), and the result of a compare that acts (R89, R92).
-/
namespace Sys2Proof.Machine

/-! ## Fields of IMM24 (R67) -/

theorem im_eq_extract (y : Syl) (hi lo : Nat) : y.im hi lo = (y.imm.extractLsb' lo (hi + 1 - lo)).toNat :=
  (BitVec.extractLsb'_toNat ..).symm

theorem fn_eq_extract (y : Syl) : y.fn = (y.imm.extractLsb' 4 4).toNat := im_eq_extract y 7 4

/-! ## A compare that acts (R89, R92) -/

/-- Reading the sources leaves the syllable in its slot, so the mask result is one of slot 0. -/
theorem exec_cmpCc {y : Syl} {s : State} (h : OpenX (.cmpCc y) y 0 s) :
    exec (.cmpCc y) s = let (a, b, t) := readX2 y.srca y.srcb s
      .next (t.upd (·.launch
        { left := 1, slot := 0, dst := .mreg (y.imm.extractLsb' 0 4).toNat,
          val := if scalarCond y.fn a b then BitVec.allOnes 2048 else 0, en := BitVec.allOnes 2048 })) := by
  have meaning : exec (.cmpCc y) s = execCmpCc y s := rfl
  obtain ⟨-, -, stays⟩ := readX2_acts y.srca y.srcb s
  have ⟨_, slot, _⟩ := h
  rw [meaning, execCmpCc, syllable_openX h]
  simp only [finishM, stays, slot, im_eq_extract y 3 0]

/-- The predicate result waits for the end of the bundle. -/
theorem exec_acmpCc {y : Syl} {s : State} (h : OpenA (.acmpCc y) y 7 s) :
    exec (.acmpCc y) s = let (a, b, t) := readA2 y.srca y.srcb s
      .next (t.upd (·.later 1 (y.imm.extractLsb' 0 3).toNat
        (if scalarCond y.fn a b then BitVec.allOnes 64 else 0))) := by
  have meaning : exec (.acmpCc y) s = execAcmpCc y s := rfl
  rw [meaning, execAcmpCc, syllable_openA h]
  simp only [finishG, im_eq_extract y 2 0]

/-! ## Codes without a condition (R88) -/

/-- The check of CMP.cc ends with its code. -/
theorem wf_cmpCc_reserved {y : Syl} (h : 10 ≤ y.fn) : (Instr.cmpCc y).wf = false :=
  Bool.and_eq_false_iff.2 (.inr (decide_eq_false (Nat.not_le.2 h)))

/-- So does that of ACMP.cc. -/
theorem wf_acmpCc_reserved {y : Syl} (h : 10 ≤ y.fn) : (Instr.acmpCc y).wf = false :=
  Bool.and_eq_false_iff.2 (.inr (decide_eq_false (Nat.not_le.2 h)))

/-- Settles O21: under each code of the table the model makes the comparison that the table names, signed or unsigned, and
both forms write its truth; a code past the table fails the encoding check of both. -/
theorem conditionCodes : Obligations.ConditionCodes := by
  unfold Obligations.ConditionCodes
  intro conds
  have tabled : ∀ e ∈ conds, scalarCond e.1 = e.2 := by
    simp only [conds, List.forall_mem_cons]
    exact ⟨rfl, rfl, rfl, rfl, rfl, rfl, rfl, rfl, rfl, rfl, List.forall_mem_nil _⟩
  refine ⟨fun e he y s code => ?_, fun y s past => ?_⟩
  · have cond : scalarCond y.fn = e.2 := by rw [fn_eq_extract, code, tabled e he]
    refine ⟨fun acts => ?_, fun acts => ?_⟩
    · rw [exec_cmpCc acts, cond]
      rfl
    · rw [exec_acmpCc acts, cond]
      rfl
  · rw [← fn_eq_extract] at past
    exact ⟨exec_bad (.inl rfl) (wf_cmpCc_reserved past) s, exec_bad (.inl rfl) (wf_acmpCc_reserved past) s⟩

end Sys2Proof.Machine
end

section
/-!
SUPPORT. The bits of a packed number (R108), the shape of a V form that acts (R133, R134), the mask forms and VSEL (R145,
R146), and VZIP and VUNZIP (R153).
-/
namespace Sys2Proof

/-! ## Packed bits (R108, R133) -/

theorem packNat_lt (w : Nat) (f : Nat → Nat) (n : Nat) : packNat w f n < 2 ^ (w * n) := by
  induction n with
  | zero => simp [packNat]
  | succ n ih =>
    have fits : f n % 2 ^ w < 2 ^ w := Nat.mod_lt _ (Nat.two_pow_pos w)
    calc packNat w f n + (f n % 2 ^ w) <<< (w * n)
        < 2 ^ (w * n) + (f n % 2 ^ w) * 2 ^ (w * n) := by rw [Nat.shiftLeft_eq]; omega
      _ = (f n % 2 ^ w + 1) * 2 ^ (w * n) := by ring
      _ ≤ 2 ^ w * 2 ^ (w * n) := Nat.mul_le_mul_right _ fits
      _ = 2 ^ (w * (n + 1)) := by ring

/-- Each element lies above those before it, so no carry crosses between them. -/
theorem packNat_succ_or (w : Nat) (f : Nat → Nat) (n : Nat) :
    packNat w f (n + 1) = (f n % 2 ^ w) <<< (w * n) ||| packNat w f n := by
  rw [packNat, Nat.add_comm, Nat.shiftLeft_add_eq_or_of_lt (packNat_lt w f n)]

theorem testBit_packNat_one (f : Nat → Nat) {n i : Nat} (h : i < n) : (packNat 1 f n).testBit i = (f i).testBit 0 := by
  induction n with
  | zero => exact absurd h (Nat.not_lt_zero i)
  | succ n ih =>
    rw [packNat_succ_or, Nat.testBit_or, Nat.testBit_shiftLeft, Nat.one_mul]
    obtain below | rfl := Nat.lt_succ_iff_lt_or_eq.1 h
    · simp [ih below, Nat.not_le.2 below]
    · have above : (packNat 1 f i).testBit i = false :=
        Nat.testBit_lt_two_pow (by simpa using packNat_lt 1 f i)
      simp [above]

theorem getLsbD_maskOf (f : Nat → Bool) {i : Nat} (h : i < 256) : (maskOf f).getLsbD i = f i := by
  rw [maskOf, BitVec.getLsbD_ofNat, testBit_packNat_one _ h]
  cases f i <;> simp [bool1, h]

namespace Machine

/-! ## V forms that act (R133) -/

theorem vform_ok {i : Instr} {y : Syl} {t : Ty} (h : i.wf = true) (ty : Ty.ofCode y.ty = some t)
    (act : Ty → (Nat → Bool) → State → State) (s : State) :
    vform i y act s = .next (act t (s.me.enables y.guard t.count) s) := by
  rw [vform, perElement_ok h, ty]

/-! ## VSEL and the mask forms (R145, R146) -/

/-- The selecting mask is read as the syllable issues, before its sources pop. -/
theorem exec_vsel {hi : Bool} {y : Syl} {t : Ty} (h : (Instr.vsel hi y).wf = true) (ty : Ty.ofCode y.ty = some t) (s : State) :
    exec (.vsel hi y) s =
      let (a, u) := readV y.srca s
      let (b, v) := readV y.srcb u
      .next (finishV 2 y t.width (s.me.enables y.guard t.count)
        (fun e => if (s.me.rdM y.md).getLsbD e then a.at t e else b.at t e) v) := by
  have meaning : exec (.vsel hi y) s = execVsel hi y s := rfl
  rw [meaning, execVsel, vform_ok h ty]

/-- A V form whose result is `op` on the masks that its sources name, which acts on each bit as `bit`; `two` where it checks
both sources. -/
structure IsMaskForm (form : Bool → Syl → Instr) (two : Bool) (bit : Bool → Bool → Bool) (op : Mask → Mask → Mask) : Prop where
  meaning : ∀ hi y s, exec (form hi y) s = maskForm (form hi y) y op s
  check : ∀ hi y, (form hi y).wf = okMask y two
  bitwise : ∀ a b, ∀ i < 256, (op a b).getLsbD i = bit (a.getLsbD i) (b.getLsbD i)

theorem isMaskForm_mand : IsMaskForm .mand true (fun a b => a && b) (· &&& ·) :=
  ⟨fun _ _ _ => rfl, fun _ _ => rfl, fun _ _ _ _ => BitVec.getLsbD_and⟩

theorem isMaskForm_mor : IsMaskForm .mor true (fun a b => a || b) (· ||| ·) :=
  ⟨fun _ _ _ => rfl, fun _ _ => rfl, fun _ _ _ _ => BitVec.getLsbD_or⟩

theorem isMaskForm_mxor : IsMaskForm .mxor true (fun a b => a ^^ b) (· ^^^ ·) :=
  ⟨fun _ _ _ => rfl, fun _ _ => rfl, fun _ _ _ _ => BitVec.getLsbD_xor⟩

theorem isMaskForm_mnot : IsMaskForm .mnot false (fun a _ => !a) (fun a _ => ~~~ a) :=
  ⟨fun _ _ _ => rfl, fun _ _ => rfl, fun _ _ i h => by simp [h]⟩

/-- A source that names no mask fails the check. -/
theorem okMask_false_of_large {y : Syl} {two : Bool} (h : 0x0F < y.srca.toNat ∨ (two = true ∧ 0x0F < y.srcb.toNat)) :
    okMask y two = false := by
  obtain a | ⟨rfl, b⟩ := h
  · simp [okMask, Nat.not_le.2 a]
  · simp [okMask, Nat.not_le.2 b]

section
variable {form : Bool → Syl → Instr} {two : Bool} {bit : Bool → Bool → Bool} {op : Mask → Mask → Mask}

theorem IsMaskForm.exec_bad (k : IsMaskForm form two bit op) {y : Syl}
    (h : 0x0F < y.srca.toNat ∨ (two = true ∧ 0x0F < y.srcb.toNat)) (hi : Bool) (s : State) :
    exec (form hi y) s = .next (raise ILLOP s) := by
  rw [k.meaning, maskForm, perElement_bad ((k.check hi y).trans (okMask_false_of_large h))]

/-- The result in flight: written where the guard's bits are 1, bit by bit from the two masks. -/
theorem IsMaskForm.launches (k : IsMaskForm form two bit op) {hi : Bool} {y : Syl} (h : (form hi y).wf = true) (s : State) :
    ∃ f : Flight, exec (form hi y) s = .next (s.upd (·.launch f)) ∧
      f.left = 1 ∧ f.slot = s.here.slot ∧ f.dst = .mreg y.md ∧ f.nwb = false ∧
      ∀ i < 256, f.en.getLsbD i = s.me.guardX y.guard i ∧
        f.val.getLsbD i = bit ((s.me.rdM y.srca.toNat).getLsbD i) ((s.me.rdM y.srcb.toNat).getLsbD i) := by
  have launched := (k.meaning hi y s).trans (perElement_ok h _ s)
  refine ⟨_, launched, rfl, rfl, rfl, rfl, fun i lt => ?_⟩
  have wide : i < 2048 := by omega
  simp [wide, getLsbD_maskOf _ lt, k.bitwise _ _ i lt]

end

/-- Settles O26: VSEL's choice is made element by element under the mask in MD, apart from the guard; each of the four mask
forms acts bit by bit, and a source past the last mask fails its check. -/
theorem masksSelect : Obligations.MasksSelect := by
  unfold Obligations.MasksSelect
  refine ⟨fun hi y s t wf ty => exec_vsel wf ty s, fun e mem hi y s => ?_⟩
  obtain ⟨op, k⟩ : ∃ op, IsMaskForm e.1 e.2.1 e.2.2 op := by
    simp only [List.mem_cons, List.not_mem_nil, or_false] at mem
    obtain rfl | rfl | rfl | rfl := mem
    exacts [⟨_, isMaskForm_mand⟩, ⟨_, isMaskForm_mor⟩, ⟨_, isMaskForm_mxor⟩, ⟨_, isMaskForm_mnot⟩]
  exact ⟨fun wf => k.launches wf s, fun large => k.exec_bad large hi s⟩

/-! ## VZIP and VUNZIP (R153) -/

/-- Element `e` of VZIP: an even one from `a`, an odd one from `b`, in the half that FN names. -/
def zipElem (t : Ty) (fn : Nat) (a b : VOpnd) (e : Nat) : Nat :=
  let h := fn * (t.count / 2)
  if e % 2 = 0 then a.at t (h + e / 2) else b.at t (h + e / 2)

theorem zipElem_even (t : Ty) (fn : Nat) (a b : VOpnd) (i : Nat) :
    zipElem t fn a b (2 * i) = a.at t (fn * (t.count / 2) + i) := by
  simp [zipElem]

theorem zipElem_odd (t : Ty) (fn : Nat) (a b : VOpnd) (i : Nat) :
    zipElem t fn a b (2 * i + 1) = b.at t (fn * (t.count / 2) + i) := by
  have odd : (2 * i + 1) % 2 = 1 := by omega
  have half : (2 * i + 1) / 2 = i := by omega
  simp [zipElem, odd, half]

/-- Element `e` of VUNZIP: the first half from `a`, the second from `b`, every other element from FN on. -/
def unzipElem (t : Ty) (fn : Nat) (a b : VOpnd) (e : Nat) : Nat :=
  let half := t.count / 2
  if e < half then a.at t (2 * e + fn) else b.at t (2 * (e - half) + fn)

theorem unzipElem_low {t : Ty} {i : Nat} (h : i < t.count / 2) (fn : Nat) (a b : VOpnd) :
    unzipElem t fn a b i = a.at t (2 * i + fn) := if_pos h

theorem unzipElem_high (t : Ty) (fn : Nat) (a b : VOpnd) (i : Nat) :
    unzipElem t fn a b (t.count / 2 + i) = b.at t (2 * i + fn) := by
  simp [unzipElem]

theorem exec_vzip {hi : Bool} {y : Syl} {t : Ty} (h : (Instr.vzip hi y).wf = true) (ty : Ty.ofCode y.ty = some t) (s : State) :
    exec (.vzip hi y) s =
      let (a, u) := readV y.srca s
      let (b, v) := readV y.srcb u
      .next (finishV 3 y t.width (s.me.enables y.guard t.count) (zipElem t y.fn a b) v) := by
  have meaning : exec (.vzip hi y) s = execVzip hi y s := rfl
  rw [meaning, execVzip, vform_ok h ty]
  rfl

theorem exec_vunzip {hi : Bool} {y : Syl} {t : Ty} (h : (Instr.vunzip hi y).wf = true) (ty : Ty.ofCode y.ty = some t)
    (s : State) :
    exec (.vunzip hi y) s =
      let (a, u) := readV y.srca s
      let (b, v) := readV y.srcb u
      .next (finishV 3 y t.width (s.me.enables y.guard t.count) (unzipElem t y.fn a b) v) := by
  have meaning : exec (.vunzip hi y) s = execVunzip hi y s := rfl
  rw [meaning, execVunzip, vform_ok h ty]
  rfl

/-- FN is 0 or 1 (R153). -/
theorem okVzip_false_of_fn {y : Syl} (h : 2 ≤ y.fn) : okVzip y = false := by
  have past : ¬ y.fn ≤ 1 := by omega
  simp [okVzip, past]

/-- Settles O27: the elements of both forms at the positions that the rule names, and the check of FN. -/
theorem zipUnzip : Obligations.ZipUnzip := by
  unfold Obligations.ZipUnzip
  intro hi y s
  refine ⟨fun t ty i low => ⟨fun wf => ?_, fun wf => ?_⟩, fun past => ?_⟩
  · exact ⟨_, exec_vzip wf ty s, zipElem_even .., zipElem_odd ..⟩
  · exact ⟨_, exec_vunzip wf ty s, unzipElem_low low .., unzipElem_high ..⟩
  · have bad : okVzip y = false := okVzip_false_of_fn past
    exact ⟨exec_bad (i := .vzip hi y) (.inl rfl) bad s, exec_bad (i := .vunzip hi y) (.inl rfl) bad s⟩

end Machine
end Sys2Proof
end
